-- ==== Sys2Proof/Word.lean ====
section
/-! DEFINITION. The word types of the A96 (spec/00_scope.md R14, R16; spec/03_core.md R80). -/

namespace Sys2Proof

/-- A scalar register's contents, 64 bits (R80). -/
abbrev Word := BitVec 64
/-- A 16-bit instruction word (R104). -/
abbrev Half := BitVec 16
/-- One byte of memory. -/
abbrev Byte := BitVec 8
/-- A 56-bit virtual address (R80, R231). -/
abbrev VAddr := BitVec 56
/-- The storage of one vector register; `RLEN` of it is used (R80). -/
abbrev VReg := BitVec 8192
/-- One mask register: bit i governs element i (R80). -/
abbrev MaskBits := BitVec 8192

end Sys2Proof
end

