-- ==== Sys2Proof/Syntax.lean ====
section
/-! DEFINITION. Instructions and steps of the A96 as data: one constructor for each row of spec/opcode_table.json:
252 encoded instructions (spec/04_encoding.md R119 to R126), and 102 steps of the part that have no encoding
(spec/95_what_each_step_holds.md). A step without an encoding, and an encoded form whose only operand is an immediate, takes
its operand from the latch `State.opd` (`Operand`): Lean's compiler builds no constructor with fields past the 245th. -/

namespace Sys2Proof

/-- Number of an `x` register (R106). -/
abbrev XReg := BitVec 5
/-- Number of a `v` register (R106). -/
abbrev VNum := BitVec 5
/-- Number of an `m` register (R106). -/
abbrev MReg := BitVec 3
/-- Number of a `z` register (R106). -/
abbrev ZReg := BitVec 3

/-- The rb operand of a form that takes a vector group or, under `VX` or `XS`, an `x` register (R110, R189). -/
inductive VSrc where
  | v (r : VNum)
  | x (r : XReg)
  deriving DecidableEq, Repr

/-- Names a context: of a core side (slot 0-7 user, 8 message, 9 firmware) or of a Keep (slot 0-2 tenant, 3 firmware)
(R4, R75, R284, numbered as the master selector of R392). -/
structure CtxId where
  keep : Bool
  unit : Nat
  side : Bool
  slot : Nat
  deriving DecidableEq, Repr

/-- What an access needs its rights for (R236), and how it is counted when it faults. -/
inductive Access where
  | fetch | load | store | atomic | wait | engRead | engWrite | spill | fill
  deriving DecidableEq, Repr

/-- What a context issued after a memory operation that is not confirmed, as a fault of that operation discards it (R91): the
registers that later instructions wrote, each with its value before them; the vector configuration and `FLAGS` before them;
the return stack before them, as its entries, `HWDEPTH` and `SPILLED`; `VDIRTY` with `VHWM`, and `TRAVBUDGET`, before them; the strip
advances among them; and how many VQ entries they took. -/
structure Later where
  xs : List (XReg × Word)
  vs : List (VNum × VReg)
  ms : List (MReg × MaskBits)
  cfg : Option (BitVec 14 × BitVec 16 × BitVec 3)
  flags : Option (BitVec 8)
  calls : Option (List VAddr × Nat × Nat)
  dirty : Option (BitVec 32 × BitVec 11)
  trav : Option (BitVec 32)
  strips : Nat
  vq : Nat
  deriving DecidableEq, Repr

/-- Nothing issued after. -/
def Later.none : Later :=
  { xs := [], vs := [], ms := [], cfg := .none, flags := .none, calls := .none, dirty := .none, trav := .none, strips := 0, vq := 0 }

/-- A memory operation that a context has issued and that the memory system has still to confirm (R90) or perform (R92):
its access, address, size in bytes, the register a load writes (sign-extended or not), the bytes a store writes, the
chain start that a fault of it records, and what the context has issued after it. -/
structure MemOp where
  acc : Access
  va : VAddr
  size : Nat
  reg : XReg
  signed : Bool
  data : Word
  fpc : VAddr
  later : Later
  deriving DecidableEq, Repr

/-- A message of the network (R345, R347, R349). `net` true is a reply. -/
structure Message where
  net : Bool
  tag : BitVec 8
  rtag : BitVec 8
  seq : BitVec 16
  pdid : BitVec 12
  abort : Bool
  srcPkg : BitVec 8
  srcCore : Nat
  srcSide : Bool
  dstPkg : BitVec 8
  dstCore : Nat
  dstSide : Bool
  payload : List Word
  deriving DecidableEq, Repr

/-- Names an open packet: its package, its queue and its packet number (R31, R352). -/
structure PktRef where
  pkg : BitVec 8
  q : Nat
  num : BitVec 32
  deriving DecidableEq, Repr

/-- A migrating firing as it travels (R351, R352). -/
structure MigRec where
  pc : VAddr
  x18 : List Word
  fid : Word
  pkt : PktRef
  deriving DecidableEq, Repr

/-- An access of the host through BAR 4 or CXL.mem (R234, R385): the physical address, the size in bytes, the data when it
writes, and whether a read is made for caching. -/
structure HostAccess where
  pa : Nat
  size : Nat
  write : Option Word
  caching : Bool
  deriving DecidableEq, Repr

/-- The registers that only firmware or the host writes and that have no number of R101 (R62, R241, R318, R343, R386, R403 to
R405, R409), with the unit each lies in; and the words of a queue descriptor (R31), which firmware writes. -/
inductive MgmtReg where
  | tagbase (core : Nat) | msgtrap (core : Nat) | migq (core : Nat) | migovf (core : Nat) | fwspill (core : Nat)
  | keepFwspill (pod : Nat)
  | postown (die : Nat) (k : Nat) | pgroot (die : Nat) | mixtrap (md : Nat)
  | pqeage | pqeglim | pqeopen
  | sdlease (sd : Bool) | sdquiet (sd : Bool) | sdckpt (sd : Bool) | sdckptlog (sd : Bool) | sdroll (sd : Bool)
  | sdstat (sd : Bool) | sdpeer (sd : Bool) | hostpkg (sd : Bool)
  | savetab | fwimage | secver | mgmtev | mbxtail | mbxhead | bootstat | pwrlim
  | ringWord (off : Nat)
  | qdesc (q : Nat) (word : Nat)
  | sysreg (n : BitVec 8)
  deriving DecidableEq, Repr

/-- What a compute die asks of a switch die for a region (R370): to read it, to read it and own it where no die holds it, or to
write it. -/
inductive Want where
  | read | readOwn | write
  deriving DecidableEq, Repr

/-- The operand of an instruction or step whose constructor has no field: what `State.opd` holds while it executes. -/
inductive Operand where
  /-- No operand. -/
  | none

  /-- An immediate, or a mask of bits. -/
  | imm (v : Word)
  /-- A register. -/
  | reg (d : XReg)
  /-- A core, die, pod, queue or index. -/
  | unit (n : Nat)
  /-- A side of a core. -/
  | side (core : Nat) (side : Bool)
  /-- A context. -/
  | ctx (c : CtxId)
  /-- A memory operation of a context. -/
  | ctxOp (c : CtxId) (op : MemOp)
  /-- A waiting context and the phase it is told of. -/
  | ctxPhase (c : CtxId) (phase : BitVec 32)
  /-- A context and the package that answers its gather. -/
  | ctxPkg (c : CtxId) (pkg : BitVec 8)
  /-- A copy engine of a die. -/
  | engine (die : Nat) (eng : Nat)
  /-- A collective instance. -/
  | coll (desc : VAddr) (epoch : BitVec 32)
  /-- A weight set and the register it is written from. -/
  | wset (w : BitVec 6) (d : XReg)
  /-- A queue, its new tail, and the domain of the context of another package that writes it; none for the host (R35). -/
  | tail (q : Nat) (t : BitVec 32) (who : Option (BitVec 12))
  /-- An 8-byte access of the host through BAR 0 or BAR 2 at an offset, with the data when it writes. -/
  | bar (off : Nat) (data : Option Word)
  /-- A register and the register of a firmware context that receives its value. -/
  | mgmtRead (reg : MgmtReg) (c : CtxId) (d : XReg)
  /-- An interrupt vector of a domain. -/
  | vector (pdid : BitVec 12) (vec : BitVec 4)
  /-- An actor of an open graph packet. -/
  | actor (q : Nat) (num : BitVec 32) (actor : Nat)
  /-- The gang queue of a die, or of the package. -/
  | place (at_ : Option Nat)
  /-- An open packet. -/
  | packet (q : Nat) (num : BitVec 32)
  /-- A message. -/
  | message (msg : Message)
  /-- A firing that arrives at a core. -/
  | migration (core : Nat) (r : MigRec)
  /-- A bundle set and a slot of its record. -/
  | bundleSlot (desc : VAddr) (slot : Nat)
  /-- A compute die, a line, and what it asks for. -/
  | request (agent : Nat) (line : VAddr) (want : Want)
  /-- A holder, a line, and whether to own it. -/
  | line (agent : Nat) (line : VAddr) (own : Bool)
  /-- A switch die and a region. -/
  | region (sd : Bool) (base : VAddr)
  /-- A holder and a region. -/
  | lease (agent : Nat) (base : VAddr)
  /-- A switch die. -/
  | sdie (sd : Bool)
  /-- A package. -/
  | pkg (p : BitVec 8)
  /-- A line that the host snoops, and whether to own it. -/
  | snoop (line : VAddr) (own : Bool)
  /-- A line. -/
  | addr (line : VAddr)
  /-- An access of the host. -/
  | host (acc : HostAccess)
  /-- A region and how far it is rolled back. -/
  | rollback (sd : Bool) (base : VAddr) (back : BitVec 3)
  /-- A register and its new value. -/
  | mgmt (reg : MgmtReg) (v : Word)
  /-- A domain and the image of its descriptor. -/
  | domain (pdid : Nat) (img : Word)
  /-- A window of a domain and its image. -/
  | window (pdid : Nat) (idx : Nat) (img : Word)
  /-- A queue and its prior head. -/
  | enable (q : Nat) (v : BitVec 32)
  /-- A queue and the save areas for its firings. -/
  | preempt (q : Nat) (areas : VAddr) (n : Nat)
  /-- A master of a die. -/
  | master (die : Nat) (sel : Word)
  /-- A master of a die and its save area. -/
  | kill (die : Nat) (sel : Word) (area : Word)
  /-- A Keep context to bind. -/
  | keep (pod : Nat) (slot : Nat) (pdid : BitVec 12) (entry : Word) (arg : Word)
  /-- A package number with its routes. -/
  | configure (pkg : BitVec 8) (hostpkg : Word) (routes : Word)
  /-- A firmware image and its list. -/
  | activate (img : Word) (list : Word)
  /-- Dies, a power state and a limit. -/
  | power (mask : BitVec 8) (ps : Nat) (lim : Nat)
  /-- A trained host link. -/
  | link (rate : Nat) (width : Nat) (cxl : Bool)
  /-- A part of a certificate chain. -/
  | cert (slot : Nat) (off : Nat) (len : Nat)
  /-- A certificate slot and a nonce. -/
  | challenge (slot : Nat) (nonce : BitVec 256)
  /-- A request code. -/
  | code (b : Byte)
  /-- A request that the link sends again. -/
  | replay (src : CtxId) (seq : BitVec 16)
  /-- A port of a switch die. -/
  | port (sd : Bool) (port : BitVec 3)
  deriving DecidableEq, Repr

/-- An instruction, or a step of the part. -/
inductive Instr where
  /-- `ADD` (R158). Adds two x registers through FatAdd, with ra as the pointer operand. -/
  | add (d : XReg) (a : XReg) (b : XReg)
  /-- `SUB` (R158). Subtracts rb from ra modulo 2^64. -/
  | sub (d : XReg) (a : XReg) (b : XReg)
  /-- `AND` (R158). Bitwise AND of two x registers. -/
  | and (d : XReg) (a : XReg) (b : XReg)
  /-- `OR` (R158). Bitwise OR of two x registers. -/
  | or (d : XReg) (a : XReg) (b : XReg)
  /-- `XOR` (R158). Bitwise XOR of two x registers. -/
  | xor (d : XReg) (a : XReg) (b : XReg)
  /-- `SLT` (R158). Sets xd to 1 when ra is less than rb as signed values. -/
  | slt (d : XReg) (a : XReg) (b : XReg)
  /-- `SLTU` (R158). Sets xd to 1 when ra is less than rb as unsigned values. -/
  | sltu (d : XReg) (a : XReg) (b : XReg)
  /-- `SEQ` (R158). Sets xd to 1 when ra equals rb. -/
  | seq (d : XReg) (a : XReg) (b : XReg)
  /-- `SLL` (R159). Shifts ra left by rb[5:0]. -/
  | sll (d : XReg) (a : XReg) (b : XReg)
  /-- `SRL` (R159). Shifts ra right logically by rb[5:0]. -/
  | srl (d : XReg) (a : XReg) (b : XReg)
  /-- `SRA` (R159). Shifts ra right arithmetically by rb[5:0]. -/
  | sra (d : XReg) (a : XReg) (b : XReg)
  /-- `ROR` (R159). Rotates ra right by rb[5:0]. -/
  | ror (d : XReg) (a : XReg) (b : XReg)
  /-- `MUL` (R160). Delivers the low 64 bits of the product. -/
  | mul (d : XReg) (a : XReg) (b : XReg)
  /-- `MHIGH` (R160). Delivers the high 64 bits of the signed product. -/
  | mhigh (d : XReg) (a : XReg) (b : XReg)
  /-- `MHIGHU` (R160). Delivers the high 64 bits of the unsigned product. -/
  | mhighu (d : XReg) (a : XReg) (b : XReg)
  /-- `MHIGHX` (R160). Delivers the high 64 bits of the signed-by-unsigned product. -/
  | mhighx (d : XReg) (a : XReg) (b : XReg)
  /-- `DIV` (R161). Signed division truncating toward zero, raising DZ on a zero divisor. -/
  | div (d : XReg) (a : XReg) (b : XReg)
  /-- `DIVU` (R161). Unsigned division, raising DZ on a zero divisor. -/
  | divu (d : XReg) (a : XReg) (b : XReg)
  /-- `REM` (R161). Signed remainder, raising DZ on a zero divisor. -/
  | rem (d : XReg) (a : XReg) (b : XReg)
  /-- `REMU` (R161). Unsigned remainder, raising DZ on a zero divisor. -/
  | remu (d : XReg) (a : XReg) (b : XReg)
  /-- `CLZ` (R162). Counts the leading zero bits of ra. -/
  | clz (d : XReg) (a : XReg)
  /-- `CTZ` (R162). Counts the trailing zero bits of ra. -/
  | ctz (d : XReg) (a : XReg)
  /-- `POPC` (R162). Counts the one bits of ra. -/
  | popc (d : XReg) (a : XReg)
  /-- `BREV` (R162). Reverses the bit order of ra. -/
  | brev (d : XReg) (a : XReg)
  /-- `SEXTB` (R162). Sign-extends the low byte of ra. -/
  | sextb (d : XReg) (a : XReg)
  /-- `SEXTH` (R162). Sign-extends the low halfword of ra. -/
  | sexth (d : XReg) (a : XReg)
  /-- `SEXTW` (R162). Sign-extends the low word of ra. -/
  | sextw (d : XReg) (a : XReg)
  /-- `ZEXTW` (R162). Zero-extends the low word of ra. -/
  | zextw (d : XReg) (a : XReg)
  /-- `ADDI` (R163). Adds a signed immediate to ra through FatAdd. -/
  | addi (d : XReg) (a : XReg) (imm : Word)
  /-- `ANDI` (R163). ANDs ra with a signed immediate. -/
  | andi (d : XReg) (a : XReg) (imm : Word)
  /-- `ORI` (R163). ORs ra with an unsigned immediate. -/
  | ori (d : XReg) (a : XReg) (imm : Word)
  /-- `XORI` (R163). XORs ra with an unsigned immediate. -/
  | xori (d : XReg) (a : XReg) (imm : Word)
  /-- `SLTI` (R163). Sets xd to 1 when ra is less than a signed immediate. -/
  | slti (d : XReg) (a : XReg) (imm : Word)
  /-- `SLLI` (R163). Shifts ra left by an immediate of 0 to 63. -/
  | slli (d : XReg) (a : XReg) (n : BitVec 6)
  /-- `SRLI` (R163). Shifts ra right logically by an immediate of 0 to 63. -/
  | srli (d : XReg) (a : XReg) (n : BitVec 6)
  /-- `SRAI` (R163). Shifts ra right arithmetically by an immediate of 0 to 63. -/
  | srai (d : XReg) (a : XReg) (n : BitVec 6)
  /-- `LI` (R164). Loads a sign-extended immediate into xd. -/
  | li (d : XReg) (imm : Word)
  /-- `LIS` (R164). Shifts xd left by 16 and ORs in a 16-bit immediate. -/
  | lis (d : XReg) (imm : BitVec 16)
  /-- `LEA` (R165). Computes ra plus rb scaled by 1, 2, 4 or 8 through FatAdd. -/
  | lea (d : XReg) (a : XReg) (b : XReg) (sc : BitVec 2)
  /-- `LD` (R166). Loads 8 bytes into xd. -/
  | ld (d : XReg) (a : XReg) (imm : Word)
  /-- `LW` (R166). Loads 4 bytes sign-extended into xd. -/
  | lw (d : XReg) (a : XReg) (imm : Word)
  /-- `LWU` (R166). Loads 4 bytes zero-extended into xd. -/
  | lwu (d : XReg) (a : XReg) (imm : Word)
  /-- `LH` (R166). Loads 2 bytes sign-extended into xd. -/
  | lh (d : XReg) (a : XReg) (imm : Word)
  /-- `LHU` (R166). Loads 2 bytes zero-extended into xd. -/
  | lhu (d : XReg) (a : XReg) (imm : Word)
  /-- `LB` (R166). Loads 1 byte sign-extended into xd. -/
  | lb (d : XReg) (a : XReg) (imm : Word)
  /-- `LBU` (R166). Loads 1 byte zero-extended into xd. -/
  | lbu (d : XReg) (a : XReg) (imm : Word)
  /-- `LQ` (R166). Loads 16 bytes into an even register pair. -/
  | lq (d : XReg) (a : XReg) (imm : Word)
  /-- `SD` (R167). Stores 8 bytes of the rd register. -/
  | sd (d : XReg) (a : XReg) (imm : Word) (bj : Bool)
  /-- `SW` (R167). Stores the low 4 bytes of the rd register. -/
  | sw (d : XReg) (a : XReg) (imm : Word) (bj : Bool)
  /-- `SH` (R167). Stores the low 2 bytes of the rd register. -/
  | sh (d : XReg) (a : XReg) (imm : Word) (bj : Bool)
  /-- `SB` (R167). Stores the low byte of the rd register. -/
  | sb (d : XReg) (a : XReg) (imm : Word) (bj : Bool)
  /-- `SQ` (R167). Stores an even register pair as 16 bytes. -/
  | sq (d : XReg) (a : XReg) (imm : Word) (bj : Bool)
  /-- `BEQZ` (R171). Branches when xd is zero. -/
  | beqz (d : XReg) (imm : Word)
  /-- `BNEZ` (R171). Branches when xd is nonzero. -/
  | bnez (d : XReg) (imm : Word)
  /-- `BLTZ` (R171). Branches when xd is negative. -/
  | bltz (d : XReg) (imm : Word)
  /-- `BGEZ` (R171). Branches when xd is not negative. -/
  | bgez (d : XReg) (imm : Word)
  /-- `JR` (R173). Jumps to the address in xa. -/
  | jr (a : XReg)
  /-- `CALLR` (R173). Pushes the return address and jumps to the address in xa. -/
  | callr (a : XReg)
  /-- `SRD` (R177). Reads a system register into xd. -/
  | srd (d : XReg) (n : BitVec 8)
  /-- `SWR` (R178). Writes xd to a system register that has no behaviour of its own. -/
  | swr (d : XReg) (n : BitVec 8)
  /-- `VCFG` (R190). Sets vt from xb and vl from the request, returning vl. -/
  | vcfg (d : XReg) (a : XReg) (b : XReg)
  /-- `VCFGW` (R191). Sets vw2 from xa[2:0]. -/
  | vcfgw (a : XReg)
  /-- `VCFGS` (R192). As VCFG, and advances STRIP. -/
  | vcfgs (d : XReg) (a : XReg) (b : XReg)
  /-- `VCFGI` (R190). Sets vt from an immediate and vl from the request. -/
  | vcfgi (d : XReg) (a : XReg) (imm : Word)
  /-- `VADD` (R193). Adds vector elements. -/
  | vadd (d : VNum) (a : VNum) (b : VSrc) (k : MReg)
  /-- `VSUB` (R193). Subtracts vector elements. -/
  | vsub (d : VNum) (a : VNum) (b : VSrc) (k : MReg)
  /-- `VMUL` (R193). Low half of element products. -/
  | vmul (d : VNum) (a : VNum) (b : VSrc) (k : MReg)
  /-- `VMHIGH` (R193). High half of element products. -/
  | vmhigh (d : VNum) (a : VNum) (b : VSrc) (k : MReg)
  /-- `VAND` (R193). Bitwise AND of elements. -/
  | vand (d : VNum) (a : VNum) (b : VSrc) (k : MReg)
  /-- `VOR` (R193). Bitwise OR of elements. -/
  | vor (d : VNum) (a : VNum) (b : VSrc) (k : MReg)
  /-- `VXOR` (R193). Bitwise XOR of elements. -/
  | vxor (d : VNum) (a : VNum) (b : VSrc) (k : MReg)
  /-- `VANDN` (R193). AND with complement of elements. -/
  | vandn (d : VNum) (a : VNum) (b : VSrc) (k : MReg)
  /-- `VSLL` (R193). Shifts elements left. -/
  | vsll (d : VNum) (a : VNum) (b : VSrc) (k : MReg)
  /-- `VSRL` (R193). Shifts elements right logically. -/
  | vsrl (d : VNum) (a : VNum) (b : VSrc) (k : MReg)
  /-- `VSRA` (R193). Shifts elements right arithmetically. -/
  | vsra (d : VNum) (a : VNum) (b : VSrc) (k : MReg)
  /-- `VROR` (R193). Rotates elements right. -/
  | vror (d : VNum) (a : VNum) (b : VSrc) (k : MReg)
  /-- `VMIN` (R193). Signed minimum of elements. -/
  | vmin (d : VNum) (a : VNum) (b : VSrc) (k : MReg)
  /-- `VMAX` (R193). Signed maximum of elements. -/
  | vmax (d : VNum) (a : VNum) (b : VSrc) (k : MReg)
  /-- `VMINU` (R193). Unsigned minimum of elements. -/
  | vminu (d : VNum) (a : VNum) (b : VSrc) (k : MReg)
  /-- `VMAXU` (R193). Unsigned maximum of elements. -/
  | vmaxu (d : VNum) (a : VNum) (b : VSrc) (k : MReg)
  /-- `VSADD` (R193). Signed saturating add. -/
  | vsadd (d : VNum) (a : VNum) (b : VSrc) (k : MReg)
  /-- `VSSUB` (R193). Signed saturating subtract. -/
  | vssub (d : VNum) (a : VNum) (b : VSrc) (k : MReg)
  /-- `VSADDU` (R193). Unsigned saturating add. -/
  | vsaddu (d : VNum) (a : VNum) (b : VSrc) (k : MReg)
  /-- `VSSUBU` (R193). Unsigned saturating subtract. -/
  | vssubu (d : VNum) (a : VNum) (b : VSrc) (k : MReg)
  /-- `VDIV` (R193). Signed element division. -/
  | vdiv (d : VNum) (a : VNum) (b : VSrc) (k : MReg)
  /-- `VDIVU` (R193). Unsigned element division. -/
  | vdivu (d : VNum) (a : VNum) (b : VSrc) (k : MReg)
  /-- `VREM` (R193). Signed element remainder. -/
  | vrem (d : VNum) (a : VNum) (b : VSrc) (k : MReg)
  /-- `VREMU` (R193). Unsigned element remainder. -/
  | vremu (d : VNum) (a : VNum) (b : VSrc) (k : MReg)
  /-- `VFADD` (R194). Floating element addition, rounded once. -/
  | vfadd (d : VNum) (a : VNum) (b : VSrc) (k : MReg) (rm : BitVec 3)
  /-- `VFSUB` (R194). Floating element subtraction. -/
  | vfsub (d : VNum) (a : VNum) (b : VSrc) (k : MReg) (rm : BitVec 3)
  /-- `VFMUL` (R194). Floating element multiplication. -/
  | vfmul (d : VNum) (a : VNum) (b : VSrc) (k : MReg) (rm : BitVec 3)
  /-- `VFDIV` (R194). Floating element division. -/
  | vfdiv (d : VNum) (a : VNum) (b : VSrc) (k : MReg) (rm : BitVec 3)
  /-- `VFMIN` (R195). Floating minimum without rounding. -/
  | vfmin (d : VNum) (a : VNum) (b : VSrc) (k : MReg)
  /-- `VFMAX` (R195). Floating maximum without rounding. -/
  | vfmax (d : VNum) (a : VNum) (b : VSrc) (k : MReg)
  /-- `VFSQRT` (R194). Floating square root of elements. -/
  | vfsqrt (d : VNum) (a : VNum) (k : MReg) (rm : BitVec 3)
  /-- `VFNEG` (R194). Inverts the sign bit of elements. -/
  | vfneg (d : VNum) (a : VNum) (k : MReg)
  /-- `VFMA` (R194). Fused a×b+d. -/
  | vfma (d : VNum) (a : VNum) (b : VSrc) (k : MReg) (rm : BitVec 3)
  /-- `VFMS` (R194). Fused a×b−d. -/
  | vfms (d : VNum) (a : VNum) (b : VSrc) (k : MReg) (rm : BitVec 3)
  /-- `VFNMA` (R194). Fused −(a×b)−d. -/
  | vfnma (d : VNum) (a : VNum) (b : VSrc) (k : MReg) (rm : BitVec 3)
  /-- `VFNMS` (R194). Fused −(a×b)+d. -/
  | vfnms (d : VNum) (a : VNum) (b : VSrc) (k : MReg) (rm : BitVec 3)
  /-- `VCVTFF` (R196). Converts floating to floating elements. -/
  | vcvtff (d : VNum) (a : VNum) (k : MReg) (rm : BitVec 3)
  /-- `VCVTIF` (R196). Converts integer to floating elements. -/
  | vcvtif (d : VNum) (a : VNum) (k : MReg) (rm : BitVec 3)
  /-- `VCVTFI` (R196). Converts floating to integer elements. -/
  | vcvtfi (d : VNum) (a : VNum) (k : MReg) (rm : BitVec 3)
  /-- `VCVTII` (R196). Converts integer to integer elements, saturating when narrowing. -/
  | vcvtii (d : VNum) (a : VNum) (k : MReg)
  /-- `VWADD` (R197). Widening add of second-type sources. -/
  | vwadd (d : VNum) (a : VNum) (b : VSrc) (k : MReg) (fp : Bool) (rm : BitVec 3)
  /-- `VWMUL` (R197). Widening multiply of second-type sources. -/
  | vwmul (d : VNum) (a : VNum) (b : VSrc) (k : MReg) (fp : Bool) (rm : BitVec 3)
  /-- `VWMACC` (R197). Widening multiply-accumulate. -/
  | vwmacc (d : VNum) (a : VNum) (b : VSrc) (k : MReg) (fp : Bool) (rm : BitVec 3)
  /-- `VDOT` (R197). Dot product of k narrow elements into each wide element. -/
  | vdot (d : VNum) (a : VNum) (b : VSrc) (k : MReg) (fp : Bool) (rm : BitVec 3)
  /-- `VCMPEQ` (R198). Sets mask bits where elements are equal. -/
  | vcmpeq (d : MReg) (a : VNum) (b : VSrc) (k : MReg)
  /-- `VCMPNE` (R198). Sets mask bits where elements differ. -/
  | vcmpne (d : MReg) (a : VNum) (b : VSrc) (k : MReg)
  /-- `VCMPLT` (R198). Sets mask bits where a < b. -/
  | vcmplt (d : MReg) (a : VNum) (b : VSrc) (k : MReg)
  /-- `VCMPLE` (R198). Sets mask bits where a ≤ b. -/
  | vcmple (d : MReg) (a : VNum) (b : VSrc) (k : MReg)
  /-- `VFCMPEQ` (R198). Floating equality compare into a mask. -/
  | vfcmpeq (d : MReg) (a : VNum) (b : VSrc) (k : MReg)
  /-- `VFCMPLT` (R198). Floating less-than compare into a mask. -/
  | vfcmplt (d : MReg) (a : VNum) (b : VSrc) (k : MReg)
  /-- `VFCMPLE` (R198). Floating less-or-equal compare into a mask. -/
  | vfcmple (d : MReg) (a : VNum) (b : VSrc) (k : MReg)
  /-- `VFCMPUN` (R198). Sets mask bits where either operand is NaN. -/
  | vfcmpun (d : MReg) (a : VNum) (b : VSrc) (k : MReg)
  /-- `MAND` (R199). ANDs two masks. -/
  | mand (d : MReg) (a : MReg) (b : MReg)
  /-- `MOR` (R199). ORs two masks. -/
  | mor (d : MReg) (a : MReg) (b : MReg)
  /-- `MXOR` (R199). XORs two masks. -/
  | mxor (d : MReg) (a : MReg) (b : MReg)
  /-- `MANDN` (R199). ANDs a mask with the complement of another. -/
  | mandn (d : MReg) (a : MReg) (b : MReg)
  /-- `VANY` (R200). Resynchronises and returns 1 if any mask bit below vl is set. -/
  | vany (d : XReg) (a : MReg)
  /-- `VNONE` (R200). Resynchronises and returns 1 if no mask bit below vl is set. -/
  | vnone (d : XReg) (a : MReg)
  /-- `VMCNT` (R200). Resynchronises and counts the set mask bits below vl. -/
  | vmcnt (d : XReg) (a : MReg)
  /-- `VFIND` (R200). Resynchronises and returns the least set mask bit. -/
  | vfind (d : XReg) (a : MReg)
  /-- `VMV` (R201). Copies active elements. -/
  | vmv (d : VNum) (a : VNum) (b : BitVec 5) (k : MReg)
  /-- `VBCAST` (R201). Broadcasts an x register to active elements. -/
  | vbcast (d : VNum) (a : XReg) (k : MReg)
  /-- `VGETX` (R201). Resynchronises and reads one element into an x register. -/
  | vgetx (d : XReg) (a : VNum) (b : XReg) (k : MReg)
  /-- `VMERGE` (R201). Selects elements from two sources by mask. -/
  | vmerge (d : VNum) (a : VNum) (b : VNum) (k : MReg)
  /-- `VPERM` (R202). Permutes elements by index. -/
  | vperm (d : VNum) (a : VNum) (b : VSrc) (k : MReg)
  /-- `VSHUP` (R202). Shifts elements toward higher indices. -/
  | vshup (d : VNum) (a : VNum) (b : VSrc) (k : MReg)
  /-- `VSHDN` (R202). Shifts elements toward lower indices. -/
  | vshdn (d : VNum) (a : VNum) (b : VSrc) (k : MReg)
  /-- `VPACK` (R202). Packs active elements to the bottom. -/
  | vpack (d : VNum) (a : VNum) (b : VSrc) (k : MReg)
  /-- `VILV` (R203). Interleaves two sources. -/
  | vilv (d : VNum) (a : VNum) (b : VNum) (k : MReg)
  /-- `VDILV` (R203). De-interleaves even or odd elements. -/
  | vdilv (d : VNum) (a : VNum) (b : VNum) (k : MReg) (odd : Bool)
  /-- `VREV` (R203). Reverses elements below vl. -/
  | vrev (d : VNum) (a : VNum) (k : MReg)
  /-- `VRANK` (R203). Counts earlier active nonzero elements. -/
  | vrank (d : VNum) (a : VNum) (k : MReg) (incl : Bool)
  /-- `VREDSUM` (R204). Integer sum reduction into element 0. -/
  | vredsum (d : VNum) (a : VNum) (b : VNum) (k : MReg)
  /-- `VREDMIN` (R204). Integer minimum reduction. -/
  | vredmin (d : VNum) (a : VNum) (b : VNum) (k : MReg)
  /-- `VREDMAX` (R204). Integer maximum reduction. -/
  | vredmax (d : VNum) (a : VNum) (b : VNum) (k : MReg)
  /-- `VFREDSUM` (R204). Floating sum reduction by the fixed tree. -/
  | vfredsum (d : VNum) (a : VNum) (b : VNum) (k : MReg) (rm : BitVec 3)
  /-- `VFREDMIN` (R204). Floating minimum reduction. -/
  | vfredmin (d : VNum) (a : VNum) (b : VNum) (k : MReg)
  /-- `VFREDMAX` (R204). Floating maximum reduction. -/
  | vfredmax (d : VNum) (a : VNum) (b : VNum) (k : MReg)
  /-- `VREDAND` (R204). AND reduction. -/
  | vredand (d : VNum) (a : VNum) (b : VNum) (k : MReg)
  /-- `VREDOR` (R204). OR reduction. -/
  | vredor (d : VNum) (a : VNum) (b : VNum) (k : MReg)
  /-- `VADDI` (R193). Adds a signed immediate to elements. -/
  | vaddi (d : VNum) (a : VNum) (imm : Word) (k : MReg)
  /-- `VLD` (R205). Unit-stride vector load. -/
  | vld (d : VNum) (a : XReg) (imm : Word) (k : MReg)
  /-- `VST` (R205). Unit-stride vector store. -/
  | vst (d : VNum) (a : XReg) (imm : Word) (k : MReg) (bj : Bool)
  /-- `VLDS` (R205). Strided vector load. -/
  | vlds (d : VNum) (a : XReg) (b : XReg) (k : MReg)
  /-- `VSTS` (R205). Strided vector store. -/
  | vsts (d : VNum) (a : XReg) (b : XReg) (k : MReg) (bj : Bool)
  /-- `VLDX` (R205). Indexed vector load. -/
  | vldx (d : VNum) (a : XReg) (b : VNum) (k : MReg)
  /-- `VSTX` (R205). Indexed vector store. -/
  | vstx (d : VNum) (a : XReg) (b : VNum) (k : MReg) (bj : Bool)
  /-- `VLDB` (R211). Block load through a fat pointer, with MX scales. -/
  | vldb (d : VNum) (a : XReg) (b : VNum) (k : MReg)
  /-- `VSTB` (R211). Block store through a fat pointer, with MX scales. -/
  | vstb (d : VNum) (a : XReg) (b : VNum) (k : MReg) (bj : Bool)
  /-- `VSTMC` (R212). Multicast store to a list of destinations. -/
  | vstmc (d : VNum) (a : XReg) (b : XReg) (k : MReg)
  /-- `VSTRED` (R213). Reducing store combining elements into memory. -/
  | vstred (d : VNum) (a : XReg) (b : VNum) (k : MReg) (op : BitVec 3)
  /-- `VLDFF` (R209). Fault-first load that lowers vl at the first failing element. -/
  | vldff (d : VNum) (a : XReg) (imm : Word) (k : MReg)
  /-- `VPREF` (R210). Prefetches lines into local SRAM. -/
  | vpref (a : XReg) (imm : Word)
  /-- `VEDGE` (R218). Computes exact edge values. -/
  | vedge (d : VNum) (a : VNum) (b : VNum) (k : MReg)
  /-- `VEDGETL` (R218). Computes edge values adjusted by the top-left rule. -/
  | vedgetl (d : VNum) (a : VNum) (b : VNum) (k : MReg)
  /-- `VCOVER` (R218). Tests triangle coverage of samples. -/
  | vcover (d : VNum) (a : VNum) (b : VNum) (k : MReg)
  /-- `VBARY` (R219). Computes barycentric weights. -/
  | vbary (d : VNum) (a : VNum) (b : VNum) (k : MReg)
  /-- `VBARYP` (R219). Computes perspective-correct barycentric weights. -/
  | vbaryp (d : VNum) (a : VNum) (b : VNum) (k : MReg)
  /-- `BOXT` (R222). Ray–box test under the traversal budget. -/
  | boxt (d : VNum) (a : VNum) (b : VNum) (k : MReg)
  /-- `TRIT` (R223). Ray–triangle test under the traversal budget. -/
  | trit (d : VNum) (a : VNum) (b : VNum) (k : MReg)
  /-- `CALLST` (R225). Guarded indirect call through a shader table. -/
  | callst (d : XReg) (a : XReg) (b : XReg)
  /-- `TEXADR` (R229). Computes decoded-texel offsets. -/
  | texadr (d : VNum) (a : XReg) (b : VNum) (k : MReg)
  /-- `TEXLD` (R229). Fetches one texel per element. -/
  | texld (d : VNum) (a : XReg) (b : VNum) (k : MReg)
  /-- `TEXBIL` (R230). Bilinear texture filter. -/
  | texbil (d : VNum) (a : XReg) (b : VNum) (k : MReg)
  /-- `TEXTRI` (R230). Trilinear texture filter. -/
  | textri (d : VNum) (a : XReg) (b : VNum) (k : MReg)
  /-- `SEND` (R345). Places a request message in the side's send queue, taking a reply credit. -/
  | send (d : XReg) (a : XReg) (b : XReg)
  /-- `REPLY` (R349). Answers the running request handler's request. -/
  | reply (a : XReg) (b : XReg)
  /-- `MIGRATE` (R351). Moves the running firing to the owner core of an address. -/
  | migrate (d : XReg) (a : XReg)
  /-- `FETAKE` (R355). Takes a full word or joins its deferred list. -/
  | fetake (d : XReg) (a : XReg) (sc : BitVec 3)
  /-- `FEFILL` (R355). Fills an empty word or hands the value to the oldest waiting take. -/
  | fefill (d : XReg) (a : XReg) (b : XReg) (sc : BitVec 3)
  /-- `FEPEEK` (R355). Returns a word's full/empty bit. -/
  | fepeek (d : XReg) (a : XReg) (sc : BitVec 3)
  /-- `ATADD` (R353). Atomic add returning the old value. -/
  | atadd (d : XReg) (a : XReg) (b : XReg) (sc : BitVec 3) (sz : BitVec 2)
  /-- `ATSWAP` (R353). Atomic swap. -/
  | atswap (d : XReg) (a : XReg) (b : XReg) (sc : BitVec 3) (sz : BitVec 2)
  /-- `ATCAS` (R353). Atomic compare-and-swap. -/
  | atcas (d : XReg) (a : XReg) (b : XReg) (sc : BitVec 3) (sz : BitVec 2)
  /-- `ATMAX` (R353). Atomic signed maximum. -/
  | atmax (d : XReg) (a : XReg) (b : XReg) (sc : BitVec 3) (sz : BitVec 2)
  /-- `ATAND` (R353). Atomic AND. -/
  | atand (d : XReg) (a : XReg) (b : XReg) (sc : BitVec 3) (sz : BitVec 2)
  /-- `ATOR` (R353). Atomic OR. -/
  | ator (d : XReg) (a : XReg) (b : XReg) (sc : BitVec 3) (sz : BitVec 2)
  /-- `ATMIN` (R353). Atomic signed minimum. -/
  | atmin (d : XReg) (a : XReg) (b : XReg) (sc : BitVec 3) (sz : BitVec 2)
  /-- `AMAXM` (R353). Atomic FP32 magnitude maximum on a 4-byte word. -/
  | amaxm (d : XReg) (a : XReg) (b : XReg) (sc : BitVec 3) (sz : BitVec 2)
  /-- `IPOST` (R360). Posts an iteration on a post-ring channel, or resets it. -/
  | ipost (d : XReg) (a : XReg) (b : XReg) (rst : Bool)
  /-- `IWAIT` (R360). Waits until a channel's frontier passes an iteration. -/
  | iwait (d : XReg) (a : XReg) (b : XReg)
  /-- `POST` (R357). Arrives at a barrier word for a phase. -/
  | post (d : XReg) (a : XReg) (b : XReg) (sc : BitVec 3) (sp : Bool)
  /-- `PWAIT` (R358). Waits until a barrier phase completes. -/
  | pwait (d : XReg) (a : XReg) (b : XReg) (sc : BitVec 3) (sp : Bool)
  /-- `WAITT` (R358). Barrier wait with a DCYC limit. -/
  | waitt (d : XReg) (a : XReg) (b : XReg) (sc : BitVec 3) (sp : Bool)
  /-- `TCWAIT` (R361). Waits until a tile's commit counter reaches a ticket. -/
  | tcwait (d : XReg) (a : XReg) (b : XReg) (sc : BitVec 3)
  /-- `TCDONE` (R361). Advances the commit counter if it equals the ticket. -/
  | tcdone (d : XReg) (a : XReg) (b : XReg) (sc : BitVec 3)
  /-- `TKGET` (R361). Takes n tickets from a ticket counter. -/
  | tkget (d : XReg) (a : XReg) (b : XReg) (sc : BitVec 3)
  /-- `PENQ` (R363). Enqueues one record through a graph output port. -/
  | penq (d : XReg) (a : XReg) (b : XReg)
  /-- `FENCE` (R364). Orders the context's own accesses of the named classes at a scope. -/
  | fence (sc : BitVec 3) (n : BitVec 8)
  /-- `FENCEX` (R365). Full fence that also orders one access path before another. -/
  | fencex (sc : BitVec 3) (n : BitVec 8)
  /-- `BOPEN` (R330). Opens a bundle in a set with a record. -/
  | bopen (d : XReg) (a : XReg) (b : XReg)
  /-- `BCOMMIT` (R332). Closes the open bundle and gives it a version as a release. -/
  | bcommit (d : XReg)
  /-- `BSNAP` (R334). Opens a snapshot of a bundle set. -/
  | bsnap (d : XReg) (a : XReg)
  /-- `BEND` (R336). Closes the snapshot, returning OK or STALE and its version. -/
  | bend (d : XReg)
  /-- `BRECLAIM` (R338). Returns an installed bundle record to software. -/
  | breclaim (d : XReg) (a : XReg)
  /-- `LDA` (R316). 8-byte acquire load at a scope. -/
  | lda (d : XReg) (a : XReg) (imm : Word) (sc : BitVec 3)
  /-- `LDAW` (R316). 4-byte acquire load at a scope. -/
  | ldaw (d : XReg) (a : XReg) (imm : Word) (sc : BitVec 3)
  /-- `LDAH` (R316). 2-byte acquire load at a scope. -/
  | ldah (d : XReg) (a : XReg) (imm : Word) (sc : BitVec 3)
  /-- `LDAB` (R316). 1-byte acquire load at a scope. -/
  | ldab (d : XReg) (a : XReg) (imm : Word) (sc : BitVec 3)
  /-- `STL` (R316). 8-byte release store at a scope. -/
  | stl (d : XReg) (a : XReg) (imm : Word) (sc : BitVec 3)
  /-- `STLW` (R316). 4-byte release store at a scope. -/
  | stlw (d : XReg) (a : XReg) (imm : Word) (sc : BitVec 3)
  /-- `STLH` (R316). 2-byte release store at a scope. -/
  | stlh (d : XReg) (a : XReg) (imm : Word) (sc : BitVec 3)
  /-- `STLB` (R316). 1-byte release store at a scope. -/
  | stlb (d : XReg) (a : XReg) (imm : Word) (sc : BitVec 3)
  /-- `CPBATCH` (R268). Checks and issues copy commands from a vector group. -/
  | cpbatch (d : MReg) (a : XReg) (b : VNum) (k : MReg)
  /-- `CPSLEEP` (R272). Waits on a copy command until completion or its promise. -/
  | cpsleep (d : XReg) (a : XReg)
  /-- `CPWAIT` (R273). Waits on a copy command until completion. -/
  | cpwait (d : XReg) (a : XReg)
  /-- `HSGATH` (R276). Home-split gather of 64-bit-indexed elements. -/
  | hsgath (d : VNum) (a : XReg) (b : VNum) (k : MReg)
  /-- `CLRED` (R279). Joins a reducing collective instance. -/
  | clred (d : XReg) (a : XReg) (b : XReg)
  /-- `CLBCAST` (R279). Joins a broadcast collective instance. -/
  | clbcast (d : XReg) (a : XReg) (b : XReg)
  /-- `CLGATHER` (R279). Joins a gathering collective instance. -/
  | clgather (d : XReg) (a : XReg) (b : XReg)
  /-- `CLWAIT` (R282). Waits for a collective instance to end and returns its status. -/
  | clwait (d : XReg) (a : XReg)
  /-- `MXREQ` (R307). Queues an inference request to the pod's Keep. -/
  | mxreq (d : XReg) (a : XReg) (b : XReg)
  /-- `MXRWAIT` (R308). Waits for a reply slot to land and frees it. -/
  | mxrwait (d : XReg) (a : XReg)
  /-- `MXSET` (R291). Writes an operation register. -/
  | mxset (d : XReg) (n : BitVec 8)
  /-- `MXGET` (R291). Reads an operation register. -/
  | mxget (d : XReg) (n : BitVec 8)
  /-- `MXGO` (R293). Arms the shadow set for one matrix operation and returns its ticket. -/
  | mxgo (d : XReg) (a : XReg) (b : XReg)
  /-- `MXSYNC` (R302). Waits for a matrix operation to end and returns its status. -/
  | mxsync (d : XReg) (a : XReg)
  /-- `MXCVT` (R304). Converts a tile into pod scratch, optionally updating an amax register. -/
  | mxcvt (z : ZReg) (a : XReg) (b : XReg)
  /-- `MXAMAX` (R305). Reads and resets an amax register. -/
  | mxamax (d : XReg) (a : XReg)
  /-- `ZLD` (R303). Loads a tile image into a tile. -/
  | zld (z : ZReg) (a : XReg)
  /-- `ZST` (R303). Stores a tile as an image. -/
  | zst (z : ZReg) (a : XReg)
  /-- `ZZERO` (R303). Sets a tile's mode and shape and zeroes it. -/
  | zzero (z : ZReg) (a : XReg) (b : XReg)
  /-- `MXTAKE` (R309). Forms a batch of queued requests in pod scratch. -/
  | mxtake (d : XReg) (a : XReg) (b : XReg)
  /-- `MXREPLY` (R310). Closes a batch, writing each row to its requester's slot. -/
  | mxreply (d : XReg) (a : XReg) (b : XReg)
  /-- `CTXRD` (R395). Reads a register of another context. -/
  | ctxrd (d : XReg) (a : XReg) (b : XReg)
  /-- `CTXWR` (R395). Writes a register of a FAULTED or FROZEN context. -/
  | ctxwr (d : XReg) (a : XReg) (b : XReg)
  /-- `CTXSTAT` (R395). Reads a status word of a context. -/
  | ctxstat (d : XReg) (a : XReg) (b : XReg)
  /-- `PREEMPT` (R399). Asks for a user context to be saved into a save area. -/
  | preempt (a : XReg) (b : XReg)
  /-- `RESUME` (R396). Resumes a FAULTED context at FPC. -/
  | resume (a : XReg) (b : XReg)
  /-- `THAW` (R396). Thaws a frozen context or stream. -/
  | thaw (a : XReg) (b : XReg)
  /-- `KILL` (R397). Kills a master or every firing of a packet. -/
  | kill (a : XReg) (b : XReg)
  /-- `CTXSAVE` (R401). Writes a FAULTED or FROZEN context's state to a save area. -/
  | ctxsave (d : XReg) (a : XReg) (b : XReg)
  /-- `CTXREST` (R401). Binds a saved firing into an IDLE user context. -/
  | ctxrest (d : XReg) (a : XReg) (b : XReg)
  /-- `FBPOP` (R394). Takes the oldest record of the die fault buffer. -/
  | fbpop (d : XReg) (a : XReg)
  /-- `FBSTAT` (R394). Reads fault buffer status and optionally clears OVF. -/
  | fbstat (d : XReg) (a : XReg)
  /-- `PLBINV` (R403). Invalidates matching PLB entries in the package. -/
  | plbinv (a : XReg) (b : XReg)
  /-- `TLBINV` (R403). Writes back and drops every cached line and translation of a range. -/
  | tlbinv (a : XReg) (b : XReg)
  /-- `IRQRAISE` (R403). Raises a tenant vector or management event. -/
  | irqraise (a : XReg) (b : XReg)
  /-- `PWRSET` (R409). Sets a compute die's power state. -/
  | pwrset (a : XReg) (b : XReg)
  /-- `ACTIVATE` (R406). Checks and activates a new firmware image. -/
  | activate (d : XReg) (a : XReg) (b : XReg)
  /-- `J` (R172). Jumps to a PC-relative target. -/
  | j
  /-- `CALL` (R172). Pushes the return address and jumps to a PC-relative target. -/
  | call
  /-- `RET` (R173). Returns to the address popped from the return stack, filling from the spill area if needed. -/
  | ret
  /-- `END` (R179). Ends the firing or firmware work and enters DRAIN. -/
  | endFiring
  /-- `TRAP` (R180). Takes a deliberate TRAP and parks the context FAULTED. -/
  | trap
  /-- `BRK` (R180). Takes a deliberate BRK and parks the context FAULTED. -/
  | brk
  /-- `HRET` (R349). Ends a handler, faulting REPLY_COUNT if a request was not answered. -/
  | hret
  /-- `SWAIT` (R359). Holds issue until outstanding strip advances fall to a distance. -/
  | swait
  /-- `SWR_FLAGS` (R146). A write of FLAGS resynchronises and replaces all flag bits. Operand: `.reg`. -/
  | swrFlags
  /-- `SWR_STRIP` (R94). A write of STRIP resynchronises and sets both strip counts. Operand: `.reg`. -/
  | swrStrip
  /-- `SWR_CHKSB` (R98). A write of CHKSB starts or ends lock-step checking from the next instruction. Operand: `.reg`. -/
  | swrChksb
  /-- `SWR_LPART` (R85). A firmware write of LPART traps LPART_BUSY or stops vector dispatch pending the new partition. Operand: `.reg`. -/
  | swrLpart
  /-- `LPART_TAKE_EFFECT` (R85). The pending lane partition takes effect once both VQs are empty. Operand: `.unit`. -/
  | lpartTakeEffect
  /-- `SWR_SHARE` (R103). A write of SHARE.SLOTS stores at most 64. Operand: `.reg`. -/
  | swrShare
  /-- `SWR_LSPLIT` (R247). A firmware write of LSPLIT is held until no scratch or cache operation is outstanding. Operand: `.reg`. -/
  | swrLsplit
  /-- `LSPLIT_TAKE_EFFECT` (R247). The new SRAM division takes effect in one cycle, writing back and dropping the old cache part. Operand: `.unit`. -/
  | lsplitTakeEffect
  /-- `SWR_POOLGRP` (R248). A write of POOLGRP changes pool membership, a leaving core writing back its pool lines. Operand: `.reg`. -/
  | swrPoolgrp
  /-- `SWR_TAGEN` (R347). A write of TAGEN enables or disables route tags, making held arrivals eligible. Operand: `.reg`. -/
  | swrTagen
  /-- `SWR_TAGPEND` (R347). A W1C write clears TAGPEND bits. Operand: `.reg`. -/
  | swrTagpend
  /-- `SWR_AGELIM` (R74). A write of AGELIM applies to the current head gang from the next cycle. Operand: `.reg`. -/
  | swrAgelim
  /-- `FIRMWARE_CREDIT_REFILL` (R87). Every 64 cycles each side's firmware credit count is refilled by SHARE.SLOTS up to 64. Operand: `.side`. -/
  | firmwareCreditRefill
  /-- `MEMORY_CONFIRM` (R90). The memory system establishes translation and rights of an operation or returns its fault. Operand: `.ctxOp`. -/
  | memoryConfirm
  /-- `VQ_ENTRY_START` (R89). The execute unit starts the oldest ready VQ entry of a side on its lanes. Operand: `.side`. -/
  | vqEntryStart
  /-- `BARRIER_NOTICE` (R358). The home's notice of a PHASE change reaches a waiting side and completes its wait. Operand: `.ctxPhase`. -/
  | barrierNotice
  /-- `WAITT_TIMEOUT` (R358). DCYC passes the deadline first; WAITT returns TIMEOUT. Operand: `.ctx`. -/
  | waittTimeout
  /-- `PROMISE_MISSED` (R272). DCYC reaches a CPSLEEP promise before completion and the context faults. Operand: `.ctx`. -/
  | promiseMissed
  /-- `GATHER_PACKAGE_REPLY` (R277). A home package returns its packed elements; the last one confirms the gather. Operand: `.ctxPkg`. -/
  | gatherPackageReply
  /-- `COPY_COMMAND_START` (R269). A copy engine checks rights of a queued command and begins moving it, or freezes the stream. Operand: `.engine`. -/
  | copyCommandStart
  /-- `COPY_COMMAND_COMPLETE` (R270). A command completes DONE or XLATE, writes its flag and wakes waits on it. Operand: `.engine`. -/
  | copyCommandComplete
  /-- `COLLECTIVE_PERFORM` (R280). When all ranks have joined the engine checks rights and performs the instance. Operand: `.coll`. -/
  | collectivePerform
  /-- `COLLECTIVE_END` (R282). A collective instance ends with its status, waking CLWAIT waiters. Operand: `.coll`. -/
  | collectiveEnd
  /-- `WSET_WRITE` (R292). An MXSET to a weight set register validates it and aborts queued requests of a valid set. Operand: `.wset`. -/
  | wsetWrite
  /-- `FILL` (R295). Matrix operation kind 0 copies memory rows into pod scratch. Operand: `.unit`. -/
  | fill
  /-- `MMA` (R296). Matrix operation kind 1 accumulates A×B into a tile. Operand: `.unit`. -/
  | mma
  /-- `UNFOLD` (R298). Matrix operation kind 2 multiplies with a virtual unfolded A. Operand: `.unit`. -/
  | unfold
  /-- `MX_OPERATION_END` (R294). A matrix operation ends, keeps its status word, writes its flag and wakes MXSYNC. Operand: `.unit`. -/
  | mxOperationEnd
  /-- `SAVE_COMPLETE` (R95). A SAVING context finishes its drain and save, is entered in the table and goes IDLE. Operand: `.ctx`. -/
  | saveComplete
  /-- `KILL_COMPLETE` (R397). A killed user context enters IDLE once its accesses, commands, instances and void replies are settled. Operand: `.ctx`. -/
  | killComplete
  /-- `FAULT_RECORD_ACCEPT` (R391). The die fault buffer accepts the oldest held record when room appears. Operand: `.unit`. -/
  | faultRecordAccept
  /-- `TAIL_WRITE` (R34). A write to QTAIL advances a queue's tail, or puts it in ERROR with TAIL_OVER. Operand: `.tail`. -/
  | tailWrite
  /-- `INTERRUPT_UNMASK` (R29). Firmware clears MASK on a pending vector and the device performs its write once. Operand: `.vector`. -/
  | interruptUnmask
  /-- `QUEUE_AGEING` (R60). A ready queue unserved for PQEAGE switch cycles falls one effective class. Operand: `.unit`. -/
  | queueAgeing
  /-- `PACKET_TAKE` (R37). The engine serves a queue, reads and checks its head packet, and advances HEAD. Operand: `.unit`. -/
  | packetTake
  /-- `CHUNK_DEAL` (R63). The engine deals the next nest chunk to the die with most free pods. Operand: `.unit`. -/
  | chunkDeal
  /-- `GANG_DEAL` (R71). The engine deals a whole gang to a die's gang queue. Operand: `.unit`. -/
  | gangDeal
  /-- `CHUNK_BIND` (R64). A die's walker binds a buffered chunk to a chosen context. Operand: `.unit`. -/
  | chunkBind
  /-- `ACTOR_FIRE` (R66). A deciding die fires a ready actor, claiming entries and room in one step. Operand: `.actor`. -/
  | actorFire
  /-- `GANG_PLACE` (R72). The head gang is bound all at once in a fitting unit. Operand: `.place`. -/
  | gangPlace
  /-- `GANG_RESERVING` (R73). The head gang's age reaches AGELIM and it fixes and reserves a candidate region. Operand: `.place`. -/
  | gangReserving
  /-- `FIRING_START` (R55). A binding context's start state is written and it enters RUN. Operand: `.ctx`. -/
  | firingStart
  /-- `FIRING_RETIRE` (R402). A DRAIN context retires once all its work has drained and enters IDLE. Operand: `.ctx`. -/
  | firingRetire
  /-- `PACKET_COMPLETE` (R58). The command processing agent writes status, signals and raises the interrupt of a finished packet. Operand: `.packet`. -/
  | packetComplete
  /-- `MESSAGE_ACCEPT` (R346). A message is accepted into the destination's arrival queue and checked against its tag entry. Operand: `.message`. -/
  | messageAccept
  /-- `HANDLER_START` (R347). An idle message context takes the first eligible arrival and starts its handler. Operand: `.side`. -/
  | handlerStart
  /-- `MIGRATION_ARRIVAL` (R352). A migrating firing reaches the owner core and is queued, spilled or refused. Operand: `.migration`. -/
  | migrationArrival
  /-- `MIGRATION_BIND` (R352). A queued migration arrival binds to an idle context of the core. Operand: `.unit`. -/
  | migrationBind
  /-- `BUNDLE_SLOT_INSTALL` (R333). The agent installs one slot of a committed bundle at its line's home. Operand: `.bundleSlot`. -/
  | bundleSlotInstall
  /-- `COHERENCE_REQUEST` (R370). The switch directory grants a read or write request against a region entry. Operand: `.line`. -/
  | coherenceRequest
  /-- `RECALL_ACKNOWLEDGE` (R375). A holder answers a recall with its dirty data. Operand: `.line`. -/
  | recallAcknowledge
  /-- `REGION_MERGE` (R372). Two quiet equal siblings merge into their parent. Operand: `.region`. -/
  | regionMerge
  /-- `LEASE_RENEWAL` (R374). A holder with less than half its count left renews its lease. Operand: `.lease`. -/
  | leaseRenewal
  /-- `LEASE_RELEASE` (R374). An unrenewed holder with a quarter left writes back and releases its lease. Operand: `.lease`. -/
  | leaseRelease
  /-- `HOLDER_LEASE_EXPIRY` (R374). At its own expiry a holder drops every copy of the lease. Operand: `.lease`. -/
  | holderLeaseExpiry
  /-- `SWITCH_LEASE_EXPIRY` (R375). A silent holder's lease ends at the switch; lines are reverted and the region flagged LAPSE. Operand: `.lease`. -/
  | switchLeaseExpiry
  /-- `REBUILD_FLAG_CLEAR` (R380). A REBUILD flag clears when its lease ends pass. Operand: `.region`. -/
  | rebuildFlagClear
  /-- `CHECKPOINT_BOUNDARY` (R377). At an interval's end the switch dies recall dirty lines and open the next interval. -/
  | checkpointBoundary
  /-- `SWITCH_DIE_LOST` (R380). The surviving switch die takes over the lost half and rebuilds its entries. Operand: `.sdie`. -/
  | switchDieLost
  /-- `PEER_LOST` (R382). No route to a package remains for SDPEER.TMO cycles and requests to it fail. Operand: `.pkg`. -/
  | peerLost
  /-- `HOST_SNOOP` (R384). A CXL.cache host snoop is answered by recalling lines from device holders. Operand: `.snoop`. -/
  | hostSnoop
  /-- `HOST_MEM_ACCESS` (R385). A host CXL.mem access reaches device memory, a caching read setting HOST in the entry. Operand: `.host`. -/
  | hostMemAccess
  /-- `HOST_BACK_INVALIDATE_ANSWER` (R385). The host answers a back-invalidate snoop and the waiting device write proceeds. Operand: `.addr`. -/
  | hostBackInvalidateAnswer
  /-- `HOST_BAR4_ACCESS` (R234). A host BAR 4 access is performed at the home as scope system, or discarded above 192 GiB. Operand: `.host`. -/
  | hostBar4Access
  /-- `SDROLL_CLEAR_FLAG` (R378). SDROLL operation 1 clears a region's flag. Operand: `.region`. -/
  | sdrollClearFlag
  /-- `SDROLL_ROLLBACK` (R378). SDROLL operation 2 rolls a region back from the undo log and clears its flag. Operand: `.rollback`. -/
  | sdrollRollback
  /-- `MGMTEV_CLEAR` (R403). A W1C write clears a management event bit. Operand: `.imm`. -/
  | mgmtevClear
  /-- `MGMT_REGISTER_WRITE` (R17). A write to a management or system register with no row of its own takes bits by access code. Operand: `.mgmt`. -/
  | mgmtRegisterWrite
  /-- `DOMAIN_SET` (R25). Mailbox command 0x01 changes a domain descriptor and its STATE. Operand: `.domain`. -/
  | domainSet
  /-- `WINDOW_SET` (R26). Mailbox command 0x02 writes one window entry of a domain. Operand: `.window`. -/
  | windowSet
  /-- `QUEUE_ENABLE` (R32). Queue control enable makes a DISABLED queue ACTIVE with given HEAD and TAIL. Operand: `.enable`. -/
  | queueEnable
  /-- `QUEUE_STOP` (R32). Queue control stop makes an ACTIVE queue STOPPED. Operand: `.unit`. -/
  | queueStop
  /-- `QUEUE_STOP_PREEMPT` (R404). Queue control stop and pre-empt stops the queue and saves its bound firings. Operand: `.preempt`. -/
  | queueStopPreempt
  /-- `QUEUE_RESUME` (R32). Queue control resume makes a STOPPED queue ACTIVE. Operand: `.unit`. -/
  | queueResume
  /-- `QUEUE_CLEAR_REREAD` (R32). Clears ERROR to the prior state, re-reading the failed packet. Operand: `.unit`. -/
  | queueClearReread
  /-- `QUEUE_CLEAR_SKIP` (R32). Clears ERROR to the prior state, dropping the failed packet. Operand: `.unit`. -/
  | queueClearSkip
  /-- `QUEUE_DISABLE` (R32). Disables a queue with nothing outstanding. Operand: `.unit`. -/
  | queueDisable
  /-- `MASTER_THAW` (R396). Mailbox master control action 1 thaws a master. Operand: `.master`. -/
  | masterThaw
  /-- `MASTER_KILL` (R397). Mailbox master control action 2 kills a master. Operand: `.kill`. -/
  | masterKill
  /-- `MASTER_KILL_PACKET` (R397). Mailbox master control action 3 kills every firing of a packet. Operand: `.master`. -/
  | masterKillPacket
  /-- `KEEP_BIND` (R285). Mailbox command 0x05 binds a tenant Keep context to a domain. Operand: `.keep`. -/
  | keepBind
  /-- `DOMAIN_CONFIGURE` (R404). Mailbox command 0x06 sets the package number, HOSTPKG and the route table. Operand: `.configure`. -/
  | domainConfigure
  /-- `FIRMWARE_ACTIVATE` (R406). Mailbox command 0x07 activates a firmware image. Operand: `.activate`. -/
  | firmwareActivate
  /-- `POWER_COMMAND` (R409). Mailbox command 0x08 sets power states and PWRLIM. Operand: `.power`. -/
  | powerCommand
  /-- `UNKNOWN_OP` (R404). A mailbox entry with an unknown OP receives status 10 and is not performed. -/
  | unknownOp
  /-- `POWER_LIMITER_ACTION` (R409). At the end of a 1 ms window of excess power the limiter slows the fastest die. -/
  | powerLimiterAction
  /-- `STOP_WAKE` (R409). A STOP die returns to P3 when work is dealt to it or a message arrives. Operand: `.unit`. -/
  | stopWake
  /-- `PACKAGE_RESET` (R407). Package reset runs the boot ROM, checks the image and starts firmware contexts. -/
  | packageReset
  /-- `LINK_TRAINING` (R12). The host port trains as PCIe or CXL at a negotiated rate and width. Operand: `.link`. -/
  | linkTraining
  /-- `GET_VERSION` (R408). SPDM GET_VERSION request. -/
  | getVersion
  /-- `GET_CAPABILITIES` (R408). SPDM GET_CAPABILITIES request. -/
  | getCapabilities
  /-- `NEGOTIATE_ALGORITHMS` (R408). SPDM NEGOTIATE_ALGORITHMS request. -/
  | negotiateAlgorithms
  /-- `GET_DIGESTS` (R408). SPDM GET_DIGESTS request. -/
  | getDigests
  /-- `GET_CERTIFICATE` (R408). SPDM GET_CERTIFICATE request for slot 0. Operand: `.cert`. -/
  | getCertificate
  /-- `CHALLENGE` (R408). SPDM CHALLENGE request. Operand: `.challenge`. -/
  | challenge
  /-- `GET_MEASUREMENTS` (R408). SPDM GET_MEASUREMENTS request for indices 1–4. Operand: `.unit`. -/
  | getMeasurements
  /-- `UNSUPPORTED_REQUEST` (R408). An unsupported SPDM request is answered with ERROR UnsupportedRequest. Operand: `.code`. -/
  | unsupportedRequest
  /-- `VQ_ENTRY_LEAVE` (R89). A VQ entry's work on the lanes ends and the entry leaves the VQ, advancing the completed strip count and releasing resynchronisations. Operand: `.side`. -/
  | vqEntryLeave
  /-- `ACCESS_PERFORMED` (R92). A memory access performs: load data returns to its register or load-data queue, or a store, atomic or owner access is performed at its home and its reply returns. Operand: `.ctxOp`. -/
  | accessPerformed
  /-- `INVALIDATE_COMPLETE` (R403). A PLBINV or TLBINV becomes complete in every unit it reaches, and the parked firmware context resumes. Operand: `.ctx`. -/
  | invalidateComplete
  /-- `LINK_REPLAY` (R342). A Berper link replays a flit after a CRC error, and the performing party answers the duplicate request from its reply cache without performing it again. Operand: `.replay`. -/
  | linkReplay
  /-- `BERPER_LINK_LOSS` (R382). A Berper port stops carrying traffic, so routes shrink and, when no route to a package remains, the SDPEER.TMO count starts. Operand: `.port`. -/
  | berperLinkLoss
  deriving DecidableEq, Repr

/-- Something that is to happen: a step of the part with its operand. -/
structure Happening where
  i : Instr
  opd : Operand
  deriving DecidableEq, Repr

end Sys2Proof
end

