-- ==== Sys2Proof/Config.lean ====
section
/-! DEFINITION. What an implementation fixes and the manual does not give: free values, as constants without a body. A
statement holds whatever they are. The log entries named say where each is used. -/

namespace Sys2Proof.Config

/-- A choice that the manual leaves open, by the model's counter and a salt (log entry 3): old or new value of an unsafe
consumer (R96), of a word fetched without a fence (R170), of a translation or right that changed under a cached copy (R238,
R243); and which of two overlapping writes a byte keeps (R266, R295, R317). -/
opaque pick (n salt : Nat) : Bool

/-- A byte that the manual leaves open, by the model's counter and a salt (log entry 3). -/
opaque byte (n salt : Nat) : BitVec 8

/-- A word that the manual leaves open, by the model's counter and a salt (log entry 3). -/
opaque word (n salt : Nat) : BitVec 64

/-- A texel's channel that the block definitions of R258 put between two whole numbers, at `num` / `den`, is the upper one: no document
that R258 names rounds it (log entry 9). -/
opaque texelUp (num den : Nat) : Bool

/-- A BC6H block is of the signed kind (R258), which nothing in a block says (log entry 9). -/
opaque bc6Signed (block : Nat) : Bool

/-- The digests of trusted keys in fuse slots 0 to 3, and whether a slot is revoked (R406). -/
opaque fusedKey (slot : Nat) : BitVec 256
opaque keyRevoked (slot : Nat) : Bool

/-- `SECVER.MIN` (R405), which is fused. -/
opaque secverMin : BitVec 32

/-- Measurement slots 1 and 4 (R407): the digests of the ROM and of the fuses and straps. -/
opaque romDigest : BitVec 256
opaque fuseDigest : BitVec 256

/-- The SHA-256 digest that measures a firmware image (R407, R408) covers its signature too, which the manual does not say. -/
opaque measuresSig : Bool

/-- Where boot puts the image that it reads from the boot flash (R407), in units of 512 bytes of physical memory. -/
opaque bootAt : BitVec 20

/-- The device identity certificate chain in slot 0 (R408). -/
opaque certChain : List (BitVec 8)

/-- The device's signature (R408), RSASSA-3072 with a key that the manual does not give, over a transcript. -/
opaque sign (transcript : List (BitVec 8)) : List (BitVec 8)

/-- The bytes of an SPDM answer that DMTF SPDM 1.3 gives and the manual does not: by request code and the model's counter. -/
opaque spdmBody (code n : Nat) : List (BitVec 8)

end Sys2Proof.Config
end

