-- ==== Sys2Proof/Machine/Bits.lean ====
section
/-! DEFINITION. Bit-field, sign-extension, immediate and byte-order helpers (spec/00_scope.md R16, spec/04_encoding.md R108). -/

namespace Sys2Proof

/-- The signed reading of the low `w` bits of `v`, as a 64-bit word (R108 `SignExtend`). -/
def sextNat (w v : Nat) : Word :=
  if v % 2 ^ w < 2 ^ (w - 1) then BitVec.ofNat 64 (v % 2 ^ w) else BitVec.ofInt 64 ((v % 2 ^ w : Nat) - (2 ^ w : Nat) : Int)

/-- The value of `v` as `w`-bit two's complement, read as an integer. -/
def signedNat (w v : Nat) : Int :=
  if v % 2 ^ w < 2 ^ (w - 1) then ((v % 2 ^ w : Nat) : Int) else ((v % 2 ^ w : Nat) : Int) - ((2 ^ w : Nat) : Int)

/-- An integer modulo 2^w, as a natural number. -/
def wrapInt (w : Nat) (i : Int) : Nat := (i % ((2 ^ w : Nat) : Int)).toNat

/-- Bits `[lo + len - 1 : lo]` of `v`. -/
def bitsOf (v lo len : Nat) : Nat := v / 2 ^ lo % 2 ^ len

/-- Bit `i` of `v`. -/
def bitOf (v i : Nat) : Bool := v / 2 ^ i % 2 == 1

/-- `v` fits `w` bits as a signed value. -/
def fitsS (w : Nat) (v : Word) : Bool := sextNat w v.toNat == v

/-- `v` fits `w` bits as an unsigned value. -/
def fitsU (w : Nat) (v : Word) : Bool := v.toNat < 2 ^ w

/-- `ImmField` (R108): the field of a base immediate of `b` bits and the payloads of the `PFX.I` words in chain order, with
its width. -/
def immField (base b : Nat) (ps : List (BitVec 9)) : Nat × Nat :=
  (ps.foldl (fun v p => v * 512 + p.toNat) 0 * 2 ^ b + base, b + 9 * ps.length)

/-- The `PFX.I` payloads, at most two and the fewest that hold it (R130), and the base bits of an immediate of `b` base
bits. -/
def immSplit (signed : Bool) (b : Nat) (v : Word) : List (BitVec 9) × Nat :=
  let fits (w : Nat) : Bool := if signed then fitsS w v else fitsU w v
  if fits b then ([], v.toNat % 2 ^ b)
  else if fits (b + 9) then ([BitVec.ofNat 9 (v.toNat / 2 ^ b)], v.toNat % 2 ^ b)
  else ([BitVec.ofNat 9 (v.toNat / 2 ^ (b + 9)), BitVec.ofNat 9 (v.toNat / 2 ^ b)], v.toNat % 2 ^ b)

/-- A list of `n` bytes of a number, least significant first (R16). -/
def toBytes (n v : Nat) : List Byte :=
  match n with
  | 0 => []
  | n + 1 => BitVec.ofNat 8 v :: toBytes n (v / 256)

/-- The number of a list of bytes, least significant first (R16). -/
def ofBytes (l : List Byte) : Nat :=
  match l with
  | [] => 0
  | b :: r => b.toNat + 256 * ofBytes r

/-- The halfwords of a list of bytes. -/
def halvesOf (l : List Byte) : List Half :=
  match l with
  | a :: b :: r => (b ++ a) :: halvesOf r
  | _ => []

/-- The bytes of a list of halfwords. -/
def bytesOfHalves (l : List Half) : List Byte :=
  match l with
  | [] => []
  | h :: r => h.extractLsb' 0 8 :: h.extractLsb' 8 8 :: bytesOfHalves r

end Sys2Proof
end

