-- ==== Sys2Proof/Machine/State.lean ====
section
/-! DEFINITION. The state of one A96 package, as plain data (INVENTORY.md, State). The context whose instruction executes is
held in `me` under the name `cur`; every other context that has left its reset state is listed in `others`. Tables keyed by a
number (`SMap`) list only what has left its reset value. -/

namespace Sys2Proof.Machine

/-- A table keyed by a number, in rising order of key. -/
abbrev SMap (α : Type) := List (Nat × α)

/-- The entry of key `k`, or `d` where none is listed. -/
def SMap.get {α : Type} (m : SMap α) (d : α) (k : Nat) : α :=
  match m with
  | [] => d
  | (j, v) :: r => if j = k then v else SMap.get r d k

/-- The table with entry `k` set to `v`. -/
def SMap.set {α : Type} (m : SMap α) (k : Nat) (v : α) : SMap α :=
  match m with
  | [] => [(k, v)]
  | (j, w) :: r => if j = k then (k, v) :: r else if k < j then (k, v) :: (j, w) :: r else (j, w) :: SMap.set r k v

/-- The table without entry `k`. -/
def SMap.del {α : Type} (m : SMap α) (k : Nat) : SMap α :=
  match m with
  | [] => []
  | (j, w) :: r => if j = k then r else (j, w) :: SMap.del r k

/-- Bytes by address in one canonical form: addresses strictly rising, no byte 0 listed (log entry 1: an unlisted byte
reads as 0). -/
abbrev Memory := List Host.Cell

/-- The canonical form from a lower bound on: every address at least `lo`, strictly rising, no byte 0. -/
def Memory.wfFrom (lo : Nat) (m : Memory) : Bool :=
  match m with
  | [] => true
  | (a, v) :: r => decide (lo ≤ a) && (v != 0) && Memory.wfFrom (a + 1) r

/-- The canonical form of a memory. -/
def Memory.wf (m : Memory) : Bool := Memory.wfFrom 0 m

/-- Context states, with the codes of R77 in this order. -/
inductive CtxState where
  | idle | binding | run | wait | drain | faulted | frozen | saving
  deriving DecidableEq, Repr

/-- An `x` register whose fixed-latency producer a consumer may still read too early (R96): its value before the producer, the
producer's latency, and the sum D of 1 + s over the instructions executed since it. -/
structure Hazard where
  reg : XReg
  old : Word
  lat : Nat
  d : Nat
  deriving DecidableEq, Repr

/-- A copy slot of a user context (R271). -/
structure CopySlot where
  handle : Word
  promise : Word
  deriving DecidableEq, Repr

/-- Whose an engine command, a collective's part or a request is: a context's own, or a firing's, named by its packet's package
and its identifier (R56), whichever context holds it. -/
inductive Owner where
  | ctx (c : CtxId)
  | firing (pkg : BitVec 8) (fid : Word)
  deriving DecidableEq, Repr

/-- State of a reply slot (R308). -/
inductive ReplySlot where
  | free
  | pending
  | landed (status : Byte) (count : Byte)
  deriving DecidableEq, Repr

/-- An open bundle of a context: its set and record (R330). -/
structure OpenBundle where
  desc : VAddr
  record : VAddr
  deriving DecidableEq, Repr

/-- An open snapshot of a context: its set, the hidden record of its version, and the hidden stale bit (R334). -/
structure OpenSnap where
  desc : VAddr
  record : Option VAddr
  stale : Bool
  deriving DecidableEq, Repr

/-- Why a parked instruction that issues again waits (R291, R293, R309, R332, R346, R394). -/
inductive Reissue where
  | mxArmed (pod : Nat)
  | mxTake (pod : Nat)
  | commit (desc : VAddr)
  | sendFrozen
  | sendFull
  | fbpop (die : Nat)
  deriving DecidableEq, Repr

/-- What an invalidation under way drops (R403): PLB entries of a domain or all, and of a segment or all; or a range. -/
inductive Inval where
  | plb (pdid : Option (BitVec 12)) (seg : Option Nat)
  | tlb (base size : Nat)
  deriving DecidableEq, Repr

/-- What a context in `WAIT` waits for (R77). `rd` is the register that the awaited event writes; `len` the number of words
of the parked chain. -/
inductive Wait where
  | take (va : VAddr) (rd : XReg) (len : Nat)
  | phase (va : VAddr) (p : BitVec 32) (rd : XReg) (len : Nat)
  | timed (va : VAddr) (p : BitVec 32) (deadline : Nat) (rd : XReg) (len : Nat)
  | ticket (va : VAddr) (t : BitVec 32) (rd : XReg) (len : Nat)
  | post (ch : Nat) (i : Word) (rd : XReg) (len : Nat)
  | frontier (ch : Nat) (i : Word) (rd : XReg) (len : Nat)
  | copy (handle : Word) (promise : Option Word) (rd : XReg) (len : Nat)
  | collective (desc : VAddr) (epoch : BitVec 32) (rank : Nat) (rd : XReg) (len : Nat)
  | mxsync (pod : Nat) (ticket : BitVec 32) (rd : XReg) (len : Nat)
  | mxreply (slot : Nat) (rd : XReg) (len : Nat)
  | mxqueue (wset slot : Nat) (input : List Byte) (rd : XReg) (len : Nat)
  | invalidate (what : Inval) (len : Nat)
  | powerStop (die : Nat) (len : Nat)
  | gather (pkgs : List (BitVec 8)) (len : Nat)
  | reissue (why : Reissue)
  deriving DecidableEq, Repr

/-- The firing that a user context holds (R55 to R57): nest or graph, identifier, packet, gang membership, output ports with
the device's allowance counts and where the output port table lies in the staging area, and whether firmware has killed it. -/
structure Firing where
  graph : Bool
  fid : Word
  launchId : BitVec 32
  pkt : PktRef
  gang : Bool
  outq : List Nat
  allow : List Nat
  outAt : Nat
  killed : Bool
  deriving DecidableEq, Repr

/-- The start state that a `BINDING` context is given (R55, R71, R352), or the state a restored save resumes in (R401). -/
structure Start where
  entry : VAddr
  x : List Word
  staging : List Byte
  restored : Option CtxState
  deriving DecidableEq, Repr

/-- The handler that a message context runs: the arrival it answers and whether it has replied (R347, R349). -/
structure Handler where
  msg : Message
  replied : Bool
  deriving DecidableEq, Repr

/-- A pre-emption in progress: the save area and the state before it (R399). -/
structure Saving where
  area : VAddr
  before : CtxState
  deriving DecidableEq, Repr

/-- The return stack: the sixteen hardware entries, `HWDEPTH` and `SPILLED` (R174). -/
structure RetStack where
  hw : Vector VAddr 16
  depth : Nat
  spilled : Nat
  deriving DecidableEq, Repr

/-- The vector state of a context (R80, R182) with its budget (R53), `VDIRTY` and `VHWM`. -/
structure VecState where
  v : Vector VReg 32
  m : Vector MaskBits 8
  vl : BitVec 14
  vt : BitVec 16
  vw2 : BitVec 3
  vregs : Nat
  vclass : Nat
  vdirty : BitVec 32
  vhwm : BitVec 11
  deriving DecidableEq, Repr

/-- An entry of the undo log (R377): the interval, the line's physical address over 128, and its old bytes. -/
structure Undo where
  interval : Nat
  line : Nat
  bytes : List Byte
  deriving DecidableEq, Repr

/-- Physical memory with what R377 keeps of it: the interval in which a line was last written, the undo log, and the first
interval to whose end the log can still roll back. -/
structure Dram where
  bytes : Memory
  written : SMap Nat
  log : List Undo
  from_ : Nat
  deriving DecidableEq, Repr

/-- Every byte store of the package and of what it reaches: physical memory by `PA`, core scratch at core × 2^19 + offset,
staging areas at (16 × core + 8 × side + context) × 2^12 + offset, pod scratch at pod × 2^22 + offset, peer packages' memory
by virtual address, and the host's by host physical address. -/
structure Stores where
  dram : Dram
  scratch : Memory
  staging : Memory
  podScratch : Memory
  peer : Memory
  host : Memory
  deriving DecidableEq, Repr

/-- Where a byte lies: physical memory by `PA`, a peer package's by virtual address, the host's by its address, a core's
scratch, and the staging areas, numbered as `Stores` numbers them. -/
inductive Space where
  | dram | peer | host | scratch | staging
  deriving DecidableEq, Repr

/-- A byte's location. -/
structure Loc where
  sp : Space
  a : Nat
  deriving DecidableEq, Repr

/-- What a context's fetches may still see (R170): of the addresses from `base` on, `size` of them, the bytes as they stood when the
context last fetched nothing ahead there. -/
structure FetchView where
  base : Nat
  size : Nat
  st : Stores
  deriving DecidableEq, Repr

/-- A write of a context, or of an engine for it, on one of the access paths of R261 that other paths may not see yet (R262): where it
lies, the bytes that it replaced, its path, and the paths that no `FENCEX` has ordered after it. The records of one write share its `id`. -/
structure PathWrite where
  id : Nat
  loc : Loc
  old : List Byte
  path : Nat
  unseen : BitVec 5
  deriving DecidableEq, Repr

/-- One context: its architectural registers (R80, R102), its state (R77), and the hidden state the rules give it. `stall` counts
the cycles in which it issues nothing yet for the stall count of its last instruction (R96); `views` holds memory as its fetches may
still see it (R170), the latest first; `paths` the writes that some path may not see yet (R262), the latest first; `late` the operations
whose fault waits for an earlier record of the context to be accepted (R391). -/
structure Ctx where
  st : CtxState
  x : Vector Word 32
  pc : VAddr
  rs : RetStack
  vec : VecState
  flags : BitVec 8
  rnd : BitVec 4
  strip : BitVec 32
  stripDone : BitVec 32
  snapVersion : BitVec 48
  snapValid : Bool
  travBudget : BitVec 32
  spillBase : VAddr
  pdid : BitVec 12
  chksb : Bool
  causeCode : BitVec 8
  causeInfo : BitVec 16
  faddr : Word
  fpc : VAddr
  haz : List Hazard
  stall : Nat
  missack : Bool
  bundle : Option OpenBundle
  snap : Option OpenSnap
  slots : List CopySlot
  replySlots : SMap ReplySlot
  engFrozen : Bool
  sendFrozen : Bool
  firing : Option Firing
  start : Option Start
  handler : Option Handler
  lastHandlerPdid : Option (BitVec 12)
  wait : Option Wait
  saving : Option Saving
  views : List FetchView
  paths : List PathWrite
  late : List MemOp
  deriving DecidableEq, Repr

/-- An entry of a vector queue (R89): its user context, whether the execute unit has started it, the load-data entries it
holds, and the strip advances that complete when it leaves (R94, R192). -/
structure VqEntry where
  slot : Nat
  started : Bool
  ldq : Nat
  strips : Nat
  deriving DecidableEq, Repr

/-- An arrival in a side's arrival queue (R347): the number of its acceptance, its tag entry as it was checked (R344,
R346), and whether it is held because its tag was disabled. -/
structure Arrival where
  msg : Message
  held : Bool
  order : Nat
  entry : VAddr
  pdid : BitVec 12
  prio : Nat
  deriving DecidableEq, Repr

/-- A request that a side has sent and whose credit has not returned (R346): its sequence number, whose it is
(none once that firing or context has been killed), and the sender's domain and program counter at the `SEND`. -/
structure Owed where
  seq : BitVec 16
  who : Option Owner
  pdid : BitVec 12
  fpc : VAddr
  deriving DecidableEq, Repr

/-- One side of a core (R75, R87, R89, R345, R346, R342). `mid` counts the cycles for which the vector instruction of user context
`midSlot` is still mid-dispatch (R87). -/
structure Side where
  vq : List VqEntry
  credit : Nat
  lastUser : Option Nat
  mid : Nat
  midSlot : Nat
  sendq : List Message
  replyCredits : Nat
  seq : BitVec 16
  owed : List Owed
  arrivals : List Arrival
  accepted : Nat
  waiting : List Message
  replyCache : List (BitVec 16 × Word)
  xseq : BitVec 16
  deriving DecidableEq, Repr

/-- A PLB entry: the rights and attribute of a (PDID, segment) pair (R235). -/
structure PlbEntry where
  pdid : BitVec 12
  seg : Nat
  rights : BitVec 5
  attr : BitVec 2
  deriving DecidableEq, Repr

/-- The core-scope registers and structures of a core (R101, R102, R235, R343, R352). Each migration arrival in the hardware
queue, and each slot of the overflow area that holds one, stands with the `DCYC` of its acceptance. -/
structure Core where
  lpart : BitVec 3
  lpartPend : Option (BitVec 3 × CtxId)
  share : BitVec 7
  lsplit : BitVec 3
  lsplitPend : Option (BitVec 3 × CtxId)
  tagsel : BitVec 2
  tagen : BitVec 256
  tagpend : BitVec 256
  spawnlim : BitVec 16
  tagbase : VAddr
  msgtrap : VAddr
  migq : BitVec 5
  migovf : VAddr
  fwspill : VAddr
  plb : List PlbEntry
  migCount : Nat
  migHw : List (MigRec × Nat)
  migOv : List (Nat × Nat)
  deriving DecidableEq, Repr

/-- A copy command accepted by an engine (R265, R269), with the context that issued it, and its packet's `LAUNCHID`. -/
structure CopyCmd where
  words : List Word
  owner : Owner
  src : CtxId
  pdid : BitVec 12
  launchId : BitVec 32
  handle : Word
  started : Bool
  deriving DecidableEq, Repr

/-- A channel of the post ring: its frontier and its window (R360). -/
structure Chan where
  frontier : Word
  window : BitVec 256
  deriving DecidableEq, Repr

/-- A TLB entry: a 64 KiB virtual page and the physical page it maps to (R239). -/
structure TlbEntry where
  page : Nat
  frame : Nat
  deriving DecidableEq, Repr

/-- Names a master as the selector of R392 does. -/
structure Master where
  unit : Nat
  side : Bool
  slot : Nat
  kind : Nat
  deriving DecidableEq, Repr

/-- A fault record (R390). -/
structure FaultRec where
  code : BitVec 8
  info : BitVec 16
  master : Master
  faddr : Word
  fpc : VAddr
  fid : Word
  launchId : BitVec 32
  pdid : BitVec 12
  cycle : Word
  deriving DecidableEq, Repr

/-- A dealt chunk of a nest packet (R63, R71): its first iteration and length, its firing's ordinal, its gang rank and size,
and the `DCYC` of its dealing. -/
structure Chunk where
  pkt : PktRef
  first : Nat
  len : Nat
  ordinal : Nat
  rank : Nat
  gangSize : Nat
  since : Nat
  deriving DecidableEq, Repr

/-- A gang in a gang queue (R71). -/
structure Gang where
  pkt : PktRef
  chunks : List Chunk
  deriving DecidableEq, Repr

/-- A gang queue with the cycle in which its head became head and the region fixed for it (R71 to R73). -/
structure GangQueue where
  gangs : List Gang
  headSince : Nat
  reserving : Option Nat
  deriving DecidableEq, Repr

/-- An in-die agent (R367): a core's local cache, a pod's victim pool, a Keep, or a matrix engine, numbered within the package; of a line
in a pool, `part` is the member core in whose cache part it lies (R248). The copy and gather engines of a die hold no line. -/
inductive InAgent where
  | core (k : Nat) | pool (p part : Nat) | keep (p : Nat) | mxe (p : Nat)
  deriving DecidableEq, Repr

/-- The state of a line at an in-die agent that holds it (R368); an agent that is not listed holds it `I`. -/
inductive LineState where
  | m | o | e | s
  deriving DecidableEq, Repr

/-- The in-die holders of a line with its state at each: the exact sharer list of the slice that tracks it (R368). -/
abbrev Holders := List (InAgent × LineState)

/-- A line that an L2 or RDC slice holds (R244, R368): where it lies, and its in-die holders. With none of these the slice alone holds it. -/
structure CacheLine where
  loc : Loc
  holders : Holders
  deriving DecidableEq, Repr

/-- An entry of a die's affinity table (R68). -/
structure Affinity where
  pkt : PktRef
  tile : Nat
  core : Nat
  deriving DecidableEq, Repr

/-- What a decoded texture group is told apart by (R259): its address in the decoded view, and its texture. -/
structure TexTag where
  view : Nat
  cbase : Nat
  cfmt : Nat
  w0 : Nat
  h0 : Nat
  nmip : Nat
  deriving DecidableEq, Repr

/-- A decoded texture group in a die's L2 (R259): the lines that it was formed from, each by its number and where it lies, and its
sixteen texels. -/
structure TexGroup where
  tag : TexTag
  src : List (Nat × Loc)
  texels : List Nat
  deriving DecidableEq, Repr

/-- The copy of a texel in a core's local cache (R259): the core, the group that it belongs to, its place there, the lines that it was
formed from, and its word. -/
structure TexelCopy where
  core : Nat
  tag : TexTag
  place : Nat
  src : List (Nat × Loc)
  word : Nat
  deriving DecidableEq, Repr

/-- One compute die, with the lines of its L2 and RDC by line number (R2, R368), the L2's decoded texture groups, the one used
last at the end, and the texels that its cores' caches hold (R249, R259), what its clock is behind the step by (R10, in units of 0.1 GHz), its copy engines' queues, the next sequence
number of a handle, and the status words of tracked commands that no wait has returned yet (R10, R74, R239, R241, R343, R360, R391,
R267, R63, R409). -/
structure Die where
  dcyc : Word
  phase : Nat
  l2 : SMap CacheLine
  rdc : SMap CacheLine
  tex : List TexGroup
  texels : List TexelCopy
  agelim : BitVec 32
  pgEn : Bool
  pgAddr : BitVec 38
  postown : Vector (BitVec 12) 16
  chans : SMap Chan
  tlb : List TlbEntry
  fb : List FaultRec
  fbHeld : List FaultRec
  fbNew : Bool
  fbOvf : Bool
  engines : SMap (List CopyCmd)
  copySeq : BitVec 32
  copyDone : List (Word × Word)
  chunks : List Chunk
  gangq : GangQueue
  affinity : SMap Affinity
  power : Nat
  stopPend : Bool
  deriving DecidableEq, Repr

/-- An accumulator tile (R296): mode 0 `EMPTY`, 1 `FP32`, 2 `RNS48`. -/
structure Tile where
  mode : Nat
  m : Nat
  n : Nat
  count : Nat
  rows : SMap Byte
  cols : SMap Byte
  el : SMap Word
  deriving DecidableEq, Repr

/-- A matrix operation that has been armed (R293): its kind, completion flag, ticket, the Keep context that armed it, the
Keep's domain then, and, once it has been carried out, its status word and whether it writes its flag (R294). -/
structure MxOp where
  kind : Nat
  flag : Word
  ticket : BitVec 32
  by_ : Nat
  pdid : BitVec 12
  done : Option (Word × Bool)
  deriving DecidableEq, Repr

/-- An inference request (R307): its requester, slot, weight set, and input bytes; `alive` until its firing stops (R311). -/
structure MxReq where
  who : CtxId
  slot : Nat
  wset : Nat
  input : List Byte
  alive : Bool
  deriving DecidableEq, Repr

/-- An open batch (R309), with its weight set as it was taken. -/
structure Batch where
  bid : Nat
  keepSlot : Nat
  wset : Word
  reqs : List MxReq
  deriving DecidableEq, Repr

/-- The Keep and matrix engine of a pod (R284 to R312), and its pod-scope register. -/
structure Pod where
  shadow : SMap Word
  active : SMap Word
  armed : Option MxOp
  running : Option MxOp
  last : BitVec 32
  next : BitVec 32
  ended : List (BitVec 32 × Word)
  amax : SMap (BitVec 32)
  wset : SMap Word
  tiles : SMap Tile
  queue : List MxReq
  batches : List Batch
  mxFrozen : Bool
  domain : BitVec 12
  poolgrp : BitVec 8
  fwspill : VAddr
  lastKeep : Option Nat
  deriving DecidableEq, Repr

/-- A memory window of a domain (R26). -/
structure Window where
  base : VAddr
  nseg : Nat
  rights : BitVec 5
  attr : BitVec 2
  deriving DecidableEq, Repr

/-- A protection domain's descriptor with its windows (R23, R26): state 0 `FREE`, 1 `LIVE`, 2 `RETIRING`. -/
structure Domain where
  state : Nat
  tcok : Bool
  qmax : Nat
  ctxmax : Nat
  wintab : VAddr
  nwin : Nat
  wins : SMap Window
  ivtab : VAddr
  spillarea : VAddr
  log2spill : Nat
  deriving DecidableEq, Repr

/-- States of a hardware queue (R31). -/
inductive QState where
  | disabled | active | stopped | error
  deriving DecidableEq, Repr

/-- A queue's descriptor (R31) with its prior state (R34) and what the engine keeps of it: its effective class and the
switch cycle from which it ages (R60). -/
structure Queue where
  state : QState
  prior : QState
  prio : BitVec 2
  tc : BitVec 2
  log2size : Nat
  pdid : BitVec 12
  irqvec : BitVec 4
  cause : BitVec 8
  ring : VAddr
  head : BitVec 32
  tail : BitVec 32
  eff : Nat
  since : Nat
  deriving DecidableEq, Repr

/-- A nest job card (R41). -/
structure Card where
  entry : VAddr
  ndim : Nat
  order : Nat
  vregs : Nat
  vclass : Nat
  count : Nat
  minchunk : Nat
  trips : List Nat
  levels : List (Bool × Bool)
  extents : List Nat
  args : List Word
  deriving DecidableEq, Repr

/-- An entry of a graph task queue (R66): its record, its key, and the cycle of its enqueue. -/
structure TqEntry where
  rec_ : List Byte
  key : BitVec 32
  cycle : Word
  deriving DecidableEq, Repr

/-- A task queue of an open graph (R48, R66). -/
structure TaskQueue where
  sorted : Bool
  cap : Nat
  esize : Nat
  home : Nat
  entries : List TqEntry
  reserved : Nat
  deriving DecidableEq, Repr

/-- An actor of a graph (R49): its ports as (task queue, count). -/
structure Actor where
  entry : VAddr
  vregs : Nat
  vclass : Nat
  ins : List (Nat × Nat)
  outs : List (Nat × Nat)
  deriving DecidableEq, Repr

/-- A graph record with its tables (R47); `ready` holds, of each actor that is ready, the `DCYC` of its deciding die since when (R70). -/
structure Graph where
  place : Nat
  dieMask : BitVec 8
  podMask : BitVec 96
  used : BitVec 8
  args : List Word
  actors : List Actor
  tqs : List TaskQueue
  ready : SMap Nat
  deriving DecidableEq, Repr

/-- The work of an open packet. -/
inductive Work where
  | nest (card : Card) (next : Nat)
  | graph (g : Graph)
  | mark
  deriving DecidableEq, Repr

/-- An open packet (R61) and what its completion needs (R38, R58). -/
structure Packet where
  ref : PktRef
  pdid : BitVec 12
  args : Word
  sigop : Nat
  irq : Bool
  sigaddr : VAddr
  sigval : Word
  launchId : BitVec 32
  stataddr : VAddr
  work : Work
  dealt : Bool
  firings : Nat
  retired : Nat
  killed : Nat
  killPkt : Bool
  deriving DecidableEq, Repr

/-- Metadata of one retained version of a `BV` line (R329). -/
structure LineVer where
  desc : VAddr
  version : Nat
  count : Nat
  record : VAddr
  deriving DecidableEq, Repr

/-- A `BV` line: the metadata of its current version, and the data and metadata of its previous version (R329). -/
structure BvLine where
  cur : LineVer
  prev : LineVer
  prevData : List Byte
  deriving DecidableEq, Repr

/-- A committed bundle that is not installed: its version, its record, its committer while the firing that committed it
is still there (R332, R331), and the slots of it that are installed (R333). -/
structure Committed where
  version : Nat
  record : VAddr
  who : Option Owner
  done : List Nat
  deriving DecidableEq, Repr

/-- A bundle set in service at its agent (R327). -/
structure BundleSet where
  counter : Nat
  installed : Nat
  scope : BitVec 3
  pdid : BitVec 12
  pending : List Committed
  deriving DecidableEq, Repr

/-- A participant of a collective (R278). -/
structure Participant where
  rank : Nat
  who : Owner
  from_ : CtxId
  launchId : BitVec 32
  handle : Word
  src : VAddr
  dst : VAddr
  waited : Bool
  deriving DecidableEq, Repr

/-- An open collective instance (R278 to R283): 0 `CLRED`, 1 `CLBCAST`, 2 `CLGATHER`. -/
structure Collective where
  desc : VAddr
  epoch : BitVec 32
  form : Nat
  image : List Byte
  pdid : BitVec 12
  parts : List Participant
  status : Option Word
  ended : Bool
  deriving DecidableEq, Repr

/-- Switch-directory states of a region (R370). -/
inductive DirState where
  | u | s | x
  deriving DecidableEq, Repr

/-- Flags of a region (R370). -/
inductive DirFlag where
  | none | lapse | rebuild
  deriving DecidableEq, Repr

/-- The lease end of an agent by its switch's count, and the checkpoint interval in which the agent last renewed (R370, R375). -/
structure LeaseEnd where
  agent : Nat
  at_ : Nat
  interval : Nat
  deriving DecidableEq, Repr

/-- A switch-directory entry (R370): the region of 2^`lg` lines from line `line`. With a coarse vector the switch no longer knows
`sharers`, which then only says which agents hold the region in fact (R379). -/
structure DirEntry where
  line : Nat
  lg : Nat
  st : DirState
  sharers : List Nat
  coarse : Option (BitVec 64)
  ends : List LeaseEnd
  cend : Nat
  flag : DirFlag
  flagEnd : Nat
  quiet : Nat
  deriving DecidableEq, Repr

/-- A region with `HOST` set (R370, R385), by the physical address of its first line over 128, as the host names it; `snooped`
once a back-invalidate has been sent. -/
structure HostRegion where
  line : Nat
  lg : Nat
  snooped : Bool
  deriving DecidableEq, Repr

/-- A request that waits at a switch die for the holders of its region (R370, R375), with what is left of the count that its requester began
when it sent it (R373). -/
structure CohReq where
  agent : Nat
  line : Nat
  want : Want
  left : Nat
  deriving DecidableEq, Repr

/-- A lease as its holder keeps it (R373, R374): whether it is a write lease, the cycles left of its count, those left when its lines
were last used, and, of each byte written under it and not yet written back, its last written-back value. `mute`: its holder has not
answered a recall (R375). -/
structure HolderLease where
  agent : Nat
  line : Nat
  lg : Nat
  own : Bool
  left : Nat
  total : Nat
  usedAt : Nat
  dirty : List (Loc × Byte)
  mute : Bool
  deriving DecidableEq, Repr

/-- Why a lease lapsed (R375): a request recalled the region, the directory evicted it, a checkpoint called for its dirty lines, or its
end passed without any of these. -/
inductive LapseReason where
  | recalled | evicted | checkpoint | ended
  deriving DecidableEq, Repr

/-- A lapse that a switch recorded (R375). -/
structure Lapse where
  line : Nat
  lg : Nat
  agent : Nat
  reason : LapseReason
  interval : Nat
  deriving DecidableEq, Repr

/-- A switch die's registers (R386), the cycles of its own clock and what that is behind the step by (R10), the line whose region its
`SDROLL` command works on while `busy`, its liveness (R380), and its routes and ports (R381). -/
structure SwitchDie where
  cyc : Nat
  phase : Nat
  lns : BitVec 32
  eps : BitVec 6
  quiet : BitVec 32
  interval : BitVec 32
  keep : BitVec 4
  cur : BitVec 24
  logAddr : BitVec 26
  log2sz : BitVec 5
  busy : Bool
  rollAt : Nat
  err : Bool
  logloss : Bool
  tmo : BitVec 32
  hostNum : BitVec 8
  hostEn : Bool
  lost : Bool
  takeover : Bool
  routes : SMap (BitVec 8)
  ports : BitVec 8
  noRoute : SMap Nat
  lapses : List Lapse
  deriving DecidableEq, Repr

/-- What the device does at the host port (R29, R403, R408, R385, R384): `acquire` asks the host for a shared or owned copy of a line
of its memory. -/
inductive HostOut where
  | write4 (addr : Word) (data : BitVec 32)
  | msix (n : Nat)
  | spdm (code : Byte) (body : List Byte)
  | read (v : Word)
  | acquire (line : VAddr) (own : Bool)
  | backInvalidate (line : Nat)
  | snoopAnswer (line : VAddr) (bytes : List Byte)
  deriving DecidableEq, Repr

/-- What the host asks and the device still owes it: an access, or a snoop of a line (R384, R385). -/
inductive HostReq where
  | access (a : HostAccess)
  | snoop (line : VAddr) (own : Bool)
  deriving DecidableEq, Repr

/-- The host link (R11, R12): rate index 0 not trained, then 1 to 6 for 2.5 to 64 GT/s; lanes; CXL in use. -/
structure HostLink where
  rate : Nat
  width : Nat
  cxl : Bool
  deriving DecidableEq, Repr

/-- The management core's registers and boot state (R403 to R407, R409). -/
structure Mgmt where
  mgmtev : Word
  mbxtail : Word
  mbxhead : Word
  bootstat : Byte
  ring : Memory
  savetab : VAddr
  fwimage : VAddr
  slots : SMap (BitVec 256)
  pwrlim : BitVec 16
  activating : Option CtxId
  flash : Memory
  deriving DecidableEq, Repr

/-- What has happened in the cycle: the pods and the walkers' dies that have bound a firing in it (R64, R70), the effective classes
of the queues as they were at its start (R70), the cores whose `LPART` has been written in it (R85), the dies whose fault buffer has given
up a record (R391), the units whose turn has been, and those that are to kill before anything falls due (R78): `none` once that has; and,
while contexts are bound, what has been tried (R70). -/
structure Cycle where
  pods : List Nat
  walked : List Nat
  classes : SMap Nat
  lparts : List Nat
  popped : List Nat
  turned : List CtxId
  early : Option (List CtxId)
  bind : Option (List Happening)
  deriving DecidableEq, Repr

/-- The package queue engine (R60 to R62): its registers, the last queue served in each class, and the package gang queue. -/
structure Engine where
  ageStep : BitVec 32
  glim : BitVec 32
  lastServed : SMap Nat
  gangq : GangQueue
  deriving DecidableEq, Repr

/-- What the device keeps of a saved firing beside its save area (R398 to R400): its firing, whether its streams are frozen,
its reply slots (R312), and its open bundle and snapshot (R339). -/
structure Saved where
  area : VAddr
  firing : Firing
  engFrozen : Bool
  sendFrozen : Bool
  replySlots : SMap ReplySlot
  bundle : Option OpenBundle
  snap : Option OpenSnap
  deriving DecidableEq, Repr

/-- A pre-emption request that has been accepted and waits for its context (R399). -/
structure PreemptReq where
  who : CtxId
  area : VAddr
  deriving DecidableEq, Repr

/-- A full/empty word's waiting takes, oldest first (R355). -/
structure Deferred where
  va : Nat
  who : CtxId
  deriving DecidableEq, Repr

/-- The last strong access of a line at the LLC of a memory die (R318). -/
structure Strong where
  md : Nat
  line : Nat
  off : Nat
  size : Nat
  deriving DecidableEq, Repr

/-- A strong write of some bytes, by the context that made it, or by an engine (R317). -/
structure StrongWrite where
  loc : Loc
  size : Nat
  by_ : Option CtxId
  deriving DecidableEq, Repr

/-- A kill that has not completed (R397): of a context, of the engine command stream of one, of a pod's matrix command stream, of a saved
firing, or of what a packet has besides bound firings. -/
inductive Kill where
  | ctx (c : CtxId) | engine (c : CtxId) | matrix (pod : Nat) | saved (area : VAddr) | packet (r : PktRef)
  deriving DecidableEq, Repr

/-- The state of one package. `kills` are the kills that have not completed, in the order of the kills (R397). Of the chain
being issued, `ilen` and `istall` are its length and stall count, `imid` the cycles for which it is mid-dispatch (R87), and `held`
that it was held from issue (R86). `hostCopies` are the lines of host memory that `SD0` has obtained, by address over 128, and
whether owned (R384); `hostPend` what the host asks that waits for holders; `ckptOwed` the holders and lines that the end of a
checkpoint interval still waits for, and `ckptSince` the switch cycle in which the interval opened (R377); `hostWrites` are the device's
own writes that wait for the host's answer (R385). -/
structure State where
  cur : CtxId
  me : Ctx
  others : List (CtxId × Ctx)
  ilen : Nat
  istall : BitVec 4
  imid : Nat
  held : Bool
  free : Nat
  opd : Operand
  events : List Happening
  todo : List CtxId
  st : Stores
  sides : SMap Side
  cores : SMap Core
  dies : SMap Die
  pods : SMap Pod
  pkg : BitVec 8
  domains : SMap Domain
  queues : SMap Queue
  packets : List Packet
  saved : List Saved
  preempts : List PreemptReq
  kills : List Kill
  engine : Engine
  cycle : Cycle
  empties : List Nat
  takes : List Deferred
  bv : SMap BvLine
  sets : SMap BundleSet
  collectives : List Collective
  mixtrap : SMap Bool
  strong : List Strong
  strongWrites : List StrongWrite
  dir : List DirEntry
  hostHeld : List HostRegion
  hostCopies : List (Nat × Bool)
  hostPend : List HostReq
  cohWait : List CohReq
  ckptOwed : Option (List (Nat × Nat))
  ckptSince : Nat
  hostWrites : List (Loc × List Byte)
  leases : List HolderLease
  sd0 : SwitchDie
  sd1 : SwitchDie
  peers : List (BitVec 8)
  peerMap : List Nat
  mgmt : Mgmt
  link : HostLink
  hostOut : List HostOut
  deriving DecidableEq, Repr

/-- A context as package reset leaves it: `IDLE`, its registers at the values R55, R102 and R182 give a start and, where
they give none, at the values of log entry 2. -/
def Ctx.reset : Ctx :=
  { st := .idle, x := Vector.replicate 32 0, pc := 0, rs := { hw := Vector.replicate 16 0, depth := 0, spilled := 0 },
    vec := { v := Vector.replicate 32 0, m := Vector.replicate 8 0, vl := 0, vt := 0x0042, vw2 := 0, vregs := 0, vclass := 0,
             vdirty := 0, vhwm := 0 },
    flags := 0, rnd := 0, strip := 0, stripDone := 0, snapVersion := 0, snapValid := false, travBudget := 0, spillBase := 0,
    pdid := 0, chksb := false, causeCode := 0, causeInfo := 0, faddr := 0, fpc := 0, haz := [], stall := 0,
    missack := false, bundle := none, snap := none, slots := [], replySlots := [],
    engFrozen := false, sendFrozen := false, firing := none, start := none, handler := none,
    lastHandlerPdid := none, wait := none, saving := none, views := [], paths := [], late := [] }

/-- Nothing has happened in the cycle. -/
def Cycle.reset : Cycle := { pods := [], walked := [], classes := [], lparts := [], popped := [], turned := [], early := none, bind := none }

/-- A side at package reset (R87, R89, R346). -/
def Side.reset : Side :=
  { vq := [], credit := 0, lastUser := none, mid := 0, midSlot := 0, sendq := [], replyCredits := 16, seq := 0, owed := [],
    arrivals := [], accepted := 0, waiting := [], replyCache := [], xseq := 0 }

/-- A core's registers at package reset (R102, R343). -/
def Core.reset : Core :=
  { lpart := 2, lpartPend := none, share := 8, lsplit := 4, lsplitPend := none, tagsel := 0, tagen := 0, tagpend := 0,
    spawnlim := 64, tagbase := 0, msgtrap := 0, migq := 16, migovf := 0, fwspill := 0, plb := [], migCount := 0, migHw := [],
    migOv := [] }

/-- A compute die at package reset (R74, R100, R241, R343). DESIGN CHOICE: the affinity table of R68 starts with no matching entry, and
the caches with no line (log entry 117). -/
def Die.reset : Die :=
  { dcyc := 0, phase := 0, l2 := [], rdc := [], tex := [], texels := [], agelim := 0x00100000, pgEn := false, pgAddr := 0,
    postown := Vector.replicate 16 0, chans := [], tlb := [],
    fb := [], fbHeld := [], fbNew := false, fbOvf := false, engines := [], copySeq := 0, copyDone := [],
    chunks := [], gangq := { gangs := [], headSince := 0, reserving := none },
    affinity := [], power := 0, stopPend := false }

/-- An empty tile (R287). -/
def Tile.reset : Tile := { mode := 0, m := 0, n := 0, count := 0, rows := [], cols := [], el := [] }

/-- A pod's Keep and matrix engine at package reset (R290). -/
def Pod.reset : Pod :=
  { shadow := [], active := [], armed := none, running := none, last := 0, next := 1, ended := [], amax := [], wset := [],
    tiles := [], queue := [], batches := [], mxFrozen := false, domain := 0, poolgrp := 0, fwspill := 0, lastKeep := none }

/-- A domain that is `FREE` and owns nothing (R25). -/
def Domain.reset : Domain :=
  { state := 0, tcok := false, qmax := 0, ctxmax := 0, wintab := 0, nwin := 0, wins := [], ivtab := 0, spillarea := 0, log2spill := 8 }

/-- A queue at package reset: `DISABLED` (R33). -/
def Queue.reset : Queue :=
  { state := .disabled, prior := .active, prio := 0, tc := 0, log2size := 4, pdid := 0, irqvec := 0, cause := 0, ring := 0,
    head := 0, tail := 0, eff := 0, since := 0 }

/-- A switch die at package reset (R386). -/
def SwitchDie.reset : SwitchDie :=
  { cyc := 0, phase := 0, lns := 0x9C40, eps := 8, quiet := 0x00010000, interval := 0x01000000, keep := 4, cur := 0, logAddr := 0,
    log2sz := 0, busy := false, rollAt := 0, err := false, logloss := false, tmo := 0x00100000, hostNum := 0xFF, hostEn := false, lost := false,
    takeover := false, routes := [], ports := 0xFF, noRoute := [], lapses := [] }

/-- Every store empty: each byte reads as log entry 1 says. -/
def Stores.reset : Stores :=
  { dram := { bytes := [], written := [], log := [], from_ := 0 }, scratch := [], staging := [], podScratch := [], peer := [], host := [] }

/-- The management core at package reset, before boot (R403 to R407). -/
def Mgmt.reset : Mgmt :=
  { mgmtev := 0, mbxtail := 0, mbxhead := 0, bootstat := 0, ring := [], savetab := 0, fwimage := 0, slots := [], pwrlim := 1500,
    activating := none, flash := [] }

/-- The queue engine's registers at package reset (R62). -/
def Engine.reset : Engine :=
  { ageStep := 0x00004000, glim := 0x00100000, lastServed := [], gangq := { gangs := [], headSince := 0, reserving := none } }

/-- The package right after package reset: nothing runs, memory lists nothing, and boot is the first happening (R407). -/
def State.reset : State :=
  { cur := { keep := false, unit := 0, side := false, slot := 0 }, me := Ctx.reset, others := [],
    ilen := 0, istall := 0, imid := 0, held := false, free := 0,
    opd := .none, events := [⟨.packageReset, .none⟩], todo := [], st := Stores.reset,
    sides := [], cores := [], dies := [], pods := [], pkg := 0, domains := [], queues := [], packets := [],
    saved := [], preempts := [], kills := [], engine := Engine.reset, cycle := Cycle.reset,
    empties := [], takes := [], bv := [], sets := [], collectives := [], mixtrap := [], strong := [], strongWrites := [],
    dir := [], hostHeld := [], hostCopies := [], hostPend := [], cohWait := [], ckptOwed := none, ckptSince := 0, hostWrites := [], leases := [],
    sd0 := SwitchDie.reset, sd1 := SwitchDie.reset, peers := [], peerMap := [], mgmt := Mgmt.reset,
    link := { rate := 0, width := 0, cxl := false }, hostOut := [] }

/-- Reasons the model stops. -/
inductive Fault where
  /-- Raised by `SWITCH_DIE_LOST` when the other switch die is lost already: the rules describe the loss of one (R380), and
  no path between dies is left. Safe: the package stops where the spec gives no effect. -/
  | noSwitchDie
  deriving DecidableEq, Repr

/-- Reasons an instruction is not given a meaning. -/
inductive Refusal where
  /-- Raised by an arm of `exec` whose instruction has no meaning yet, with the row's mnemonic. Safe. -/
  | notModelled (mnemonic : String)
  deriving DecidableEq, Repr

end Sys2Proof.Machine
end

