-- ==== Sys2Proof/Machine/Mem.lean ====
section
/-! DEFINITION. Operations on the byte stores: reading and writing one byte and runs of bytes, in the one canonical form
(`Memory.wf`), and the locations that an address can lead to. -/

namespace Sys2Proof.Machine

/-- The byte at address `a`; 0 where none is listed (log entry 1). -/
def Memory.read (m : Memory) (a : Nat) : Byte :=
  match m with
  | [] => 0
  | (k, v) :: r => if k = a then v else if a < k then 0 else Memory.read r a

/-- The memory with byte `v` at address `a`: the byte 0 is not listed. -/
def Memory.write (m : Memory) (a : Nat) (v : Byte) : Memory :=
  match m with
  | [] => if v = 0 then [] else [(a, v)]
  | (k, w) :: r =>
    if k = a then (if v = 0 then r else (a, v) :: r)
    else if a < k then (if v = 0 then (k, w) :: r else (a, v) :: (k, w) :: r)
    else (k, w) :: Memory.write r a v

/-- The `n` bytes from address `a`. -/
def Memory.readN (m : Memory) (a n : Nat) : List Byte :=
  match n with
  | 0 => []
  | n + 1 => m.read a :: Memory.readN m (a + 1) n

/-- The memory with the bytes `l` from address `a` on. -/
def Memory.writeN (m : Memory) (a : Nat) (l : List Byte) : Memory :=
  match l with
  | [] => m
  | v :: r => Memory.writeN (m.write a v) (a + 1) r

/-- The memory without the bytes of `[lo, hi)`: they read 0. -/
def Memory.clear (m : Memory) (lo hi : Nat) : Memory := m.filter (fun c => decide (c.1 < lo) || decide (hi ≤ c.1))

/-- The location `n` bytes on. -/
def Loc.add (l : Loc) (n : Nat) : Loc := { l with a := l.a + n }

/-- The store that a location lies in. -/
def Stores.of (st : Stores) (sp : Space) : Memory :=
  match sp with
  | .dram => st.dram.bytes
  | .peer => st.peer
  | .host => st.host
  | .scratch => st.scratch
  | .staging => st.staging

/-- The stores with one of them replaced. -/
def Stores.put (st : Stores) (sp : Space) (m : Memory) : Stores :=
  match sp with
  | .dram => { st with dram := { st.dram with bytes := m } }
  | .peer => { st with peer := m }
  | .host => { st with host := m }
  | .scratch => { st with scratch := m }
  | .staging => { st with staging := m }

/-- The `n` bytes at a location, as the stores hold them. -/
def Stores.get (st : Stores) (l : Loc) (n : Nat) : List Byte := (st.of l.sp).readN l.a n

/-- The stores with bytes written from a location on. -/
def Stores.set (st : Stores) (l : Loc) (bs : List Byte) : Stores := st.put l.sp ((st.of l.sp).writeN l.a bs)

/-- Every store is in canonical form. -/
def Stores.wf (st : Stores) : Bool :=
  st.dram.bytes.wf && st.peer.wf && st.host.wf && st.scratch.wf && st.staging.wf && st.podScratch.wf

end Sys2Proof.Machine
end

