-- ==== Sys2Proof/Machine/Ops.lean ====
section
/-! DEFINITION. The named operations that every meaning shares: contexts and units, translation and rights
(spec/09_memory.md), interrupt vectors and management events, and taking a trap, fault or freeze (spec/15_interruption.md). -/

namespace Sys2Proof.Machine

/-! ## Contexts and units -/

/-- A context that has fetched nothing ahead (R170, R364): whatever it fetches is as memory stands now, or as it becomes. -/
def Ctx.fetchFrom (x : Ctx) (st : Stores) : Ctx := { x with views := [{ base := 0, size := 2 ^ 64, st := st }] }

/-- The entry of context `c` in a list. -/
def ctxFind (l : List (CtxId × Ctx)) (c : CtxId) : Option Ctx :=
  match l with
  | [] => none
  | (k, x) :: r => if k = c then some x else ctxFind r c

/-- The list with the entry of context `c` set. -/
def ctxPut (l : List (CtxId × Ctx)) (c : CtxId) (x : Ctx) : List (CtxId × Ctx) :=
  match l with
  | [] => [(c, x)]
  | (k, y) :: r => if k = c then (c, x) :: r else (k, y) :: ctxPut r c x

/-- The list without the entry of context `c`. -/
def ctxDel (l : List (CtxId × Ctx)) (c : CtxId) : List (CtxId × Ctx) :=
  match l with
  | [] => []
  | (k, y) :: r => if k = c then r else (k, y) :: ctxDel r c

/-- The context named `c`. -/
def State.ctx (s : State) (c : CtxId) : Ctx := if c = s.cur then s.me else (ctxFind s.others c).getD Ctx.reset

/-- The state with context `c` replaced. -/
def State.setCtx (s : State) (c : CtxId) (x : Ctx) : State :=
  if c = s.cur then { s with me := x } else { s with others := ctxPut s.others c x }

/-- The state in which context `c` is the executing one. -/
def State.focus (s : State) (c : CtxId) : State :=
  if c = s.cur then s else { s with cur := c, me := s.ctx c, others := ctxPut (ctxDel s.others c) s.cur s.me }

/-- Whose a context's requests and commands are: its firing's, or its own. -/
def State.ownerOf (s : State) (c : CtxId) : Owner :=
  match (s.ctx c).firing with
  | some f => .firing f.pkt.pkg f.fid
  | none => .ctx c

/-- Every context that the state lists, the executing one first. -/
def State.allCtx (s : State) : List (CtxId × Ctx) := (s.cur, s.me) :: s.others.filter (fun e => e.1 != s.cur)

/-- The context that an owner's work is on, if it is on one. -/
def State.holderOf (s : State) (o : Owner) : Option CtxId := (s.allCtx.find? (fun (c, _) => s.ownerOf c == o)).map (·.1)

/-- The firing that a saved firing is, as an owner. -/
def Saved.owner (x : Saved) : Owner := .firing x.firing.pkt.pkg x.firing.fid

/-- The engine or send stream of an owner that is saved frozen. -/
def State.freezeSaved (s : State) (o : Owner) (engine : Bool) : State :=
  { s with saved := s.saved.map (fun x =>
      if x.owner == o then { x with engFrozen := x.engFrozen || engine, sendFrozen := x.sendFrozen || !engine } else x) }

/-- The firing of a context has been killed (R397). -/
def Ctx.killed (x : Ctx) : Bool :=
  match x.firing with
  | some f => f.killed
  | none => false

/-- The kinds of context (R76, R284). -/
inductive Kind where
  | user | message | firmware | keep | keepFw
  deriving DecidableEq, Repr

/-- The kind of a context. -/
def kindOf (c : CtxId) : Kind :=
  if c.keep then (if c.slot = 3 then .keepFw else .keep)
  else if c.slot = 8 then .message else if c.slot = 9 then .firmware else .user

/-- A firmware context, of a core side or of a Keep. -/
def isFw (c : CtxId) : Bool :=
  match kindOf c with
  | .firmware => true
  | .keepFw => true
  | _ => false

/-- The compute die of a context (R4). -/
def dieOf (c : CtxId) : Nat := if c.keep then c.unit / 12 else c.unit / 96
/-- The pod of a context, numbered within the package (R4). -/
def podOf (c : CtxId) : Nat := if c.keep then c.unit else c.unit / 8

/-- Core `k`. -/
def State.core (s : State) (k : Nat) : Core := s.cores.get Core.reset k
def State.setCore (s : State) (k : Nat) (c : Core) : State := { s with cores := s.cores.set k c }
/-- Compute die `d`. -/
def State.die (s : State) (d : Nat) : Die := s.dies.get Die.reset d
def State.setDie (s : State) (d : Nat) (x : Die) : State := { s with dies := s.dies.set d x }
/-- Pod `p`'s Keep and matrix engine. -/
def State.pod (s : State) (p : Nat) : Pod := s.pods.get Pod.reset p
def State.setPod (s : State) (p : Nat) (x : Pod) : State := { s with pods := s.pods.set p x }
/-- Number of a side in `State.sides`. -/
def sideKey (core : Nat) (side : Bool) : Nat := 2 * core + side.toNat
/-- A side of a core. -/
def State.side (s : State) (core : Nat) (side : Bool) : Side := s.sides.get Side.reset (sideKey core side)
def State.setSide (s : State) (core : Nat) (side : Bool) (x : Side) : State :=
  { s with sides := s.sides.set (sideKey core side) x }
/-- A protection domain. -/
def State.domain (s : State) (d : Nat) : Domain := s.domains.get Domain.reset d
def State.setDomain (s : State) (d : Nat) (x : Domain) : State := { s with domains := s.domains.set d x }
/-- A hardware queue. -/
def State.queue (s : State) (q : Nat) : Queue := s.queues.get Queue.reset q
def State.setQueue (s : State) (q : Nat) (x : Queue) : State := { s with queues := s.queues.set q x }
/-- A switch die: `SD1` for true. -/
def State.sd (s : State) (d : Bool) : SwitchDie := if d then s.sd1 else s.sd0
def State.setSd (s : State) (d : Bool) (x : SwitchDie) : State := if d then { s with sd1 := x } else { s with sd0 := x }

/-- The switch die whose state both keep alike counts for the package: `SD0`, or the survivor where it is lost (R380). -/
def State.mainSd (s : State) : SwitchDie := if s.sd0.lost then s.sd1 else s.sd0

/-- The state with something to happen after what is pending. -/
def State.push (s : State) (i : Instr) (o : Operand) : State := { s with events := s.events ++ [⟨i, o⟩] }

/-- The executing context replaced. -/
def State.withMe (s : State) (x : Ctx) : State := { s with me := x }

/-! ## Rights and translation -/

/-- Rights, as bits of `RIGHTS` (R26). -/
def rR : BitVec 5 := 1
def rW : BitVec 5 := 2
def rX : BitVec 5 := 4
def rRW : BitVec 5 := 3
def rRA : BitVec 5 := 9
def rRWA : BitVec 5 := 11
def rER : BitVec 5 := 17
def rEW : BitVec 5 := 18

/-- The protection segment of an address (R235). -/
def segOf (va : Nat) : Nat := va / 2 ^ 21

/-- The window covers the segment (R26, R235). -/
def Window.covers (w : Window) (seg : Nat) : Bool :=
  decide (segOf w.base.toNat ≤ seg) && decide (seg < segOf w.base.toNat + w.nseg)

/-- The window of a table that covers a segment. -/
def windowAt (l : SMap Window) (seg : Nat) : Option Window :=
  match l with
  | [] => none
  | (_, w) :: r => if w.covers seg then some w else windowAt r seg

/-- The region attribute of a segment: that of any window that covers it, else plain (R27, R235). -/
def attrIn (l : SMap Domain) (seg : Nat) : BitVec 2 :=
  match l with
  | [] => 0
  | (_, d) :: r =>
    match windowAt d.wins seg with
    | some w => w.attr
    | none => attrIn r seg

/-- The region attribute of an address. -/
def State.attr (s : State) (va : Nat) : BitVec 2 := attrIn s.domains (segOf va)

/-- The rights of a domain over a segment by its window table; firmware's `PDID` 0 holds every right (R237), and the windows
of a `FREE` domain grant nothing (R26). -/
def State.tableRights (s : State) (pdid : BitVec 12) (seg : Nat) : BitVec 5 :=
  if pdid = 0 then 31
  else if (s.domain pdid.toNat).state = 0 then 0
  else match windowAt (s.domain pdid.toNat).wins seg with
    | some w => w.rights
    | none => 0

/-- Who makes an access: its domain, the core whose PLB checks it, the die whose unit translates it, and the staging area
that the staging range names for it. -/
structure Req where
  pdid : BitVec 12
  core : Option Nat
  die : Nat
  staging : Option Nat
  deriving DecidableEq, Repr

/-- Number of the staging area of a user context (R245). -/
def stagingOf (c : CtxId) : Nat := 16 * c.unit + 8 * c.side.toNat + c.slot

/-- The executing context as the maker of an access under a domain. -/
def State.reqAs (s : State) (pdid : BitVec 12) : Req :=
  { pdid := pdid, core := if s.cur.keep then none else some s.cur.unit, die := dieOf s.cur,
    staging := if kindOf s.cur = .user then some (stagingOf s.cur) else none }

/-- The executing context as the maker of an access. -/
def State.req (s : State) : Req := s.reqAs s.me.pdid

/-- Firmware of a die. -/
def fwReq (die : Nat) : Req := { pdid := 0, core := none, die := die, staging := none }

/-- The entry of a PLB for a (`PDID`, segment) pair. -/
def plbFind (l : List PlbEntry) (pdid : BitVec 12) (seg : Nat) : Option PlbEntry :=
  l.find? (fun e => e.pdid == pdid && e.seg == seg)

/-- The rights that a maker of accesses has over a segment. A copy in the PLB that differs from the table may be used or
may have been replaced (R235, R238): a free choice. -/
def State.rights (s : State) (r : Req) (seg : Nat) : BitVec 5 :=
  match r.core with
  | none => s.tableRights r.pdid seg
  | some k =>
    if r.pdid = 0 then 31
    else match plbFind (s.core k).plb r.pdid seg with
      | some e => if e.rights != s.tableRights r.pdid seg && Config.pick s.free (16 * seg + 2) then e.rights else s.tableRights r.pdid seg
      | none => s.tableRights r.pdid seg

/-- The state after the PLB of the maker's core has been filled for a segment (R235). -/
def State.fillPlb (s : State) (r : Req) (seg : Nat) : State :=
  match r.core with
  | none => s
  | some k =>
    if r.pdid = 0 then s
    else match plbFind (s.core k).plb r.pdid seg with
      | some _ => s
      | none =>
        s.setCore k { s.core k with
          plb := ({ pdid := r.pdid, seg := seg, rights := s.tableRights r.pdid seg, attr := s.attr (seg * 2 ^ 21) } ::
                  (s.core k).plb).take 256 }

/-- Size of physical memory (R234). -/
def dramSize : Nat := 192 * 2 ^ 30

/-- A walk of the page table (R240, R242): `levels` gives for each level left the place and width of its index, `top` whether
the first of them is level 1. -/
def walkFrom (m : Memory) (va : Nat) (levels : List (Nat × Nat)) (top : Bool) (table : Nat) : Option Nat :=
  match levels with
  | [] => none
  | (sh, len) :: rest =>
    let e := ofBytes (m.readN (table + 8 * bitsOf va sh len) 8)
    let addr := bitsOf e 8 30 * 256
    if !bitOf e 0 || bitsOf e 2 6 != 0 || bitsOf e 38 26 != 0 || decide (dramSize ≤ addr) then none
    else if bitOf e 1 then
      if top || addr % 2 ^ sh != 0 then none
      else if rest.isEmpty && bitsOf addr 16 2 != bitsOf va 16 2 then none
      else some (addr + va % 2 ^ sh)
    else if rest.isEmpty then none
    else walkFrom m va rest false addr

/-- The physical address that the page table gives a package-local address. -/
def walk (m : Memory) (root va : Nat) : Option Nat := walkFrom m va [(39, 9), (30, 9), (21, 9), (16, 5)] true root

/-- The physical page of a 64 KiB page in a TLB. -/
def tlbFind (l : List TlbEntry) (page : Nat) : Option Nat := (l.find? (fun e => e.page == page)).map (·.frame)

/-- Translation of a package-local address by the unit of a die (R239 to R243). With `PGROOT.EN` 0 only firmware's accesses
are performed, at the physical address equal to the local one (DEDUCED, log entry 5). A TLB entry that the page table no
longer agrees with may be used or not (R243): a free choice. -/
def State.xlate (s : State) (r : Req) (off : Nat) : Option Nat :=
  if !(s.die r.die).pgEn then (if r.pdid = 0 && decide (off < dramSize) then some off else none)
  else
    let fresh := walk s.st.dram.bytes (s.die r.die).pgAddr.toNat off
    match tlbFind (s.die r.die).tlb (off / 2 ^ 16) with
    | some f =>
      if some (f * 2 ^ 16 + off % 2 ^ 16) != fresh && Config.pick s.free (16 * off + 3) then some (f * 2 ^ 16 + off % 2 ^ 16) else fresh
    | none => fresh

/-- The state after the TLB of the maker's die has been filled. -/
def State.fillTlb (s : State) (r : Req) (off pa : Nat) : State :=
  if !(s.die r.die).pgEn || (tlbFind (s.die r.die).tlb (off / 2 ^ 16)).isSome then s
  else s.setDie r.die { s.die r.die with
    tlb := ({ page := off / 2 ^ 16, frame := pa / 2 ^ 16 } :: (s.die r.die).tlb).take 8192 }

/-- The package number names the host, and no package (R383). -/
def State.namesHost (s : State) (p : BitVec 8) : Bool := s.sd0.hostEn && p == s.sd0.hostNum

/-- What an address names (R231, R232, R383). -/
inductive Region where
  | home (off : Nat)
  | foreign (pkg : Nat)
  | host (hpa : Nat)
  | scratch (core off : Nat)
  | peerScratch (pkg core off : Nat)
  | doorbell (q off : Nat)
  | peerDoorbell (pkg : Nat)
  | staging (off : Nat)
  | reserved
  deriving DecidableEq, Repr

/-- The region of an address. -/
def State.region (s : State) (va : Nat) : Region :=
  let pk := va / 2 ^ 48 % 256
  let off := va % 2 ^ 48
  let own := pk == s.pkg.toNat
  if s.namesHost (BitVec.ofNat 8 pk) then .host off
  else if off < 0xFFFFC0000000 then (if own then .home off else .foreign pk)
  else if off < 0xFFFFD8000000 then
    (if own then .scratch ((off - 0xFFFFC0000000) / 2 ^ 19) ((off - 0xFFFFC0000000) % 2 ^ 19)
     else .peerScratch pk ((off - 0xFFFFC0000000) / 2 ^ 19) ((off - 0xFFFFC0000000) % 2 ^ 19))
  else if decide (0xFFFFF0000000 ≤ off) && decide (off < 0xFFFFF1000000) then
    (if own then .doorbell ((off - 0xFFFFF0000000) / 4096) (off % 4096) else .peerDoorbell pk)
  else if decide (0xFFFFFFFFF000 ≤ off) && own then .staging (off % 4096)
  else .reserved

/-- Size in bytes of the scratch of a core (R245). -/
def State.scratchSize (s : State) (k : Nat) : Nat := (448 - 64 * (s.core k).lsplit.toNat) * 1024

/-- Size in bytes of the scratch of a core of another package now (R246): of the eight that R245 gives, which one is free (log entry 3). -/
def State.peerScratchSize (s : State) (pk k : Nat) : Nat := (448 - 64 * ((Config.word s.free (16 * (1024 * pk + k) + 14)).toNat % 8)) * 1024

/-- Why an access is not performed: a right is missing (bits of R389), there is no translation, its package cannot be reached (R382),
or it is host-homed where it may not be (R383); each with the address. -/
inductive AccErr where
  | right (missing : BitVec 4) (addr : Nat)
  | xlate (addr : Nat)
  | lost (addr : Nat)
  | host (addr : Nat)
  deriving DecidableEq, Repr

/-- The missing rights as `CAUSE.INFO`[19:16] records them (R389): a missing `E` sets all four bits. -/
def missingBits (m : BitVec 5) : BitVec 4 := if m.getLsbD 4 then 0xF else m.extractLsb' 0 4

/-- A die's L2 caches a line: it is homed in this package on the die's near memory die; every other line belongs to its RDC (R2). -/
def State.near (s : State) (die line : Nat) : Bool :=
  match s.region (line * 128) with
  | .home _ => line * 128 / 2 ^ 16 % 4 == die / 2
  | _ => false

/-- The line as the slice of a die holds it, where it does. -/
def State.lineAt (s : State) (die line : Nat) : Option CacheLine :=
  ((if s.near die line then (s.die die).l2 else (s.die die).rdc).find? (fun e => e.1 == line)).map (·.2)

/-- A die holds a line under a lease, for writing where `own`: an access to it asks nothing of its package (R382). -/
def State.heldLine (s : State) (die va : Nat) (own : Bool) : Bool :=
  s.leases.any (fun h => h.agent == 8 * s.pkg.toNat + die && decide (h.line ≤ va / 128) && decide (va / 128 < h.line + 2 ^ h.lg) &&
    decide (0 < h.left) && (h.own || !own))

/-- Where a line lies that an access hits in its die's caches, in the state that it needs: the access asks for no translation, and
nothing of the package that homes the line (R239, R244, R382). An atomic is performed at the home. -/
def State.hitLoc (s : State) (r : Req) (need : BitVec 5) (va : Nat) : Option Loc :=
  if need != 0 && !need.getLsbD 3 && s.heldLine r.die va (need.getLsbD 1) then
    (s.lineAt r.die (va / 128)).map (fun c => c.loc.add (va % 128))
  else none

/-- Confirmation of an access at one address (R90, R232, R235 to R242, R246, R382, R383): its location, and the state with
the PLB and TLB entries that it brought in. An access to the host's memory passes `SD0` (R3): with that lost it fails as one that finds
no way, which the rules leave open (DESIGN CHOICE, log entry 104). -/
def State.locate (s : State) (r : Req) (need : BitVec 5) (va : Nat) : Except AccErr (State × Loc) :=
  let miss := need &&& ~~~(s.rights r (segOf va))
  let s' := s.fillPlb r (segOf va)
  match s.region va with
  | .reserved => .error (.xlate va)
  | .doorbell _ _ => .error (.xlate va)
  | .peerDoorbell _ => .error (.xlate va)
  | .staging off =>
    match r.staging with
    | some i => .ok (s, ⟨.staging, i * 4096 + off⟩)
    | none => .error (.xlate va)
  | .home off =>
    if miss != 0 then .error (.right (missingBits miss) va)
    else match s.hitLoc r need va with
      | some l => .ok (s', l)
      | none =>
        match s'.xlate r off with
        | some pa => .ok (s'.fillTlb r off pa, ⟨.dram, pa⟩)
        | none => .error (.xlate va)
  | .foreign pk =>
    if miss != 0 then .error (.right (missingBits miss) va)
    else if (s.hitLoc r need va).isSome then .ok (s', ⟨.peer, va⟩)
    else if !s.peers.contains (BitVec.ofNat 8 pk) then .error (.lost va)
    else if !s.peerMap.contains (va / 2 ^ 16) then .error (.xlate va)
    else .ok (s', ⟨.peer, va⟩)
  | .host hpa =>
    if miss != 0 then .error (.right (missingBits miss) va)
    else if s.attr va != 0 || s.sd0.lost then .error (.host va)
    else .ok (s', ⟨.host, hpa⟩)
  | .scratch k off =>
    if miss != 0 then .error (.right (missingBits miss) va)
    else if off < s.scratchSize k then .ok (s', ⟨.scratch, k * 2 ^ 19 + off⟩)
    else .error (.xlate va)
  | .peerScratch pk k off =>
    if miss != 0 then .error (.right (missingBits miss) va)
    else if !s.peers.contains (BitVec.ofNat 8 pk) then .error (.lost va)
    else if off < s.peerScratchSize pk k then .ok (s', ⟨.peer, va⟩)
    else .error (.xlate va)

/-- Where firmware's tables lie that the device reads or writes itself. -/
def State.fwLoc (s : State) (va : Nat) : Option Loc :=
  match s.locate (fwReq 0) 0 va with
  | .ok (_, l) => some l
  | .error _ => none

/-- `n` bytes of a firmware table, as a number; 0 where it has no translation. -/
def State.fwRead (s : State) (va n : Nat) : Nat :=
  match s.fwLoc va with
  | some l => ofBytes (s.st.get l n)
  | none => 0

/-- A die without the decoded texture groups formed from a line that `p` names, and without every local copy of their texels (R259). -/
def Die.dropTex (x : Die) (p : Nat × Loc → Bool) : Die :=
  { x with tex := x.tex.filter (fun g => !g.src.any p), texels := x.texels.filter (fun e => !e.src.any p) }

/-- The `n` bytes at a location share a byte with the line at `m`. -/
def Loc.meets (l : Loc) (n : Nat) (m : Loc) : Bool := l.sp == m.sp && decide (l.a < m.a + 128) && decide (m.a < l.a + n)

/-- The state with `n` bytes at a location about to be written: no die keeps a texture group formed from them (R259). -/
def State.dropTex (s : State) (l : Loc) (n : Nat) : State :=
  { s with dies := s.dies.map (fun (k, d) => (k, d.dropTex (fun e => l.meets n e.2))) }

/-- The state with bytes written at a location. -/
def State.putBytes (s : State) (l : Loc) (bs : List Byte) : State :=
  let t := s.dropTex l bs.length
  { t with st := t.st.set l bs }

/-! ## Writes at the home: the undo log (R377), leases (R375), and the host's copies (R385) -/

/-- Entries that the undo log of a memory die holds: 2^`LOG2SZ` KiB (R386) of 144 bytes each (log entry 6). -/
def State.logCap (s : State) : Nat := 2 ^ s.mainSd.log2sz.toNat * 1024 / 144

/-- The oldest interval in an undo log. -/
def oldestInterval (l : List Undo) : Nat :=
  match l with
  | [] => 0
  | u :: r => r.foldl (fun m v => min m v.interval) u.interval

/-- The undo log with the old bytes of a line, when this is the first store of the interval to it (R377). With the log of the
line's memory die full, its oldest whole interval is dropped first and `LOGLOSS` set. -/
def State.undoNote (s : State) (line : Nat) : State :=
  let cur := s.mainSd.cur.toNat
  if s.st.dram.written.get 0 line < cur then
    let same := s.st.dram.log.filter (fun u => u.line * 128 / 65536 % 4 == line * 128 / 65536 % 4)
    let full := decide (s.logCap ≤ same.length)
    let log := if full then s.st.dram.log.filter (fun u => u.interval != oldestInterval same) else s.st.dram.log
    let from_ := if full then max s.st.dram.from_ (oldestInterval same + 1) else s.st.dram.from_
    { s with
      sd0 := { s.sd0 with logloss := s.sd0.logloss || full }, sd1 := { s.sd1 with logloss := s.sd1.logloss || full },
      st := { s.st with dram := { s.st.dram with
        written := s.st.dram.written.set line cur,
        log := log ++ [{ interval := cur - 1, line := line, bytes := s.st.dram.bytes.readN (line * 128) 128 }],
        from_ := from_ } } }
  else s

/-- The lines that `n` bytes from physical address `pa` touch, each noted in the undo log. -/
def State.undoLines (s : State) (line count : Nat) : State :=
  match count with
  | 0 => s
  | k + 1 => (s.undoNote line).undoLines (line + 1) k

/-- Number of 128-byte lines that `n` bytes from `a` touch. -/
def lineCount (a n : Nat) : Nat := if n = 0 then 0 else (a + n - 1) / 128 - a / 128 + 1

/-- The undo log before a write of bytes at a location. -/
def State.undoAt (s : State) (l : Loc) (n : Nat) : State :=
  match l.sp with
  | .dram => s.undoLines (l.a / 128) (lineCount l.a n)
  | _ => s

/-- The leases after bytes have been written at their home: what was dirty of them is no more (R375). -/
def State.forget (s : State) (l : Loc) (n : Nat) : State :=
  { s with leases := s.leases.map (fun h =>
      if h.dirty.isEmpty then h
      else { h with dirty := h.dirty.filter (fun d => d.1.sp != l.sp || decide (d.1.a < l.a) || decide (l.a + n ≤ d.1.a)) }) }

/-- Performing a write at its home, by no die's own (R377). -/
def State.writeHome (s : State) (l : Loc) (bs : List Byte) : State :=
  ((s.undoAt l bs.length).forget l bs.length).putBytes l bs

/-- The region covers a line of physical memory. -/
def HostRegion.covers (h : HostRegion) (line : Nat) : Bool := decide (h.line ≤ line) && decide (line < h.line + 2 ^ h.lg)

/-- The state after a write waits for the host's answer to a back-invalidate snoop (R385), where the region's `HOST` is set;
`none` where no wait is needed. The snoop is sent once; without CXL.mem there is none (R12). -/
def State.hostWait (s : State) (l : Loc) : Option State :=
  if l.sp != .dram || !s.link.cxl then none
  else match s.hostHeld.find? (fun h => h.covers (l.a / 128)) with
    | none => none
    | some h =>
      if h.snooped then some s
      else some { s with
        hostHeld := s.hostHeld.map (fun x => if x == h then { x with snooped := true } else x),
        hostOut := s.hostOut ++ [.backInvalidate (l.a / 128 * 128)] }

/-- A write that the device makes of its own, at the home: where the host may hold the line, it waits for the host's answer (R385). -/
def State.devWrite (s : State) (l : Loc) (bs : List Byte) : State :=
  match s.hostWait l with
  | some u => { u with hostWrites := u.hostWrites ++ [(l, bs)] }
  | none => s.writeHome l bs

/-- The state with `n` bytes of a firmware table written. -/
def State.fwWrite (s : State) (va n v : Nat) : State :=
  match s.fwLoc va with
  | some l => s.devWrite l (toBytes n v)
  | none => s

/-! ## Interrupts and management events -/

/-- Raising a management event (R403): a raise of one that is set changes nothing. -/
def State.raiseMgmt (s : State) (n : Nat) : State :=
  if s.mgmt.mgmtev.getLsbD n then s
  else { s with mgmt := { s.mgmt with mgmtev := s.mgmt.mgmtev ||| BitVec.ofNat 64 (2 ^ n) }, hostOut := s.hostOut ++ [.msix n] }

/-- Raising a tenant vector of a domain (R29); a `FREE` domain owns none (R25). DESIGN CHOICE: a vector whose entry has no translation is
not raised (log entry 23). -/
def State.raiseVector (s : State) (pdid vec : Nat) : State :=
  if (s.domain pdid).state = 0 || (s.fwLoc ((s.domain pdid).ivtab.toNat + 16 * vec)).isNone then s else
  let e := (s.domain pdid).ivtab.toNat + 16 * vec
  let ctl := s.fwRead (e + 12) 4
  if bitOf ctl 0 then (if bitOf ctl 1 then s else s.fwWrite (e + 12) 4 (ctl + 2))
  else { s with hostOut := s.hostOut ++ [.write4 (BitVec.ofNat 64 (s.fwRead e 8)) (BitVec.ofNat 32 (s.fwRead (e + 8) 4))] }

/-! ## Traps, faults and freezes -/

/-- Cause codes (R389). -/
def cIllegal : BitVec 8 := 0x01
def cStallShort : BitVec 8 := 0x02
def cTrap : BitVec 8 := 0x03
def cBrk : BitVec 8 := 0x04
def cPtrOvf : BitVec 8 := 0x05
def cMisalign : BitVec 8 := 0x06
def cDbellAccess : BitVec 8 := 0x07
def cFatFormat : BitVec 8 := 0x08
def cFetchXlate : BitVec 8 := 0x10
def cDataXlate : BitVec 8 := 0x11
def cSpillXlate : BitVec 8 := 0x12
def cPeerLost : BitVec 8 := 0x13
def cMsgDest : BitVec 8 := 0x14
def cRstackOvf : BitVec 8 := 0x18
def cRstackEmpty : BitVec 8 := 0x19
def cBvStore : BitVec 8 := 0x20
def cNoBundle : BitVec 8 := 0x21
def cBundleTarget : BitVec 8 := 0x22
def cBundleFull : BitVec 8 := 0x23
def cFeTarget : BitVec 8 := 0x24
def cMixedSize : BitVec 8 := 0x25
def cTexDesc : BitVec 8 := 0x26
def cTileImage : BitVec 8 := 0x27
def cMigrateState : BitVec 8 := 0x28
def cReplyCount : BitVec 8 := 0x29
def cSendFull : BitVec 8 := 0x2A
def cLpartBusy : BitVec 8 := 0x2B
def cPromiseMissed : BitVec 8 := 0x30
def cProtViol : BitVec 8 := 0x40
def cPoisonless : BitVec 8 := 0x41

/-- Why an instruction is not performed: a trap or fault with its cause, `CAUSE.INFO` and `FADDR`; a freeze with
`CAUSE.INFO`[19:16] and the address; or a hold, which leaves the state given and lets the instruction issue again. In
`open_` no rule gives `CAUSE.INFO`, nor `FADDR` where that is `none`: they take free values (log entry 8). -/
inductive Stop where
  | trap (code : BitVec 8) (info : BitVec 16) (faddr : Word)
  | open_ (code : BitVec 8) (faddr : Option Word)
  | freeze (miss : BitVec 4) (faddr : Word)
  | hold (s : State)

/-- The master that a context is (R392). -/
def masterOf (c : CtxId) : Master := { unit := c.unit, side := c.side, slot := c.slot, kind := if c.keep then 1 else 0 }

/-- The firing identifier that a context's record carries (R390): 0 for contexts other than user contexts. -/
def Ctx.fid (x : Ctx) : Word := (x.firing.map (·.fid)).getD 0
/-- The `LAUNCHID` of a context's packet, or 0. -/
def Ctx.launchId (x : Ctx) : BitVec 32 := (x.firing.map (·.launchId)).getD 0

/-- Records that a die's fault buffer holds at most (R391). -/
def fbSize : Nat := 1024

/-- Offering a fault record to the buffer of a die (R388, R391): it waits at its master until it is accepted, at most one in
each cycle of the die. One that finds the buffer full sets `OVF` and raises event 0. -/
def State.offerRecord (s : State) (d : Nat) (r : FaultRec) : State :=
  let t := s.setDie d { s.die d with fbHeld := (s.die d).fbHeld ++ [r], fbNew := true }
  if (s.die d).fb.length < fbSize then t else (t.setDie d { t.die d with fbOvf := true, fbNew := false }).raiseMgmt 0

/-- The fault record of the executing context (R390). -/
def State.recordOf (s : State) (code : BitVec 8) (info : BitVec 16) (faddr : Word) : FaultRec :=
  { code := code, info := info, master := masterOf s.cur, faddr := faddr, fpc := s.me.pc, fid := s.me.fid,
    launchId := s.me.launchId, pdid := s.me.pdid, cycle := (s.die (dieOf s.cur)).dcyc }

/-- The state code that a fault leaves: a save in progress continues and keeps it (R77, R95). -/
def faultState (x : Ctx) (frozen : Bool) : CtxState :=
  if x.st = .saving then .saving else if frozen then .frozen else .faulted

/-- The executing context at a fault or freeze (R388): cause registers, `FPC` at the chain start, and its state; the
scoreboard is cleared (R98). -/
def Ctx.faulted (x : Ctx) (code : BitVec 8) (info : BitVec 16) (faddr : Word) (frozen : Bool) : Ctx :=
  { x with st := faultState x frozen, causeCode := code, causeInfo := info, faddr := faddr, fpc := x.pc, haz := [], wait := none,
           saving := x.saving.map (fun v => { v with before := .faulted }) }

/-- Taking a trap or fault, or a freeze, in the executing context (R388, R389, R237): the cause registers and state, the
offered record, management event 1 for a firmware context, and vector 0 of the domain for a freeze. -/
def State.takeFault (s : State) (code : BitVec 8) (info : BitVec 16) (faddr : Word) (frozen : Bool) : State :=
  let s1 := (s.withMe (s.me.faulted code info faddr frozen)).offerRecord (dieOf s.cur) (s.recordOf code info faddr)
  let s2 := if isFw s.cur then s1.raiseMgmt 1 else s1
  if frozen then s2.raiseVector s.me.pdid.toNat 0 else s2

/-- A record of a context has not been accepted by the buffer (R391). -/
def State.recordHeld (s : State) (c : CtxId) : Bool := (s.die (dieOf c)).fbHeld.any (fun r => r.master == masterOf c)

/-- A fault record of a context's engine stream (kind 2) or send stream (kind 3) has not been accepted by the buffer (R391). -/
def State.streamHeld (s : State) (c : CtxId) (kind : Nat) : Bool :=
  (s.die (dieOf c)).fbHeld.any (fun r => r.master == { masterOf c with kind := kind })

/-- The stop of the executing context taken. -/
def State.takeStop (s : State) (e : Stop) : State :=
  match e with
  | .trap code info faddr => s.takeFault code info faddr false
  | .open_ code fa => s.takeFault code ((Config.word s.free (16 * code.toNat + 5)).setWidth 16) (fa.getD (Config.word s.free (16 * code.toNat + 6))) false
  | .freeze miss faddr => s.takeFault cProtViol (miss.setWidth 16) faddr true
  | .hold t => { t with held := true }

/-- The stop is a hold, which offers no record. -/
def Stop.isHold (e : Stop) : Bool :=
  match e with
  | .hold _ => true
  | _ => false

/-- The state after an instruction that is not performed. A master holds at most one pending record (R391): DEDUCED, where firmware has
resumed a context whose record is still held, an instruction of it that would offer another is held until that one is accepted
(log entry 110). -/
def State.stop (s : State) (e : Stop) : State :=
  if !e.isHold && s.recordHeld s.cur then { s with held := true } else s.takeStop e

/-- The outcome of an instruction's meaning: the state it leaves, or the state before it with the stop taken. Every stop is
precise (R388). -/
def act (s : State) (r : Except Stop State) : Host.Outcome State Fault Refusal :=
  match r with
  | .ok t => .next t
  | .error e => .next (s.stop e)

/-- `CAUSE.INFO` of an illegal chain (R113): the reason, and page × 32 + major. -/
def illegalInfo (k : BitVec 4) (page major : Nat) : BitVec 16 :=
  BitVec.ofNat 16 (k.toNat + 16 * (page * 32 + major))

/-- The trap `ILLEGAL` for reason `k` at a form (R113). -/
def illegal {α : Type} (k : BitVec 4) (page major : Nat) : Except Stop α := .error (.trap cIllegal (illegalInfo k page major) 0)

/-- The stop of an access of a context that is not performed: a freeze, a fault of its kind's cause, or `PEER_LOST`. -/
def accStop (xl : BitVec 8) (e : AccErr) : Stop :=
  match e with
  | .right m a => .freeze m (BitVec.ofNat 64 a)
  | .xlate a => .trap xl 0 (BitVec.ofNat 64 a)
  | .lost a => .open_ cPeerLost (some (BitVec.ofNat 64 a))
  | .host a => .trap cDataXlate 0 (BitVec.ofNat 64 a)

/-- The stop with the address that its access was made at: `FADDR` holds all 64 bits of `EA` (R168); a freeze keeps the address
whose right was missing (R389). -/
def Stop.at_ (e : Stop) (ea : Word) : Stop :=
  match e with
  | .trap c i _ => .trap c i ea
  | .open_ c _ => .open_ c (some ea)
  | .freeze m a => .freeze m a
  | .hold s => .hold s

/-- A part of a meaning whose stops are recorded at address `ea`. -/
def atEa {α : Type} (ea : Word) (r : Except Stop α) : Except Stop α :=
  match r with
  | .ok a => .ok a
  | .error e => .error (e.at_ ea)

/-- An access's confirmation as part of a meaning. -/
def orStop {α : Type} (xl : BitVec 8) (r : Except AccErr α) : Except Stop α :=
  match r with
  | .ok a => .ok a
  | .error e => .error (accStop xl e)

/-! ## Completing an instruction -/

/-- The scoreboard after an instruction with stall count `n` (R96): D of each producer grows by 1 + s, and a producer whose D
has reached its latency is safe. -/
def ageHazards (l : List Hazard) (n : Nat) : List Hazard :=
  (l.map (fun h => { h with d := h.d + n })).filter (fun h => decide (h.d < h.lat))

/-- An address as a program counter holds it: bit 0 is always 0 (R80). -/
def evenVa (v : VAddr) : VAddr := v &&& 0xFFFFFFFFFFFFFE#56

/-- The executing context's program counter after its chain (R104). -/
def State.nextPc (s : State) : VAddr := s.me.pc + BitVec.ofNat 56 (2 * s.ilen)

/-- Address of the base word of the chain being executed (R116). -/
def State.basePc (s : State) : VAddr := s.me.pc + BitVec.ofNat 56 (2 * (s.ilen - 1))

/-- Completing an instruction whose successor is at `pc`, to be issued 1 + s cycles after it (R96). -/
def State.goto (s : State) (pc : VAddr) : State :=
  s.withMe { s.me with pc := pc, haz := ageHazards s.me.haz (1 + s.istall.toNat), stall := 1 + s.istall.toNat, missack := false }

/-- Completing an instruction: the next one follows it. -/
def State.finish (s : State) : State := s.goto s.nextPc

/-- A wait at whose end the instruction issues again, so that it is executed only then. -/
def Wait.issuesAgain (w : Wait) : Bool :=
  match w with
  | .reissue _ => true
  | .post _ _ _ _ => true
  | _ => false

/-- Parking the executing context on its instruction (R77): it counts as executed (R96) unless it is to issue again. -/
def State.park (s : State) (w : Wait) : State :=
  s.withMe { s.me with st := .wait, wait := some w,
                       haz := if w.issuesAgain then s.me.haz else ageHazards s.me.haz (1 + s.istall.toNat),
                       stall := if w.issuesAgain then 0 else 1 + s.istall.toNat }

end Sys2Proof.Machine
end

