-- ==== Sys2Proof/Machine/Operands.lean ====
section
/-! DEFINITION. Operands: `x` registers with the stall-count rule (spec/03_core.md R80, R81, R96 to R99), fat pointers
(spec/05_numbers.md R152, R153) and the address of a memory operand (spec/06_scalar.md R166). -/

namespace Sys2Proof.Machine

/-- Register `r` of a register file. -/
def xGet (x : Vector Word 32) (r : XReg) : Word := x[r.toNat]'(r.isLt)

/-- The register file with register `r` set; a write of `x0` is discarded (R81). -/
def xSet (x : Vector Word 32) (r : XReg) (v : Word) : Vector Word 32 :=
  if r = 0 then x else x.set r.toNat v (r.isLt)

/-- The unsafe producer of register `r`, if its last producer is not yet safe (R96). -/
def hazardOf (l : List Hazard) (r : XReg) : Option Hazard := l.find? (fun h => h.reg == r)

/-- The scoreboard without register `r`. -/
def hazardDel (l : List Hazard) (r : XReg) : List Hazard := l.filter (fun h => h.reg != r)

/-- The value of register `r` that an instruction of the context reads: `x0` reads 0; a register whose producer is not safe
reads either the value before the producer or the producer's result, a free choice (R96). -/
def State.rx (s : State) (r : XReg) : Word :=
  if r = 0 then 0
  else match hazardOf s.me.haz r with
    | some h => if Config.pick s.free (16 * r.toNat + 1) then h.old else xGet s.me.x r
    | none => xGet s.me.x r

/-- Writing register `r` with a result that is interlocked or of class `SIMPLE`, safe for the next instruction (R97). -/
def State.wx (s : State) (r : XReg) (v : Word) : State :=
  s.withMe { s.me with x := xSet s.me.x r v, haz := hazardDel s.me.haz r }

/-- Writing register `r` with a result of latency `lat` (R96, R97). -/
def State.wxLat (s : State) (r : XReg) (v : Word) (lat : Nat) : State :=
  if r = 0 then s
  else s.withMe { s.me with x := xSet s.me.x r v,
                            haz := hazardDel s.me.haz r ++ [{ reg := r, old := xGet s.me.x r, lat := lat, d := 0 }] }

/-- Latencies of the classes of R97. -/
def latBitop : Nat := 2
def latMullo : Nat := 3
def latMulhi : Nat := 4
def latSysrd : Nat := 2

/-- The pointer is an ordinary value (R152): format code 0 or 31. -/
def plainPtr (p : Word) : Bool := bitsOf p.toNat 59 5 == 0 || bitsOf p.toNat 59 5 == 31

/-- `FatAdd` (R153); `none` where it traps `PTR_OVF`. -/
def fatAdd (p : Word) (d : Int) : Option Word :=
  if plainPtr p then some (p + BitVec.ofInt 64 d)
  else
    let sum := ((p.toNat % 2 ^ 56 : Nat) : Int) + d
    if sum < 0 || (2 ^ 56 : Int) ≤ sum then none
    else some (BitVec.ofNat 64 (p.toNat / 2 ^ 56 * 2 ^ 56 + sum.toNat))

/-- `FatAdd` as part of a meaning: overflow traps `PTR_OVF` (R153). -/
def fatAddS (p : Word) (d : Int) : Except Stop Word :=
  match fatAdd p d with
  | some v => .ok v
  | none => .error (.trap cPtrOvf 0 0)

/-- The address `FatAdd`(x[a], imm) of a memory operand (R166), all 64 bits. -/
def State.ea (s : State) (a : XReg) (imm : Word) : Except Stop Word := fatAddS (s.rx a) imm.toInt

/-- The address that an access uses: bits [55:0] (R166). -/
def vaOf (ea : Word) : Nat := ea.toNat % 2 ^ 56

/-- The immediate in the operand latch, of a form whose only operand is an immediate. -/
def State.immOpd (s : State) : Word :=
  match s.opd with
  | .imm v => v
  | _ => 0

end Sys2Proof.Machine
end

