-- ==== Sys2Proof/Machine/Flags.lean ====
section
/-! DEFINITION. The sticky flags of `FLAGS` (spec/05_numbers.md R144 to R146). -/

namespace Sys2Proof.Machine

/-- The set of flags that an operation raises (R144). -/
structure Raised where
  nv : Bool
  dz : Bool
  of : Bool
  uf : Bool
  nx : Bool
  sat : Bool
  rnge : Bool
  deriving DecidableEq, Repr

/-- No flag. -/
def Raised.none : Raised := { nv := false, dz := false, of := false, uf := false, nx := false, sat := false, rnge := false }

/-- Both sets (`Raise`, R144). -/
def Raised.or (a b : Raised) : Raised :=
  { nv := a.nv || b.nv, dz := a.dz || b.dz, of := a.of || b.of, uf := a.uf || b.uf, nx := a.nx || b.nx, sat := a.sat || b.sat,
    rnge := a.rnge || b.rnge }

/-- A single flag each. -/
def fNV : Raised := { Raised.none with nv := true }
def fDZ : Raised := { Raised.none with dz := true }
def fSAT : Raised := { Raised.none with sat := true }
def fNX : Raised := { Raised.none with nx := true }
def fRNGE : Raised := { Raised.none with rnge := true }

/-- The set as bits [6:0] of `FLAGS` (R144). -/
def Raised.bits (f : Raised) : BitVec 8 :=
  (0 : BitVec 1) ++ (BitVec.ofBool f.rnge ++ (BitVec.ofBool f.sat ++ (BitVec.ofBool f.nx ++ (BitVec.ofBool f.uf ++
    (BitVec.ofBool f.of ++ (BitVec.ofBool f.dz ++ BitVec.ofBool f.nv))))))

/-- ORing an instruction's flags into the executing context's `FLAGS` (R146). -/
def State.raise (s : State) (f : Raised) : State := s.withMe { s.me with flags := s.me.flags ||| f.bits }

/-- `POISONLESS`, bit 7 of `FLAGS` (R102, R376). -/
def State.poisonless (s : State) : State := s.withMe { s.me with flags := s.me.flags ||| 0x80 }

end Sys2Proof.Machine
end

