-- ==== Sys2Proof/Machine/Lease.lean ====
section
/-! DEFINITION. Who holds which line: the in-die directories of the L2 and RDC slices (spec/00_scope.md R2, spec/09_memory.md R244 to
R250, spec/14_coherence.md R367 to R369), and the switch directory with its leases (R370 to R375, R379). The stores hold the newest
value of every byte; a lease keeps, of the bytes written under it, the values last written back. -/

namespace Sys2Proof.Machine

/-! ## Clocks (R10, R373, R409) -/

/-- Arithmetic clock of a power state in tenths of a GHz (R409). -/
def clockOf (power : Nat) : Nat :=
  match power with
  | 0 => 27
  | 1 => 22
  | 2 => 16
  | 3 => 10
  | _ => 0

/-- Clock of the switch dies in tenths of a GHz (R373). -/
def switchClock : Nat := 20

/-- What a clock of `f` is behind after one more step of 1 / 2.7 GHz. -/
def phaseAfter (phase f : Nat) : Nat := if 27 ≤ phase + f then phase + f - 27 else phase + f

/-- A die's clock has a cycle in this step: what it is behind has just been made up (R10, R409). -/
def State.clocked (s : State) (d : Nat) : Bool := decide ((s.die d).phase < clockOf (s.die d).power)

/-- A switch die's clock has a cycle in this step. -/
def SwitchDie.clocked (x : SwitchDie) : Bool := !x.lost && decide (x.phase < switchClock)

/-- Switch cycles of the package's queue engine and intervals (R60, R377). -/
def State.sdcyc (s : State) : Nat := s.mainSd.cyc

/-! ## The lines that a die holds (R2, R368, R369) -/

/-- The 128-byte lines that an RDC holds, and the near-home lines that an L2 does (R5, R249): of its 32 MiB, 4 MiB each are the
shares of pinned storage and of texture groups, for which no near-home line gives way (DEDUCED, log entry 120). -/
def rdcLines : Nat := 16 * 2 ^ 20 / 128
def l2Lines : Nat := (32 - 4 - 4) * 2 ^ 20 / 128

/-- The in-die holders of a line. -/
def State.lineHolders (s : State) (die line : Nat) : Holders := ((s.lineAt die line).map (·.holders)).getD []

/-- The line that a full slice gives up to take in another, which one is free (log entry 3). -/
def givenUp (m : SMap CacheLine) (cap free line : Nat) : Option Nat :=
  if m.any (fun e => e.1 == line) || decide (m.length < cap) then none
  else (m[(Config.word free 23).toNat % m.length]?).map (·.1)

/-- A slice with a line set in it. -/
def putLine (m : SMap CacheLine) (cap free line : Nat) (c : CacheLine) : SMap CacheLine :=
  match givenUp m cap free line with
  | some v => (m.del v).set line c
  | none => m.set line c

/-- An address lies, by its place in its 64 KiB page, in a region: translation changes no place in a page. -/
def inRegion (line lg a : Nat) : Bool := decide (line % 512 ≤ a / 128 % 512) && decide (a / 128 % 512 < line % 512 + 2 ^ lg)

/-- The number of a compute die of this package as a switch agent (R367). -/
def State.agentOf (s : State) (die : Nat) : Nat := 8 * s.pkg.toNat + die

/-- A line written back by a die: its lease holds none of its bytes dirty any more. -/
def State.wroteBack (s : State) (die : Nat) (line : Option Nat) : State :=
  match line with
  | none => s
  | some k =>
    { s with leases := s.leases.map (fun h =>
        if h.agent == s.agentOf die && decide (h.line ≤ k) && decide (k < h.line + 2 ^ h.lg) then
          { h with dirty := h.dirty.filter (fun d => !inRegion k 0 d.1.a) }
        else h) }

/-- A die with a line in its slice: what a full slice gives up has been written back. -/
def State.setLine (s : State) (die line : Nat) (c : CacheLine) : State :=
  let x := s.die die
  if s.near die line then
    (s.setDie die { x with l2 := putLine x.l2 l2Lines s.free line c }).wroteBack die (givenUp x.l2 l2Lines s.free line)
  else (s.setDie die { x with rdc := putLine x.rdc rdcLines s.free line c }).wroteBack die (givenUp x.rdc rdcLines s.free line)

/-- A die with the holders of a line of its slice replaced. -/
def State.setHolders (s : State) (die line : Nat) (h : Holders) : State :=
  match s.lineAt die line with
  | some c => s.setLine die line { c with holders := h }
  | none => s

/-- The in-die holders of the lines that `p` names, changed by `f`. -/
def Die.mapLines (x : Die) (p : Nat → Bool) (f : Holders → Holders) : Die :=
  let g (m : SMap CacheLine) : SMap CacheLine := m.map (fun e => if p e.1 then (e.1, { e.2 with holders := f e.2.holders }) else e)
  { x with l2 := g x.l2, rdc := g x.rdc }

/-- A die without the lines that `p` names. -/
def Die.dropLines (x : Die) (p : Nat → Bool) : Die :=
  { x with l2 := x.l2.filter (fun e => !p e.1), rdc := x.rdc.filter (fun e => !p e.1) }

/-- The lines that a die holds. -/
def Die.lines (x : Die) : SMap CacheLine := x.l2 ++ x.rdc

/-- A line after a load at an agent (R369); `x` says that the die may grant `E`. DEDUCED: another agent's load leaves an `E` holder
`S`, as it is no longer the only copy (log entry 118). -/
def loadLine (l : Holders) (a : InAgent) (x : Bool) : Holders :=
  if l.any (fun h => h.1 == a) then l
  else if l.isEmpty then [(a, if x then .e else .s)]
  else l.map (fun (b, t) => (b, match t with
    | .m => LineState.o
    | .o => .o
    | .e => .s
    | .s => .s)) ++ [(a, .s)]

/-- A line after an engine's read (R369). -/
def engineReadLine (l : Holders) : Holders := l.map (fun (b, t) => if t == .m then (b, .o) else (b, t))

/-- A line after a recall for reading (R369). -/
def sharedLine (l : Holders) : Holders := l.map (fun (b, _) => (b, .s))

/-- A line after a checkpoint has had it written back: its holders keep it clean (R377). -/
def cleanLine (l : Holders) : Holders := l.map (fun (b, t) => (b, match t with
  | .m => LineState.e
  | .o => .s
  | .e => .e
  | .s => .s))

/-- The core is a member of its pod's victim pool (R248). -/
def State.pooled (s : State) (core : Nat) : Bool := (s.pod (core / 8)).poolgrp.getLsbD (core % 8)

/-- The agent is the victim pool of a pod. -/
def InAgent.poolOf (a : InAgent) (p : Nat) : Bool :=
  match a with
  | .pool q _ => q == p
  | _ => false

/-- The line lies in the cache part of a core, as its own or as one of its pod's pool (R248). -/
def InAgent.inPart (a : InAgent) (k : Nat) : Bool :=
  match a with
  | .core j => j == k
  | .pool _ j => j == k
  | _ => false

/-- A member core's miss takes the line from the pool, in the state in which it lies there (R248). -/
def State.fromPool (s : State) (l : Holders) (a : InAgent) : Holders :=
  match a with
  | .core k =>
    if s.pooled k && !l.any (fun h => h.1 == a) then l.map (fun h => if h.1.poolOf (k / 8) then (a, h.2) else h) else l
  | _ => l

/-- Lines of a die with a holder that `p` names. -/
def Die.linesOf (x : Die) (p : InAgent → Bool) : List Nat := (x.lines.filter (fun e => e.2.holders.any (fun h => p h.1))).map (·.1)

/-- Lines that the cache part of a core has room for (R245). -/
def State.partCap (s : State) (k : Nat) : Nat := 512 * (s.core k).lsplit.toNat

/-- The member of a pod's victim pool in whose cache part an evicted line is placed: which one is free (R248, log entry 3). -/
def State.poolMember (s : State) (p line : Nat) : Nat :=
  let l := (List.range 8).filter (fun k => (s.pod p).poolgrp.getLsbD k)
  8 * p + l.getD ((Config.word s.free (26 + 64 * line)).toNat % max 1 l.length) 0

/-- A line of the pool leaves the cache part of a core for its slice. -/
def State.leavePool (s : State) (die line k : Nat) : State :=
  s.setHolders die line ((s.lineHolders die line).filter (fun h => !(h.1.poolOf (k / 8) && h.1.inPart k)))

/-- The cache part of a core made to fit again after a line of the pool was placed in it: a line of the pool in it leaves it, which one
is free. DESIGN CHOICE: a line that it has come to hold of the pool's alone is that line (log entry 121). -/
def State.fitPart (s : State) (die k : Nat) : State :=
  if ((s.die die).linesOf (·.inPart k)).length ≤ s.partCap k then s
  else
    let l := (s.die die).linesOf (fun a => a.poolOf (k / 8) && a.inPart k)
    match l[(Config.word s.free 27).toNat % l.length]? with
    | some v => s.leavePool die v k
    | none => s

/-- A core's line evicted (R369, R248): it goes to the pool of a member core, in the state that it has, and to the slice otherwise. DEDUCED: a
line of an `OWNER` segment is cached nowhere but at its owner and in the slice (R252, R255), and goes to no pool (log entry 121). -/
def State.evict (s : State) (die line k : Nat) : State :=
  let l := s.lineHolders die line
  let rest := l.filter (fun h => h.1 != .core k)
  match l.find? (fun h => h.1 == .core k) with
  | some h =>
    if s.pooled k && s.attr (line * 128) != 2 && !rest.any (fun g => g.1.poolOf (k / 8)) then
      let j := s.poolMember (k / 8) line
      (s.setHolders die line (rest ++ [(.pool (k / 8) j, h.2)])).fitPart die j
    else s.setHolders die line rest
  | none => s

/-- Texels that the cache part of a core has room for beside its lines, at four bytes each (R245, R259). -/
def State.texRoom (s : State) (die k : Nat) : Nat := 32 * (s.partCap k - ((s.die die).linesOf (·.inPart k)).length)

/-- The texels in a core's cache part that find room beside its lines. DESIGN CHOICE: the oldest ones give way (log entry 135). -/
def State.fitTexels (s : State) (die k : Nat) : State :=
  let x := s.die die
  if x.texels.isEmpty then s
  else s.setDie die { x with texels := (x.texels.filter (fun e => e.core == k)).take (s.texRoom die k) ++ x.texels.filter (fun e => e.core != k) }

/-- The lines in a core's cache part made to be no more than it holds (R245, R247, R248): another than `line` goes, which one is free (log
entry 3). -/
def State.fitLines (s : State) (die line k : Nat) : State :=
  let l := ((s.die die).linesOf (·.inPart k)).filter (· != line)
  if l.length < s.partCap k then s
  else match l[(Config.word s.free 24).toNat % l.length]? with
    | some v => if (s.lineHolders die v).any (fun h => h.1 == .core k) then s.evict die v k else s.leavePool die v k
    | none => s

/-- A core's cache part holds what its share of the SRAM can, after a line was placed in it. -/
def State.fitCache (s : State) (die line : Nat) (a : InAgent) : State :=
  match a with
  | .core k => (s.fitLines die line k).fitTexels die k
  | _ => s

/-- The agent keeps no line: a core whose share of the SRAM is all scratch (R245). -/
def State.noCache (s : State) (a : InAgent) : Bool :=
  match a with
  | .core k => s.partCap k == 0
  | _ => false

/-- A load of a line at a location by an in-die agent, under a lease of the die that is a write lease where `x` (R369). -/
def State.loadedLine (s : State) (die line : Nat) (l : Loc) (a : InAgent) (x : Bool) : State :=
  let h := s.lineHolders die line
  if s.noCache a then s.setLine die line ⟨l, engineReadLine h⟩
  else (s.setLine die line ⟨l, loadLine (s.fromPool h a) a x⟩).fitCache die line a

/-- A store to a line at a location by an in-die agent: every other copy in the die is invalidated and has acknowledged (R369). -/
def State.storedLine (s : State) (die line : Nat) (l : Loc) (a : InAgent) : State :=
  if s.noCache a then s.setLine die line ⟨l, []⟩ else (s.setLine die line ⟨l, [(a, .m)]⟩).fitCache die line a

/-! ## Regions (R370) -/

/-- The directory entry covers a line. -/
def DirEntry.covers (e : DirEntry) (line : Nat) : Bool := decide (e.line ≤ line) && decide (line < e.line + 2 ^ e.lg)

/-- The lease covers a line. -/
def HolderLease.covers (h : HolderLease) (line : Nat) : Bool := decide (h.line ≤ line) && decide (line < h.line + 2 ^ h.lg)

/-- The entry of a line. -/
def State.entry (s : State) (line : Nat) : Option DirEntry := s.dir.find? (fun e => e.covers line)

/-- The directory entry of an address's region, if one is listed. -/
def State.dirAt (s : State) (va : Nat) : Option DirEntry := s.entry (va / 128)

/-- The switch die that tracks a line by its address (R233). -/
def trackBit (line : Nat) : Bool := line * 128 / 2 ^ 18 % 2 == 1

/-- The line is homed in the host's memory (R383). -/
def State.hostLine (s : State) (line : Nat) : Bool :=
  match s.region (line * 128) with
  | .host _ => true
  | _ => false

/-- The switch die that serves a line now: the other one where it is lost (R380); the host's lines are `SD0`'s (R384). -/
def State.tracker (s : State) (line : Nat) : Bool :=
  if s.hostLine line then false
  else if (s.sd (trackBit line)).lost then !trackBit line else trackBit line

/-- The switch cycles of the die that serves a line. -/
def State.cycOf (s : State) (line : Nat) : Nat := (s.sd (s.tracker line)).cyc

/-- The package of a line's address. -/
def linePkg (line : Nat) : Nat := line * 128 / 2 ^ 48 % 256

/-- The line is tracked by this package's switch dies: it is homed here (R367), or it is host-homed under CXL.cache (R384). -/
def State.tracked (s : State) (line : Nat) : Bool :=
  match s.region (line * 128) with
  | .home _ => true
  | .host _ => s.link.cxl
  | _ => false

/-- The address lies in a flagged region (R376); no flag applies to the host's memory without CXL (R384). -/
def State.flagged (s : State) (va : Nat) : Bool :=
  match s.dirAt va with
  | some e => e.flag != .none && s.tracked (va / 128)
  | none => false

/-- `HolderCycles` of a die for a line (R373). -/
def State.holderCycles (s : State) (die line : Nat) : Nat :=
  let x := s.sd (s.tracker line)
  x.lns.toNat * (1024 - x.eps.toNat) * clockOf (s.die die).power / 10240

/-- `SwitchCycles` for a line (R373), at 2.0 GHz. -/
def State.switchCycles (s : State) (line : Nat) : Nat :=
  let x := s.sd (s.tracker line)
  (x.lns.toNat * (1024 + x.eps.toNat) * switchClock + 10239) / 10240

/-- Two regions overlap. -/
def overlap (a lga b lgb : Nat) : Bool := decide (a < b + 2 ^ lgb) && decide (b < a + 2 ^ lga)

/-- The region of `2^lg` lines around a line. -/
def regionBase (line lg : Nat) : Nat := line / 2 ^ lg * 2 ^ lg

/-- The size of a new entry for a line: the largest, up to 64 KiB, that meets no other entry. -/
def State.freshLg (s : State) (line : Nat) : Nat :=
  ((List.range 10).reverse.find? (fun lg => s.dir.all (fun e => !overlap (regionBase line lg) lg e.line e.lg))).getD 0

/-- A new entry for a line: its region is `U`. -/
def State.freshEntry (s : State) (line : Nat) : DirEntry :=
  let lg := s.freshLg line
  { line := regionBase line lg, lg := lg, st := .u, sharers := [], coarse := none, ends := [], cend := 0, flag := .none, flagEnd := 0,
    quiet := s.cycOf line }

/-- The directory with an entry replaced where it stands. -/
def State.putDir (s : State) (e : DirEntry) : State := { s with dir := s.dir.map (fun x => if x.line == e.line then e else x) }

/-- The directory with an entry set as the one used last, which stands last (R379). -/
def State.setEntry (s : State) (e : DirEntry) : State := { s with dir := s.dir.filter (fun x => x.line != e.line) ++ [e] }

/-! ## Holders -/

/-- The agent is a compute die of this package. -/
def State.localAgent (s : State) (agent : Nat) : Bool := agent / 8 == s.pkg.toNat

/-- The home itself, or the host, as it takes a line from every die: no compute die has its number. -/
def homeAgent : Nat := 2048

/-- Bit of the coarse vector that stands for an agent (R370). -/
def coarseBit (agent : Nat) : BitVec 64 := BitVec.ofNat 64 (2 ^ (agent / 32))

/-- An entry with an agent as a sharer until a deadline: a fifth sharer makes it coarse (R379). -/
def DirEntry.join (e : DirEntry) (agent deadline interval : Nat) : DirEntry :=
  let l := if e.sharers.contains agent then e.sharers else e.sharers ++ [agent]
  match e.coarse with
  | some v => { e with coarse := some (v ||| coarseBit agent), cend := max e.cend deadline, sharers := l }
  | none =>
    let ends := ⟨agent, deadline, interval⟩ :: e.ends.filter (fun p => p.agent != agent)
    if l.length ≤ 4 then { e with sharers := l, ends := ends }
    else { e with coarse := some (l.foldl (fun v a => v ||| coarseBit a) 0), sharers := l, ends := [],
                  cend := ends.foldl (fun m p => max m p.at_) 0 }

/-- An entry that no agent holds. -/
def DirEntry.free (e : DirEntry) : DirEntry := { e with st := .u, sharers := [], coarse := none, ends := [], cend := 0 }

/-- An entry that an agent no longer holds; without a sharer it is `U` again, with exact pointers (R379). -/
def DirEntry.leave (e : DirEntry) (agent : Nat) : DirEntry :=
  let l := e.sharers.filter (· != agent)
  if l.isEmpty then e.free else { e with sharers := l, ends := e.ends.filter (fun p => p.agent != agent) }

/-- An entry whose sole holder keeps it for reading. -/
def DirEntry.downgrade (e : DirEntry) : DirEntry := if e.st == .x then { e with st := .s } else e

/-- The deadline of an agent in an entry. -/
def DirEntry.endOf (e : DirEntry) (agent : Nat) : Option Nat :=
  if e.coarse.isSome then some e.cend else (e.ends.find? (fun p => p.agent == agent)).map (·.at_)

/-- The lease of an agent over a line. -/
def State.leaseOf (s : State) (agent line : Nat) : Option HolderLease :=
  s.leases.find? (fun h => h.agent == agent && h.covers line)

/-- A line number lies in the region of a lease. -/
def HolderLease.lines (h : HolderLease) (k : Nat) : Bool := h.covers k

/-- What a die of this package holds of some lines changed. -/
def State.agentLines (s : State) (agent : Nat) (p : Nat → Bool) (f : Holders → Holders) : State :=
  if s.localAgent agent then s.setDie (agent % 8) ((s.die (agent % 8)).mapLines p f) else s

/-- A die of this package without some lines. -/
def State.agentDrop (s : State) (agent : Nat) (p : Nat → Bool) : State :=
  if s.localAgent agent then s.setDie (agent % 8) ((s.die (agent % 8)).dropLines p) else s

/-- A die of this package without the texture groups formed from some lines, which it may no longer read (R259). -/
def State.agentTex (s : State) (agent : Nat) (p : Nat → Bool) : State :=
  if s.localAgent agent then s.setDie (agent % 8) ((s.die (agent % 8)).dropTex (fun e => p e.1)) else s

/-- The state without an agent's lease over a line, and without the copies that its die held under it: what was dirty has been
written back. -/
def State.dropLease (s : State) (agent line : Nat) : State :=
  match s.leaseOf agent line with
  | none => s
  | some h =>
    let u := s.agentDrop agent h.covers
    let t := u.agentTex agent h.covers
    { t with leases := t.leases.filter (fun h => h.agent != agent || !h.covers line) }

/-- An agent's lease over a line kept for reading only, its dirty lines written back (R369, R375). -/
def State.shareLease (s : State) (agent line : Nat) : State :=
  match s.leaseOf agent line with
  | none => s
  | some h =>
    let t := s.agentLines agent h.covers sharedLine
    { t with leases := t.leases.map (fun h => if h.agent == agent && h.covers line then { h with own := false, dirty := [], mute := false } else h) }

/-- The bytes that a lease holds dirty put back to the values last written back (R375); a byte of the host's memory to the host's
own (R384). -/
def State.revert (s : State) (h : HolderLease) : State :=
  h.dirty.foldl (fun t d => t.putBytes d.1 [d.2]) s

/-- A lease granted to a die of this package, with what is left of the count that it began with its request (R373). -/
def State.grantLease (s : State) (agent line lg : Nat) (own : Bool) (left : Nat) : State :=
  if s.localAgent agent then
    let old := s.leases.find? (fun h => h.agent == agent && h.line == line)
    let h : HolderLease :=
      { agent := agent, line := line, lg := lg, own := own || (old.map (·.own)).getD false, left := left,
        total := s.holderCycles (agent % 8) line, usedAt := left, dirty := (old.map (·.dirty)).getD [], mute := false }
    { s with leases := s.leases.filter (fun x => x.agent != agent || x.line != line) ++ [h] }
  else s

/-! ## Recalls (R375, R369) -/

/-- A die of this package does not answer a recall: the rules give what follows, and not when it happens (log entry 101). A holder that has
left one unanswered has stopped answering until its lease is gone. -/
def State.silent (s : State) (agent line : Nat) : Bool :=
  (s.leaseOf agent line).any (fun h => h.mute || Config.pick s.free (16 * (4096 * line + agent) + 7))

/-- A holder of this package has left a recall unanswered: it renews and releases its lease no more. -/
def State.muteLease (s : State) (agent line : Nat) : State :=
  { s with leases := s.leases.map (fun h => if h.agent == agent && h.covers line then { h with mute := true } else h) }

/-- A holder answers a recall (R375): dirty data is written back, and the region is released, or kept for reading. -/
def State.giveUp (s : State) (agent line : Nat) (own : Bool) : State :=
  match s.entry line with
  | none => s.dropLease agent line
  | some e => if own then (s.dropLease agent line).putDir (e.leave agent) else (s.shareLease agent line).putDir e.downgrade

/-- Every other holder of a region is recalled (R375): a die of this package answers at once unless it is silent, and one that holds
nothing any more acknowledges (R379); the answer of another package's die comes as `RECALL_ACKNOWLEDGE`. -/
def State.recall (s : State) (e : DirEntry) (agent : Nat) (own : Bool) : State :=
  e.sharers.foldl (fun t a =>
    if a == agent || !t.localAgent a then t
    else if t.silent a e.line then t.muteLease a e.line
    else t.giveUp a e.line own) s

/-! ## Splitting (R371) -/

/-- What others hold of a region stands against a request for it. -/
def DirEntry.clashes (e : DirEntry) (agent : Nat) (own : Bool) : Bool :=
  let others := e.sharers.any (· != agent)
  match e.st with
  | .u => false
  | .s => own && others
  | .x => others

/-- Another die's copy of a line stands against a request: any copy against a write; against a read one that is not shared, or that the slice
alone holds dirty. -/
def conflictLine (own dirty : Bool) (l : Holders) : Bool := own || (l.isEmpty && dirty) || l.any (fun h => h.2 != .s)

/-- A die of this package holds bytes of a line dirty. -/
def State.dirtyLine (s : State) (agent line : Nat) : Bool :=
  (s.leaseOf agent line).any (fun h => h.dirty.any (fun d => inRegion line 0 d.1.a))

/-- A part of a region holds a line, other than the requested one, that another agent holds in a way that conflicts (R371). What a
die of another package holds is not known here: it counts as holding every line. -/
def State.hot (s : State) (e : DirEntry) (line agent : Nat) (own : Bool) (base lg : Nat) : Bool :=
  e.sharers.any (fun a => a != agent && (if s.localAgent a then
    (s.die (a % 8)).lines.any (fun (k, c) => k != line && decide (base ≤ k) && decide (k < base + 2 ^ lg) &&
      conflictLine own (s.dirtyLine a k) c.holders)
   else decide (0 < lg)))

/-- The pieces of a region that is halved until the line stands apart from conflicting lines (R371): each is a copy of the parent. -/
def DirEntry.split (e : DirEntry) (hot : Nat → Nat → Bool) (line lg : Nat) : List DirEntry :=
  match lg with
  | 0 => [{ e with lg := 0 }]
  | k + 1 =>
    if !hot e.line (k + 1) then [{ e with lg := k + 1 }]
    else
      let lo := { e with lg := k }
      let hi := { e with lg := k, line := e.line + 2 ^ k }
      if line < e.line + 2 ^ k then DirEntry.split lo hot line k ++ [hi] else lo :: DirEntry.split hi hot line k

/-- A holder's lease over part of its region. -/
def HolderLease.part (h : HolderLease) (p : DirEntry) : HolderLease :=
  { h with line := p.line, lg := p.lg, dirty := h.dirty.filter (fun d => inRegion p.line p.lg d.1.a) }

/-- Entries that a switch die holds. -/
def State.entriesOf (s : State) (sd : Bool) : List DirEntry := s.dir.filter (fun e => s.tracker e.line == sd)

/-- Entries that a switch die has room for (R379). -/
def dirCap : Nat := 2 ^ 20

/-- Room for one more entry of a switch die (R379): a full directory evicts its least recently used entry that is not flagged, but not the
one of `line`, once its holders have been recalled. Answers whether there is room now. -/
def State.makeRoom (s : State) (sd : Bool) (line extra : Nat) : State × Bool :=
  let l := s.entriesOf sd
  if l.length + extra < dirCap then (s, true)
  else match l.find? (fun e => e.flag == .none && !e.covers line) with
    | none => (s, false)
    | some e =>
      let t := s.recall e homeAgent true
      if (t.entry e.line).all (fun x => x.st == .u) then ({ t with dir := t.dir.filter (fun x => x.line != e.line) }, true) else (t, false)

/-- Room for `n` more entries (R379): one entry is evicted for each that finds none. -/
def State.makeRooms (s : State) (sd : Bool) (line n : Nat) : State × Bool :=
  match n with
  | 0 => (s, true)
  | k + 1 =>
    let o := s.makeRoom sd line k
    if o.2 then o.1.makeRooms sd line k else o

/-- The directory with the region of a line split for a request (R371), where it has room for the pieces (R379). Answers whether it
has. -/
def State.splitAt (s : State) (line agent : Nat) (own : Bool) : State × Bool :=
  match s.entry line with
  | none => (s, true)
  | some e =>
    let l := e.split (s.hot e line agent own) line e.lg
    let o := s.makeRooms (s.tracker line) line (l.length - 1)
    if !o.2 then o
    else
      ({ o.1 with dir := o.1.dir.flatMap (fun x => if x.line == e.line then l else [x]),
                  leases := o.1.leases.flatMap (fun h => if h.covers line then l.map h.part else [h]) }, true)

/-! ## Requests (R370, R375, R379) -/

/-- A request granted against its entry in one step (R370): a read into `S`, or into `X` where it asks to own a region that is `U`;
a write into `X`, with exact pointers again (R379). -/
def State.grant (s : State) (e : DirEntry) (r : CohReq) : State :=
  let st : DirState := if r.want == .write || e.st == .x || (r.want == .readOwn && e.st == .u) then .x else .s
  let e1 : DirEntry := { e with st := st, quiet := s.cycOf r.line, coarse := if st == .x then none else e.coarse }
  let e2 := e1.join r.agent (s.cycOf r.line + s.switchCycles r.line) (s.sd (s.tracker r.line)).cur.toNat
  (s.setEntry e2).grantLease r.agent e.line e.lg (st == .x) r.left

/-- A request waits. -/
def State.waitReq (s : State) (r : CohReq) : State := { s with cohWait := s.cohWait ++ [r] }

/-- An `SDROLL` command works on the region of a line: requests to it wait (R378). -/
def State.rolling (s : State) (line : Nat) : Bool :=
  [false, true].any (fun d => (s.sd d).busy && (match s.entry (s.sd d).rollAt with
    | some e => e.covers line
    | none => (s.sd d).rollAt == line))

/-- A request served against the directory (R370): granted, or recalling the holders that stand against it and waiting. -/
def State.serveReq (s : State) (r : CohReq) : State :=
  let own := r.want == .write
  if s.rolling r.line then s.waitReq r
  else match s.entry r.line with
    | none =>
      let o := s.makeRoom (s.tracker r.line) r.line 0
      if o.2 then o.1.grant (o.1.freshEntry r.line) r else o.1.waitReq r
    | some e =>
      if !e.clashes r.agent own then s.grant e r
      else
        let o := s.splitAt r.line r.agent own
        if !o.2 then o.1.waitReq r
        else
          let e1 := (o.1.entry r.line).getD e
          let u := (o.1.putDir { e1 with quiet := s.cycOf r.line }).recall e1 r.agent own
          match u.entry r.line with
          | some e2 => if e2.clashes r.agent own then u.waitReq r else u.grant e2 r
          | none => u.waitReq r

/-- An older request waits for the region of a line. -/
def State.behind (s : State) (line : Nat) : Bool :=
  s.cohWait.any (fun q => match s.entry line with
    | some e => e.covers q.line
    | none => q.line == line)

/-- The waiting requests that can be granted now, oldest first; none passes an older one for its region (R370). -/
def State.serveWaiting (s : State) : State :=
  s.cohWait.foldl (fun t r => if t.behind r.line then t.waitReq r else t.serveReq r) { s with cohWait := [] }

/-- A request of a compute die of any package (R370); a die's request for a line of another package is granted by that package's
switch dies (log entry 4). A request that waits already is not made again. -/
def State.cohRequest (s : State) (agent line : Nat) (want : Want) : State :=
  let r : CohReq := { agent := agent, line := line, want := want, left := s.holderCycles (agent % 8) line }
  if s.tracked line then
    (if s.cohWait.any (fun q => q.agent == agent && q.line == line && q.want == want) then s
     else if s.behind line then s.waitReq r
     else s.serveReq r)
  else if s.localAgent agent && s.peers.contains (BitVec.ofNat 8 (linePkg line)) then s.grantLease agent line 0 (want == .write) r.left
  else s

/-- Every copy of a line taken back to its home (R354, R234, R385): for writing there, or to be read. Answers whether it is done: a
silent holder, or one of another package, is waited for. -/
def State.takeHome (s : State) (line : Nat) (own : Bool) : State × Bool :=
  match s.entry line with
  | none => ((List.range 8).foldl (fun t d => if own then t.dropLease (t.agentOf d) line else t.shareLease (t.agentOf d) line) s, true)
  | some e =>
    if e.st == .u || (!own && e.st == .s) then (s, true)
    else
      let o := s.splitAt line homeAgent own
      if !o.2 then o
      else
        let u := o.1.recall ((o.1.entry line).getD e) homeAgent own
        (u, (u.entry line).all (fun x => x.st == .u || (!own && x.st == .s)))

/-! ## Accesses (R369, R384, R385) -/

/-- `SD0` obtains a copy of a line of the host's memory, shared or owned, where it has none that suffices (R384). -/
def State.acquireHost (s : State) (line : Nat) (own : Bool) : State :=
  if !s.hostLine line || s.hostCopies.any (fun c => c.1 == line && (c.2 || !own)) then s
  else { s with hostCopies := s.hostCopies.filter (fun c => c.1 != line) ++ [(line, own)],
                hostOut := s.hostOut ++ [.acquire (BitVec.ofNat 56 (line * 128)) own] }

/-- A die's lease over a line suffices. -/
def State.leased (s : State) (die line : Nat) (own : Bool) : Bool :=
  match s.leaseOf (s.agentOf die) line with
  | some h => decide (0 < h.left) && (h.own || !own)
  | none => false

/-- A die's lease over a line used (R374). -/
def State.useLease (s : State) (die line : Nat) : State :=
  { s with leases := s.leases.map (fun h => if h.agent == s.agentOf die && h.covers line then { h with usedAt := h.left } else h) }

/-- A die obtains the permission that an access to a line needs (R369, R370): the state, and whether it has it now. DEDUCED: it asks to
own a line that it reads and no in-die agent holds, since it is to grant `E` (log entry 103). -/
def State.obtain (s : State) (die line : Nat) (own : Bool) : State × Bool :=
  if s.leased die line own then ((s.useLease die line).acquireHost line own, true)
  else
    let want : Want := if own then .write else if (s.lineHolders die line).isEmpty then .readOwn else .read
    let t := (s.cohRequest (s.agentOf die) line want).acquireHost line own
    (t, t.leased die line own)

/-- The core that owns an address of an `OWNER` segment (R255). -/
def ownerCore (va : Nat) : Nat := va % 2 ^ 48 / 2 ^ 12 % 768

/-- The in-die agent that an access of a context goes through. -/
def agentIn (c : CtxId) : InAgent := if c.keep then .keep c.unit else .core c.unit

/-- Where the line of an access to a location is cached (R244, R246, R252, R255, R384): the die and its agent. -/
def State.cacheOf (s : State) (die : Nat) (a : InAgent) (va : Nat) (l : Loc) : Option (Nat × InAgent) :=
  let cached : Bool :=
    match l.sp with
    | .dram => true
    | .peer => (match s.region va with
      | .foreign _ => true
      | _ => false)
    | .host => s.link.cxl
    | .scratch => false
    | .staging => false
  if !cached || s.attr va == 1 then none
  else if s.attr va == 2 then
    (if va / 2 ^ 48 % 256 == s.pkg.toNat then some (ownerCore va / 96, .core (ownerCore va)) else none)
  else some (die, a)

/-- An access to a line by an in-die agent made ready: the die holds the lease that it needs, the line is in the state that R369 gives,
and no host copy stands against a write. In error, the state in which it waits. -/
def State.claimFor (s : State) (die : Nat) (a : InAgent) (own : Bool) (va : Nat) (l : Loc) : Except State State :=
  let ready (t : State) : Except State State :=
    match (if own then t.hostWait l else none) with
    | some u => .error u
    | none => .ok t
  match s.cacheOf die a va l with
  | none => ready s
  | some (d, b) =>
    let o := s.obtain d (va / 128) own
    if !o.2 then .error o.1
    else
      match ready o.1 with
      | .error u => .error u
      | .ok t =>
        let m : Loc := { l with a := l.a - va % 128 }
        .ok (if own then t.storedLine d (va / 128) m b else t.loadedLine d (va / 128) m b (t.leased d (va / 128) true))

/-- A line of an engine's access made ready (R263, R369): a read has the line recalled, and leaves a modified copy `O`; a write leaves
no copy in the die. -/
def State.claimEngine (s : State) (die : Nat) (own : Bool) (va : Nat) (l : Loc) : Except State State :=
  match s.cacheOf die (.core 0) va l with
  | none =>
    (match (if own then s.hostWait l else none) with
     | some u => .error u
     | none => .ok s)
  | some (d, _) =>
    let o := s.obtain d (va / 128) own
    if !o.2 then .error o.1
    else match (if own then o.1.hostWait l else none) with
      | some u => .error u
      | none =>
        let h := o.1.lineHolders d (va / 128)
        .ok (o.1.setHolders d (va / 128) (if own then [] else engineReadLine h))

/-- A line of an access at its home made ready (R354): every cached copy is taken back, and no host copy stands against a write. -/
def State.claimHome (s : State) (own : Bool) (va : Nat) (l : Loc) : Except State State :=
  match l.sp with
  | .scratch => .ok s
  | .staging => .ok s
  | _ =>
    let o := s.takeHome (va / 128) own
    if !o.2 then .error o.1
    else match (if own then o.1.hostWait l else none) with
      | some u => .error u
      | none => .ok o.1

/-- An access of the executing context made ready, or held from issue until it can be. -/
def State.claim (s : State) (own : Bool) (va : Nat) (l : Loc) : Except Stop State :=
  match s.claimFor (dieOf s.cur) (agentIn s.cur) own va l with
  | .ok t => .ok t
  | .error t => .error (.hold t)

/-! ## Stores -/

/-- A lease with the last written-back values of bytes about to be stored under it (R375). -/
def HolderLease.note (h : HolderLease) (st : Stores) (l : Loc) (n : Nat) : HolderLease :=
  match n with
  | 0 => h
  | k + 1 =>
    let h1 := if h.dirty.any (fun d => d.1 == l) then h else { h with dirty := (l, (st.of l.sp).read l.a) :: h.dirty }
    h1.note st (l.add 1) k

/-- The leases after a store by die `die`: its write lease over the line keeps what was last written back. -/
def State.noteDirty (s : State) (die va : Nat) (l : Loc) (n : Nat) : State :=
  { s with leases := s.leases.map (fun h => if h.own && h.agent == s.agentOf die && h.covers (va / 128) then h.note s.st l n else h) }

/-- Performing a store of bytes at its location, by die `die` (R377, R375). -/
def State.writeAt (s : State) (die va : Nat) (l : Loc) (bs : List Byte) : State :=
  ((s.undoAt l bs.length).noteDirty die va l bs.length).putBytes l bs

/-- The device's own writes that waited for the host's answer, made where nothing stands against them any more (R385). -/
def State.flushWrites (s : State) : State := s.hostWrites.foldl (fun t w => t.devWrite w.1 w.2) { s with hostWrites := [] }

/-! ## Routes (R381, R382) -/

/-- A live switch die has a route to a package (R381). -/
def State.hasRoute (s : State) (p : Nat) : Bool :=
  [false, true].any (fun d => !(s.sd d).lost && ((s.sd d).routes.get 0 p &&& (s.sd d).ports) != 0)

/-- The packages that no route leads to any more: their time without one begins (R382). Both switch dies keep it. -/
def State.noteRoutes (s : State) : State :=
  let m := s.peers.foldl (fun m p =>
    if s.hasRoute p.toNat then m.del p.toNat
    else if m.any (fun e => e.1 == p.toNat) then m else m.set p.toNat s.sdcyc) s.mainSd.noRoute
  { s with sd0 := { s.sd0 with noRoute := m }, sd1 := { s.sd1 with noRoute := m } }

/-- The die under whose lease the executing context writes an address: its own, or that of the core that owns it (R255). -/
def State.writeDie (s : State) (va : Nat) : Nat := if s.attr va == 2 then ownerCore va / 96 else dieOf s.cur

end Sys2Proof.Machine
end

