-- ==== Sys2Proof/Machine/Access.lean ====
section
/-! DEFINITION. Loads and stores of a context: the checks of spec/06_scalar.md R168, doorbells (spec/01_work_and_launch.md R33
to R35), the region attributes of spec/09_memory.md R252 to R256, reads of `BV` lines and joined stores
(spec/12_consistency.md R317, R318, R328 to R335), what the access paths of a context see of one another (spec/10_engines.md R261 to
R263), and what coherence keeps of a store (spec/14_coherence.md). -/

namespace Sys2Proof.Machine

/-! ## Access paths (R261 to R263) -/

/-- The codes of the access paths (R261). -/
def pCore : Nat := 0
def pCopy : Nat := 1
def pGather : Nat := 2
def pColl : Nat := 3
def pMatrix : Nat := 4

/-- The byte at a location of a write, as it was before it. -/
def PathWrite.oldAt (e : PathWrite) (l : Loc) : Option Byte :=
  if e.loc.sp = l.sp && decide (e.loc.a ≤ l.a) then e.old[l.a - e.loc.a]? else none

/-- The record shares a byte with `n` bytes at a location. -/
def PathWrite.meets (e : PathWrite) (l : Loc) (n : Nat) : Bool :=
  e.loc.sp == l.sp && decide (e.loc.a < l.a + n) && decide (l.a < e.loc.a + e.old.length)

/-- A read on a path does not see the write: none has ordered the path after it, and the choice is free (R262). -/
def PathWrite.hidden (e : PathWrite) (free path : Nat) : Bool := e.unseen.getLsbD path && Config.pick free (16 * e.id + 13)

/-- A byte as a path sees it (R263): of the writes to it that the path need not see yet, latest first, each is seen or not, a free
choice; one that is seen hides those before it. -/
def seenByte (free path : Nat) (l : Loc) (w : List PathWrite) (v : Byte) : Byte :=
  match w with
  | [] => v
  | e :: r =>
    match e.oldAt l with
    | none => seenByte free path l r v
    | some o => if e.hidden free path then seenByte free path l r o else v

/-- Bytes from a location on as a path of a context sees them. -/
def seenBytes (free path : Nat) (l : Loc) (w : List PathWrite) (bs : List Byte) : List Byte :=
  match bs with
  | [] => []
  | b :: r => seenByte free path l w b :: seenBytes free path (l.add 1) w r

/-- The `n` bytes at a location as a path sees them beside the writes `w` (R263). -/
def Stores.getSeen (st : Stores) (free path : Nat) (w : List PathWrite) (l : Loc) (n : Nat) : List Byte :=
  if w.isEmpty then st.get l n else seenBytes free path l w (st.get l n)

/-- The `n` bytes at a location as a path of context `x` reads them. -/
def State.getOn (s : State) (x : Ctx) (path : Nat) (l : Loc) (n : Nat) : List Byte := s.st.getSeen s.free path x.paths l n

/-- The records that still say something: one that every path sees is kept while it hides an earlier one (R321). -/
def prunePaths (w : List PathWrite) : List PathWrite :=
  match w with
  | [] => []
  | e :: r =>
    let q := prunePaths r
    if e.unseen == 0 && !q.any (fun o => e.meets o.loc o.old.length) then q else e :: q

/-- The paths that need not see a write after path `p` has seen it: a store of the core path has then been performed, and every recall
that follows returns it (R263). -/
def PathWrite.seenOn (e : PathWrite) (p : Nat) : PathWrite :=
  { e with unseen := if e.path = pCore then 0 else e.unseen &&& ~~~(BitVec.ofNat 5 (2 ^ p)) }

/-- The records after a read of `n` bytes on a path: a write that it has seen it sees from then on (R321). -/
def sawWrites (free path : Nat) (l : Loc) (n : Nat) (w : List PathWrite) : List PathWrite :=
  w.map (fun e => if e.meets l n && e.unseen.getLsbD path && !e.hidden free path then e.seenOn path else e)

/-- A context after a read of `n` bytes on a path. -/
def Ctx.saw (x : Ctx) (free path : Nat) (l : Loc) (n : Nat) : Ctx := { x with paths := prunePaths (sawWrites free path l n x.paths) }

/-- A number that no record of a list has. -/
def freshWrite (w : List PathWrite) : Nat := w.foldl (fun m e => max m (e.id + 1)) 0

/-- The record of a write on a path (R262): no other path need see it yet. -/
def pathWrite (id path : Nat) (l : Loc) (old : List Byte) : PathWrite := ⟨id, l, old, path, ~~~(BitVec.ofNat 5 (2 ^ path))⟩

/-- A context after a write for it on a path (R262). -/
def Ctx.wrote (x : Ctx) (path : Nat) (l : Loc) (old : List Byte) : Ctx :=
  { x with paths := pathWrite (freshWrite x.paths) path l old :: x.paths }

/-- A context after `FENCEX` from path `p` to path `q` (R262): `q` sees what was written on `p`. -/
def Ctx.fencePaths (x : Ctx) (p q : Nat) : Ctx :=
  let cut (e : PathWrite) : PathWrite := if e.path = p then { e with unseen := e.unseen &&& ~~~(BitVec.ofNat 5 (2 ^ q)) } else e
  { x with paths := prunePaths (x.paths.map cut) }

/-- The context issues engine commands, operations or collectives of its own: the rules of R262 apply to it. -/
def pathed (c : CtxId) : Bool := kindOf c != .message

/-- A write noted for the context that it was made for (R262). -/
def State.notePath (s : State) (c : Option CtxId) (path : Nat) (l : Loc) (old : List Byte) : State :=
  match c with
  | none => s
  | some c => if pathed c then s.setCtx c ((s.ctx c).wrote path l old) else s

/-- A read of `n` bytes made for a context on a path (R262, R321). -/
def State.sawOn (s : State) (c : Option CtxId) (path : Nat) (l : Loc) (n : Nat) : State :=
  match c with
  | none => s
  | some c => if (s.ctx c).paths.isEmpty then s else s.setCtx c ((s.ctx c).saw s.free path l n)

/-- What the writes of an owner, and for it, leave unseen: those of the context that it is on. -/
def State.pathsOf (s : State) (o : Owner) : List PathWrite :=
  match s.holderOf o with
  | some c => (s.ctx c).paths
  | none => []

/-- A store of the executing context on a path, under its die's lease. -/
def State.putOn (s : State) (path : Nat) (l : Loc) (va : Nat) (bs : List Byte) : State :=
  let old := s.st.get l bs.length
  let t := s.writeAt (s.writeDie va) va l bs
  if l.sp == .staging then t else t.notePath (some s.cur) path l old

/-- A store of the executing context that has passed its checks. -/
def State.putAt (s : State) (l : Loc) (va : Nat) (bs : List Byte) : State := s.putOn pCore l va bs

/-- An access of the executing context on a path made ready: a gather reads as an engine does (R263). -/
def State.claimOn (s : State) (path : Nat) (own : Bool) (va : Nat) (l : Loc) : Except Stop State :=
  if path = pGather then
    (match s.claimEngine (dieOf s.cur) own va l with
     | .ok t => .ok t
     | .error t => .error (.hold t))
  else s.claim own va l

/-! ## Requests that cross a link (R342) -/

/-- Number of the source that a context's requests come from: its side, or its Keep. -/
def srcKey (c : CtxId) : Nat := if c.keep then 1536 + c.unit else sideKey c.unit c.side

/-- A request of a source that crosses a die or Berper link has been performed: its reply is kept among the source's 64 latest (R342). -/
def State.linkedBy (s : State) (k : Nat) (v : Word) : State :=
  let x := s.sides.get Side.reset k
  { s with sides := s.sides.set k { x with xseq := x.xseq + 1, replyCache := ((x.xseq, v) :: x.replyCache).take 64 } }

/-- A request of the executing context that crosses a link has been performed. -/
def State.linked (s : State) (v : Word) : State := s.linkedBy (srcKey s.cur) v

/-- Number of the source that a copy engine's requests come from, and of a die's gather engine. -/
def engineKey (d e : Nat) : Nat := 1632 + 8 * d + e
def gatherKey (d : Nat) : Nat := engineKey d 4

/-- Number of the source that a matrix engine's requests come from, and of a switch die's collective engine. -/
def mxeKey (p : Nat) : Nat := 1700 + p
def collKey (sd : Bool) : Nat := 1800 + sd.toNat

/-- An access from die `d` to an `OWNER` segment whose owner core is in another die or package (R255). -/
def State.ownerAway (s : State) (d va : Nat) : Bool :=
  s.attr va == 2 && (va / 2 ^ 48 % 256 != s.pkg.toNat || ownerCore va / 96 != d)

/-- An owner-region access of the executing context on a path has been performed, with its reply (R342). -/
def State.viaOwner (s : State) (path va : Nat) (v : Word) : State :=
  if s.ownerAway (dieOf s.cur) va then s.linkedBy (if path = pGather then gatherKey (dieOf s.cur) else srcKey s.cur) v else s

/-! ## Bundle records and `BV` lines -/

/-- Slot of a record that lists a line and is not installed, from slot `k` on, `n` slots in all (R328). -/
def State.slotOf (s : State) (rcd line k n : Nat) : Option Nat :=
  match n with
  | 0 => none
  | m + 1 =>
    if s.fwRead (rcd + 128 + 256 * k) 8 = line && s.fwRead (rcd + 136 + 256 * k) 8 % 2 = 0 then some k
    else s.slotOf rcd line (k + 1) m

/-- Number of staged lines of a record (R328). -/
def State.recLines (s : State) (rcd : Nat) : Nat := min (s.fwRead (rcd + 24) 4) 4096

/-- Bytes with those that a mask selects replaced, from byte `b` on. -/
def maskMerge (old new : List Byte) (mask : Nat) : List Byte :=
  match old, new with
  | o :: os, n :: ns => (if mask % 2 = 1 then n else o) :: maskMerge os ns (mask / 2)
  | os, _ => os

/-- A line's bytes with the staged bytes of slot `k` of a record (R333, R335). -/
def State.slotMerge (s : State) (rcd k : Nat) (line : List Byte) : List Byte :=
  maskMerge line (toBytes 128 (s.fwRead (rcd + 256 + 256 * k) 128)) (s.fwRead (rcd + 144 + 256 * k) 16)

/-- The retained versions of a line that no bundle has installed (R329). -/
def BvLine.start (bytes : List Byte) : BvLine :=
  { cur := { desc := 0, version := 0, count := 0, record := 0 }, prev := { desc := 0, version := 0, count := 0, record := 0 },
    prevData := bytes }

/-- The metadata of the line at an address, whose bytes lie at `l` (R329). -/
def State.bvLine (s : State) (l : Loc) (va : Nat) : BvLine := s.bv.get (BvLine.start (s.st.get l 128)) va

/-- The entry of a bundle set, as it is while in service (R327). -/
def BundleSet.reset : BundleSet := { counter := 0, installed := 0, scope := 0, pdid := 0, pending := [] }

/-- The set's entry at its agent. -/
def State.bset (s : State) (desc : VAddr) : BundleSet := s.sets.get BundleSet.reset desc.toNat

/-- Fixing a snapshot (R334): its version and record. -/
def State.fixSnap (s : State) (o : OpenSnap) : State :=
  let e := s.bset o.desc
  let next := e.pending.find? (fun c => c.version == e.installed + 1)
  match next with
  | some c =>
    if c.done.isEmpty then
      s.withMe { s.me with snapValid := true, snapVersion := BitVec.ofNat 48 e.installed, snap := some { o with record := none } }
    else
      s.withMe { s.me with snapValid := true, snapVersion := BitVec.ofNat 48 (e.installed + 1),
                           snap := some { o with record := some c.record } }
  | none => s.withMe { s.me with snapValid := true, snapVersion := BitVec.ofNat 48 e.installed, snap := some { o with record := none } }

/-- `BvRead` (R335) of the line at a location and its address: the state (the snapshot fixed, or the stale bit set) and the
line's bytes. -/
def State.bvRead (s : State) (l : Loc) (va : Nat) : State × List Byte :=
  let m := s.bvLine l va
  let now := s.st.get l 128
  match s.me.snap with
  | none => (s, now)
  | some o =>
    if m.cur.desc != 0 && m.cur.desc != o.desc then (s, now)
    else
      let s1 := if s.me.snapValid then s else s.fixSnap o
      let ver := s1.me.snapVersion.toNat
      let o1 := s1.me.snap.getD o
      if m.cur.version ≤ ver then
        match o1.record with
        | some rcd =>
          match s1.slotOf rcd.toNat va 0 (s1.recLines rcd.toNat) with
          | some k => (s1, s1.slotMerge rcd.toNat k now)
          | none => (s1, now)
        | none => (s1, now)
      else if (m.prev.desc == 0 || m.prev.desc == o.desc) && decide (m.prev.version ≤ ver) then (s1, m.prevData)
      else (s1.withMe { s1.me with snap := some { o1 with stale := true } }, now)

/-- Bytes `[off, off + n)` of a line are staged in a record's slot that is not installed. -/
def State.stagedBytes (s : State) (rcd line off n : Nat) : Bool :=
  match s.slotOf rcd line 0 (s.recLines rcd) with
  | some k => bitsOf (s.fwRead (rcd + 144 + 256 * k) 16) off n != 0
  | none => false

/-- Bytes of a line are among those that the executing context has committed and that are not installed: its own loads wait
(R331, R92). -/
def State.waitsInstall (s : State) (line off n : Nat) : Bool :=
  s.sets.any (fun (_, e) => e.pending.any (fun c => c.who == some (s.ownerOf s.cur) && s.stagedBytes c.record.toNat line off n))

/-! ## Loads and stores at a location -/

/-- The address lies in memory-homed space, of this package or another (R232, R246). -/
def State.memHomed (s : State) (va : Nat) : Bool :=
  match s.region va with
  | .home _ => true
  | .foreign _ => true
  | _ => false

/-- `n` bytes of one line as the executing context reads them on a path: of a `BV` line by `BvRead` (R335). -/
def State.bytesOn (s : State) (path : Nat) (l : Loc) (va n : Nat) : State × List Byte :=
  if s.attr va = 3 && s.memHomed va then
    let r := s.bvRead { l with a := l.a - va % 128 } (va - va % 128)
    (r.1, (r.2.drop (va % 128)).take n)
  else (s.sawOn (some s.cur) path l n, s.getOn s.me path l n)

/-- Reading `n` bytes of one line that has been made ready, for the executing context on a path (R252 to R256, R335, R376). -/
def State.readReady (s : State) (path : Nat) (l : Loc) (va n : Nat) : Except Stop (State × List Byte) :=
  if s.attr va = 3 && s.memHomed va && s.waitsInstall (va / 128 * 128) (va % 128) n then .error (.hold s)
  else
    let o := (if s.flagged va then s.poisonless else s).bytesOn path l va n
    .ok (o.1.viaOwner path va (BitVec.ofNat 64 (ofBytes o.2)), o.2)

/-- Reading `n` bytes of one line for the executing context on a path. -/
def State.readOn (s : State) (path : Nat) (l : Loc) (va n : Nat) : Except Stop (State × List Byte) :=
  match s.claimOn path false va l with
  | .error e => .error e
  | .ok t => t.readReady path l va n

/-- Reading `n` bytes of one line for the executing context. -/
def State.readAt (s : State) (l : Loc) (va n : Nat) : Except Stop (State × List Byte) := s.readOn pCore l va n

/-- Storing bytes of one line for the executing context on a path: an unjoined store to a `BV` segment faults (R256, R246). -/
def State.storeOn (s : State) (path : Nat) (l : Loc) (va : Nat) (bs : List Byte) : Except Stop State :=
  if s.attr va = 3 && l.sp != .staging then .error (.open_ cBvStore (some (BitVec.ofNat 64 va)))
  else match s.claim true va l with
    | .error e => .error e
    | .ok t => .ok ((t.putOn path l va bs).viaOwner path va 0)

/-- Storing bytes of one line for the executing context. -/
def State.storeAt (s : State) (l : Loc) (va : Nat) (bs : List Byte) : Except Stop State := s.storeOn pCore l va bs

/-! ## Joined stores (R331) -/

/-- Slot of a record that lists a line, staged or not. -/
def State.slotFind (s : State) (rcd line k n : Nat) : Option Nat :=
  match n with
  | 0 => none
  | m + 1 => if s.fwRead (rcd + 128 + 256 * k) 8 = line then some k else s.slotFind rcd line (k + 1) m

/-- A staging write (R331): a core-path write of the context to its record, which `BOPEN` has confirmed. -/
def State.recPut (s : State) (va n v : Nat) : Except Stop State :=
  match s.locate (fwReq (dieOf s.cur)) 0 va with
  | .error _ => .ok s
  | .ok (t, l) =>
    match t.claim true va l with
    | .error e => .error e
    | .ok u => .ok (u.putAt l va (toBytes n v))

/-- Staging bytes of one line in the open bundle's record (R331): `va` is the address of the first. DEDUCED: a new slot's `SFLAGS`
is 0, as its line is not installed (R328; log 99). -/
def State.stage (s : State) (rcd va : Nat) (bs : List Byte) : Except Stop State := do
  let line := va / 128 * 128
  let n := s.recLines rcd
  let found := s.slotFind rcd line 0 n
  let k := found.getD n
  let s1 ← if found.isSome then .ok s
           else do
             let t ← s.recPut (rcd + 128 + 256 * k) 8 line
             let t1 ← t.recPut (rcd + 136 + 256 * k) 8 0
             let t2 ← t1.recPut (rcd + 144 + 256 * k) 16 0
             t2.recPut (rcd + 24) 4 (n + 1)
  let mask := s1.fwRead (rcd + 144 + 256 * k) 16 ||| ((2 ^ bs.length - 1) * 2 ^ (va % 128))
  let s2 ← s1.recPut (rcd + 256 + 256 * k + va % 128) bs.length (ofBytes bs)
  s2.recPut (rcd + 144 + 256 * k) 16 mask

/-- A joined store's line is one that the bundle may hold (R331): in a `BV` segment of memory-homed space, with no set or
the bundle's. -/
def State.joinTarget (s : State) (b : OpenBundle) (l : Loc) (va : Nat) : Except Stop Unit :=
  let m := s.bvLine { l with a := l.a - va % 128 } (va - va % 128)
  if s.attr va != 3 || !s.memHomed va || (m.cur.desc != 0 && m.cur.desc != b.desc) then
    .error (.open_ cBundleTarget (some (BitVec.ofNat 64 va)))
  else .ok ()

/-- The lines of a joined store that its record has no slot for yet, in order (R331). -/
def State.newLines (s : State) (rcd : Nat) (lines : List Nat) : List Nat :=
  (lines.filter (fun a => (s.slotFind rcd a 0 (s.recLines rcd)).isNone)).eraseDups

/-- The slot that a line of a joined store has or gets (R331). -/
def State.joinSlot (s : State) (rcd : Nat) (lines : List Nat) (line : Nat) : Nat :=
  (s.slotFind rcd line 0 (s.recLines rcd)).getD (s.recLines rcd + (s.newLines rcd lines).idxOf line)

/-- A line finds no room in the record: it is a new one with `NLINES` = `CAP` (R331). -/
def State.joinFull (s : State) (rcd : Nat) (lines : List Nat) (line : Nat) : Bool :=
  (s.newLines rcd lines).contains line && decide (s.fwRead (rcd + 4) 4 ≤ s.joinSlot rcd lines line)

/-- A line of the record made ready for a staging write. -/
def State.recReady (s : State) (va : Nat) : Except Stop State :=
  match s.locate (fwReq (dieOf s.cur)) 0 va with
  | .error _ => .ok s
  | .ok (t, l) => t.claim true va l

/-- Lines of the record made ready in turn. -/
def State.recReadyAll (s : State) (l : List Nat) : Except Stop State :=
  match l with
  | [] => .ok s
  | a :: r =>
    match s.recReady a with
    | .error e => .error e
    | .ok t => t.recReadyAll r

/-- The record made ready for the lines of a joined store, before any byte is staged: its header, and each slot's fields and data. -/
def State.joinReady (s : State) (rcd : Nat) (lines : List Nat) : Except Stop State :=
  s.recReadyAll (rcd :: lines.flatMap (fun a => [rcd + 128 + 256 * s.joinSlot rcd lines a, rcd + 256 + 256 * s.joinSlot rcd lines a]))

/-! ## Doorbells -/

/-- Raising the vector of a queue (R34). -/
def State.raiseQueueVector (s : State) (q : Nat) : State :=
  s.raiseVector (s.queue q).pdid.toNat (s.queue q).irqvec.toNat

/-- `TailWrite` (R34). Cause 8 of R40 is `TAIL_OVER`. -/
def State.tailWrite (s : State) (q : Nat) (t : BitVec 32) : State :=
  let Q := s.queue q
  let d := (t - Q.tail).toNat
  if Q.state = .disabled then s
  else if d = 0 || decide (2 ^ 31 ≤ d) then s
  else if decide (2 ^ Q.log2size < (Q.tail - Q.head).toNat + d) then
    if Q.state = .error then s
    else (s.setQueue q { Q with prior := Q.state, state := .error, cause := 8 }).raiseQueueVector q
  else s.setQueue q { Q with tail := t }

/-- The queue has a packet that has started and not completed (R33 `INFLIGHT`). -/
def State.inflight (s : State) (q : Nat) : Bool := s.packets.any (fun p => p.ref.q == q)

/-- Code of a queue state (R31). -/
def QState.code (q : QState) : Nat :=
  match q with
  | .disabled => 0
  | .active => 1
  | .stopped => 2
  | .error => 3

/-- The value of a doorbell word (R33). -/
def State.doorbellRead (s : State) (q off : Nat) : Word :=
  let Q := s.queue q
  if off = 0 then Q.tail.setWidth 64
  else if off = 8 then Q.head.setWidth 64
  else BitVec.ofNat 64 (Q.state.code + Q.cause.toNat * 256 + (s.inflight q).toNat * 65536)

/-- What a doorbell word of another package holds (R33): its queues are not this package's, so that it is free, but for the bits that the
rule fixes (log entry 3). -/
def State.peerDoorbellRead (s : State) (off : Nat) : Word :=
  Config.word s.free 25 &&& (if off = 16 then 0x1FF03#64 else 0xFFFFFFFF#64)

/-- A context's write of a doorbell word of another package (R33, R35): that package's queue engine takes it or refuses it, which is
free; `PDID` 0 is not checked. -/
def State.peerDoorbellWrite (s : State) (off va : Nat) : Except Stop State :=
  if off = 0 && s.me.pdid != 0 && Config.pick s.free (16 * va + 9) then .error (.freeze 0 (BitVec.ofNat 64 va)) else .ok s

/-- A context's write of a doorbell word (R33, R35): a tail write under another domain's `PDID` freezes. -/
def State.doorbellWrite (s : State) (q off va : Nat) (v : Word) : Except Stop State :=
  if off != 0 then .ok s
  else if s.me.pdid != 0 && s.me.pdid != (s.queue q).pdid then .error (.freeze 0 (BitVec.ofNat 64 va))
  else .ok (s.tailWrite q (v.setWidth 32))

/-- The words of a doorbell page that an 8-byte access may name (R33). -/
def doorbellWord (off : Nat) : Bool := off == 0 || off == 8 || off == 16

/-! ## Scalar accesses -/

/-- log2 of an access size. -/
def log2Size (n : Nat) : Nat := Nat.log2 n

/-- Steps 2 and 3 of R168: alignment, and a doorbell page, which takes only an aligned 8-byte access of its words by a form
that `dbell` says may make one. -/
def State.checkScalar (s : State) (ea : Word) (n : Nat) (dbell : Bool) : Except Stop Unit :=
  if vaOf ea % n != 0 then .error (.trap cMisalign (BitVec.ofNat 16 (log2Size n)) ea)
  else match s.region (vaOf ea) with
    | .doorbell _ off => if dbell && n == 8 && doorbellWord off then .ok () else .error (.trap cDbellAccess 0 ea)
    | .peerDoorbell _ => if dbell && n == 8 && doorbellWord (vaOf ea % 4096) then .ok () else .error (.trap cDbellAccess 0 ea)
    | _ => .ok ()

/-- A scalar load of `n` bytes at an address that has passed R168 steps 1 to 3: confirmed and performed. -/
def State.loadScalar (s : State) (ea : Word) (n : Nat) : Except Stop (State × Nat) :=
  match s.region (vaOf ea) with
  | .doorbell q off => .ok (s, (s.doorbellRead q off).toNat)
  | .peerDoorbell pk =>
    if s.peers.contains (BitVec.ofNat 8 pk) then .ok (s, (s.peerDoorbellRead (vaOf ea % 4096)).toNat)
    else .error (.open_ cPeerLost (some ea))
  | _ =>
    match atEa ea (orStop cDataXlate (s.locate s.req rR (vaOf ea))) with
    | .error e => .error e
    | .ok (s1, l) =>
      match atEa ea (s1.readAt l (vaOf ea) n) with
      | .error e => .error e
      | .ok (s2, bs) => .ok (s2, ofBytes bs)

/-- A scalar store of the low `n` bytes of `v` at an address that has passed R168 steps 1 to 3. -/
def State.storeScalar (s : State) (ea : Word) (n v : Nat) : Except Stop State :=
  match s.region (vaOf ea) with
  | .doorbell q off => s.doorbellWrite q off (vaOf ea) (BitVec.ofNat 64 v)
  | .peerDoorbell pk =>
    if s.peers.contains (BitVec.ofNat 8 pk) then s.peerDoorbellWrite (vaOf ea % 4096) (vaOf ea)
    else .error (.open_ cPeerLost (some ea))
  | _ =>
    match atEa ea (orStop cDataXlate (s.locate s.req rW (vaOf ea))) with
    | .error e => .error e
    | .ok (s1, l) => atEa ea (s1.storeAt l (vaOf ea) (toBytes n v))

/-- The address lies in a doorbell page. -/
def State.isDoorbell (s : State) (va : Nat) : Bool :=
  match s.region va with
  | .doorbell _ _ => true
  | .peerDoorbell _ => true
  | _ => false

/-- A scalar store that joins the open bundle (R331): its bytes are staged and no line is written. -/
def State.joinScalar (s : State) (ea : Word) (n v : Nat) : Except Stop State :=
  match s.me.bundle with
  | none => .error (.open_ cNoBundle (some ea))
  | some b =>
    atEa ea (
      if s.isDoorbell (vaOf ea) then .error (.open_ cBundleTarget (some ea))
      else do
        let (s1, l) ← orStop cDataXlate (s.locate s.req rW (vaOf ea))
        s1.joinTarget b l (vaOf ea)
        let rcd := b.record.toNat
        let lines := [vaOf ea / 128 * 128]
        if s1.joinFull rcd lines (vaOf ea / 128 * 128) then .error (.open_ cBundleFull (some ea))
        else do
          let s2 ← s1.joinReady rcd lines
          s2.stage rcd (vaOf ea) (toBytes n v))

/-! ## Strong accesses under `MIXTRAP` (R318) -/

/-- The memory die that homes an address (R2). -/
def mdOf (va : Nat) : Nat := va / 2 ^ 16 % 4

/-- Strong accesses to a line are performed and checked at the LLC of its memory die: `MIXTRAP.EN` there is 1 (R318). -/
def State.atLlc (s : State) (l : Loc) (va : Nat) : Bool := l.sp == .dram && s.mixtrap.get false (mdOf va)

/-- A strong access of the executing context made ready: at its line's home where it is performed there (R318), held from issue until it
can be. -/
def State.claimStrong (s : State) (own : Bool) (va : Nat) (l : Loc) : Except Stop State :=
  if s.atLlc l va then
    (match s.claimHome own va l with
     | .ok t => .ok t
     | .error t => .error (.hold t))
  else s.claim own va l

/-- The place of an indivisible read-modify-write made ready, or its wait for it (R213, R354): for a plain or `FE` segment its home, where
every cached copy has been taken back; for an `OWNER` segment its owner's cache (R255). -/
def State.claimRmw (s : State) (own : Bool) (va : Nat) (l : Loc) : Except Stop State :=
  match (if s.attr va == 2 then s.claimFor (dieOf s.cur) (agentIn s.cur) own va l else s.claimHome own va l) with
  | .ok t => .ok t
  | .error t => .error (.hold t)

/-- The check and record of a strong access that is performed at its home's LLC. The record of a line goes when the line leaves the LLC,
which is a free choice (log entry 3). -/
def State.strong_ (s : State) (l : Loc) (va n : Nat) : Except Stop State :=
  if s.atLlc l va then
    let line := l.a / 128
    let off := l.a % 128
    let clash := s.strong.any (fun r => r.line == line && (r.off != off || r.size != n) &&
                   decide (r.off < off + n) && decide (off < r.off + r.size))
    if clash && !Config.pick s.free (16 * line + 9) then .error (.open_ cMixedSize (some (BitVec.ofNat 64 va)))
    else .ok { s with strong := { md := mdOf va, line := line, off := off, size := n } :: s.strong.filter (fun r => r.line != line) }
  else .ok s

/-! ## Overlapping strong writes (R317) -/

/-- The record covers a location. -/
def StrongWrite.covers (r : StrongWrite) (l : Loc) : Bool := r.loc.sp == l.sp && decide (r.loc.a ≤ l.a) && decide (l.a < r.loc.a + r.size)

/-- The record shares a byte with `n` bytes at a location. -/
def StrongWrite.meets (r : StrongWrite) (l : Loc) (n : Nat) : Bool :=
  r.loc.sp == l.sp && decide (r.loc.a < l.a + n) && decide (l.a < r.loc.a + r.size)

/-- The strong writes of other contexts and of engines that a strong write of another size or alignment meets. -/
def State.strongHits (s : State) (who : Option CtxId) (l : Loc) (n : Nat) : List StrongWrite :=
  s.strongWrites.filter (fun r => (r.by_ != who || who.isNone) && (r.loc != l || r.size != n) && r.meets l n)

/-- Bytes from location `l` on, each one that a record covers undefined where the two writes are unordered: whether they are is a free
choice (log entry 4). -/
def mixBytes (free : Nat) (hits : List StrongWrite) (l : Loc) (bs : List Byte) : List Byte :=
  match bs with
  | [] => []
  | b :: r =>
    (if hits.any (fun h => h.covers l) && Config.pick free (16 * l.a) then Config.byte free (64 + l.a) else b) :: mixBytes free hits (l.add 1) r

/-- A strong write of a context, or of an engine, that has been performed (R317): the bytes that it shares with one of another context, of
another size or alignment and not ordered with it, are undefined. An earlier record stays for what it may still meet. -/
def State.strongBy (s : State) (who : Option CtxId) (l : Loc) (n : Nat) : State :=
  let hits := s.strongHits who l n
  let t := if hits.isEmpty then s else { s with st := s.st.set l (mixBytes s.free hits l (s.st.get l n)) }
  { t with strongWrites := ⟨l, n, who⟩ :: t.strongWrites.filter (fun r => r != ⟨l, n, who⟩) }

/-- A strong write of the executing context. -/
def State.strongWrote (s : State) (l : Loc) (n : Nat) : State := s.strongBy (some s.cur) l n

/-! ## Vector queue and resynchronisation -/

/-- The executing context's side. -/
def State.mySide (s : State) : Side := s.side s.cur.unit s.cur.side
def State.setMySide (s : State) (x : Side) : State := s.setSide s.cur.unit s.cur.side x

/-- Strip advances that complete as entries of a context leave (R94). -/
def stripsOf (l : List VqEntry) (slot : Nat) : Nat := (l.filter (fun e => e.slot == slot)).foldl (fun n e => n + e.strips) 0

/-- A resynchronisation (R93), or the wait for every earlier access (R92): every earlier VQ entry of the executing context
has left the VQ, and the strip advances behind them are complete. At its issue the context has been held until that is so (R86,
`State.issueHeld`), and nothing is left to leave; a meaning by itself says no more than what holds then. -/
def State.resync (s : State) : State :=
  if kindOf s.cur = .user then
    let n := stripsOf s.mySide.vq s.cur.slot
    (s.setMySide { s.mySide with vq := s.mySide.vq.filter (fun e => e.slot != s.cur.slot) }).withMe
      { s.me with stripDone := s.me.stripDone + BitVec.ofNat 32 n }
  else s

end Sys2Proof.Machine
end

