-- ==== Sys2Proof/Machine/Permit.lean ====
section
/-! DEFINITION. Which kinds of context may execute a form (spec/03_core.md R76, spec/11_matrix.md R284, spec/13_synchronisation.md
R340, spec/12_consistency.md R325, spec/10_engines.md R264, spec/06_scalar.md R179). A form is named by page, major and
selection as in the encoding tables. -/

namespace Sys2Proof.Machine

/-- A context of a Keep. -/
def Kind.onKeep (k : Kind) : Bool := k == .keep || k == .keepFw

/-- The kind may execute the page-4 form (R340, R325, R316). -/
def permit4 (k : Kind) (major sel : Nat) : Bool :=
  match major with
  | 0 =>
    match sel with
    | 0 => k == .user || k == .message || k == .firmware
    | 1 => k == .message
    | 2 => k == .message
    | _ => k == .user
  | 1 => if sel = 0 then k != .message else true
  | 4 => k != .message
  | 5 => k == .user
  | 6 => k != .message
  | 7 => if sel = 0 then k != .message else true
  | 8 => k == .user
  | 11 => k == .user || k.onKeep
  | 12 => k == .user || k.onKeep
  | _ => true

/-- The kind may execute the page-5 form (R76, R264, R289). -/
def permit5 (k : Kind) (major : Nat) : Bool :=
  match major with
  | 1 => k == .user || k == .firmware
  | 3 => k == .user || k == .firmware
  | _ => k == .user

/-- The kind of context may execute the form. -/
def permits (k : Kind) (page major sel : Nat) : Bool :=
  match page with
  | 0 => !(major == 26 && sel == 3 && k == .message)
  | 1 => k == .user
  | 2 => k == .user
  | 3 => k == .user
  | 4 => permit4 k major sel
  | 5 => permit5 k major
  | 6 => k.onKeep
  | _ => k == .firmware || k == .keepFw

/-- Lanes of a side under `LPART.SPLIT` (R83): side B for true. -/
def lanesOf (split : BitVec 3) (side : Bool) : Nat :=
  let a := match split.toNat with
    | 0 => 32
    | 1 => 24
    | 2 => 16
    | 3 => 8
    | _ => 0
  if side then 32 - a else a

/-- The form needs lanes on its side: every vector and graphics form but the configuration forms and `CALLST`, which runs on
any side (spec/07_vector.md, spec/08_graphics.md R214). -/
def needsLanes (page major : Nat) : Bool :=
  (page == 1 && decide (2 ≤ major)) || page == 2 || (page == 3 && major != 4)

/-- The executing context may execute the form: its kind (R76) and the lanes of its side. -/
def State.mayExec (s : State) (page major sel : Nat) : Bool :=
  permits (kindOf s.cur) page major sel &&
    (!needsLanes page major || decide (0 < lanesOf (s.core s.cur.unit).lpart s.cur.side))

/-- The check of R113 for permission, reason 0x5. -/
def State.permit (s : State) (page major sel : Nat) : Except Stop Unit :=
  if s.mayExec page major sel then .ok () else illegal 5 page major

end Sys2Proof.Machine
end

