-- ==== Sys2Proof/Machine/Sync.lean ====
section
/-! DEFINITION. Acquire loads, release stores, atomics, full/empty words, barriers, the post ring, tickets, strip waits and
fences (spec/12_consistency.md R316 to R318; spec/13_synchronisation.md R341, R342, R353 to R365). -/

namespace Sys2Proof.Machine

/-! ## Waking a parked context -/

/-- A parked context whose wait has ended: its register takes the value and it goes on after its chain (R77). -/
def State.wakeWith (s : State) (c : CtxId) (rd : XReg) (len : Nat) (v : Word) : State :=
  let x := s.ctx c
  s.setCtx c { x with st := .run, wait := none, x := xSet x.x rd v, haz := hazardDel x.haz rd,
                      pc := x.pc + BitVec.ofNat 56 (2 * len), missack := false }

/-- The completion of a parked form that has read the word at an address (R376): in a flagged region it sets `FLAGS.POISONLESS`. -/
def State.wakeRead (s : State) (c : CtxId) (rd : XReg) (len : Nat) (v : Word) (va : Nat) : State :=
  let t := s.wakeWith c rd len v
  if s.flagged va then t.setCtx c { t.ctx c with flags := (t.ctx c).flags ||| 0x80 } else t

/-- A parked context whose wait has ended without a result. -/
def State.wakeOn (s : State) (c : CtxId) (len : Nat) : State :=
  let x := s.ctx c
  s.setCtx c { x with st := .run, wait := none, pc := x.pc + BitVec.ofNat 56 (2 * len), missack := false }

/-- A parked context that issues its instruction again. -/
def State.wakeRetry (s : State) (c : CtxId) : State :=
  let x := s.ctx c
  s.setCtx c { x with st := .run, wait := none }

/-- The contexts in `WAIT`, with what they wait for. -/
def State.waiters (s : State) : List (CtxId × Wait) :=
  s.allCtx.filterMap (fun (c, x) =>
    match x.wait with
    | some w => if x.st == .wait then some (c, w) else none
    | none => none)

/-! ## Requests that cross a link (R342) -/

/-- The state after a request of a context at a location has been performed with reply `v`: those to memory dies and peer packages cross
a link, and so do those to another die's scratch. -/
def State.linkedFor (s : State) (c : CtxId) (l : Loc) (v : Word) : State :=
  match l.sp with
  | .dram => s.linkedBy (srcKey c) v
  | .peer => s.linkedBy (srcKey c) v
  | .host => s.linkedBy (srcKey c) v
  | .scratch => if l.a / 2 ^ 19 / 96 = dieOf c then s else s.linkedBy (srcKey c) v
  | .staging => s

/-- As `linkedFor`, for the executing context. -/
def State.linkedAt (s : State) (l : Loc) (v : Word) : State := s.linkedFor s.cur l v

/-! ## `LDA` and `STL` (R316) -/

/-- An acquire load of `n` bytes (R316). -/
def State.acquireLoad (s : State) (sel : Nat) (d a : XReg) (imm : Word) (n : Nat) : Except Stop State := do
  s.permit 4 13 sel
  let ea ← s.ea a imm
  s.checkScalar ea n true
  if s.isDoorbell (vaOf ea) then
    let (t, v) ← s.loadScalar ea n
    .ok (t.wx d (BitVec.ofNat 64 v)).finish
  else
    let (t, l) ← atEa ea (orStop cDataXlate (s.locate s.req rR (vaOf ea)))
    let t1 ← t.claimStrong false (vaOf ea) l
    let (u, bs) ← atEa ea (t1.readReady pCore l (vaOf ea) n)
    let v ← atEa ea (u.strong_ l (vaOf ea) n)
    .ok (v.wx d (BitVec.ofNat 64 (ofBytes bs))).finish

/-- A release store of `n` bytes (R316): it performs after every earlier access of the context, its VQ entries included. -/
def State.releaseStore (s : State) (sel : Nat) (d a : XReg) (imm : Word) (n : Nat) : Except Stop State := do
  s.permit 4 14 sel
  let ea ← s.ea a imm
  s.checkScalar ea n true
  let v := (s.rx d).toNat
  if s.isDoorbell (vaOf ea) then
    let t ← s.storeScalar ea n v
    .ok t.resync.finish
  else
    let (t, l) ← atEa ea (orStop cDataXlate (s.locate s.req rW (vaOf ea)))
    if s.attr (vaOf ea) = 3 && l.sp != .staging then .error (.open_ cBvStore (some ea))
    let t1 ← t.claimStrong true (vaOf ea) l
    let u ← atEa ea (t1.strong_ l (vaOf ea) n)
    .ok (((u.putAt l (vaOf ea) (toBytes n v)).viaOwner pCore (vaOf ea) 0).strongWrote l n).resync.finish

/-- `LDA` (R316). -/
def execLda (d a : XReg) (imm : Word) (_sc : BitVec 3) (s : State) : Host.Outcome State Fault Refusal :=
  act s (s.acquireLoad 0 d a imm 8)
/-- `LDAW` (R316). -/
def execLdaw (d a : XReg) (imm : Word) (_sc : BitVec 3) (s : State) : Host.Outcome State Fault Refusal :=
  act s (s.acquireLoad 1 d a imm 4)
/-- `LDAH` (R316). -/
def execLdah (d a : XReg) (imm : Word) (_sc : BitVec 3) (s : State) : Host.Outcome State Fault Refusal :=
  act s (s.acquireLoad 2 d a imm 2)
/-- `LDAB` (R316). -/
def execLdab (d a : XReg) (imm : Word) (_sc : BitVec 3) (s : State) : Host.Outcome State Fault Refusal :=
  act s (s.acquireLoad 3 d a imm 1)
/-- `STL` (R316). -/
def execStl (d a : XReg) (imm : Word) (_sc : BitVec 3) (s : State) : Host.Outcome State Fault Refusal :=
  act s (s.releaseStore 0 d a imm 8)
/-- `STLW` (R316). -/
def execStlw (d a : XReg) (imm : Word) (_sc : BitVec 3) (s : State) : Host.Outcome State Fault Refusal :=
  act s (s.releaseStore 1 d a imm 4)
/-- `STLH` (R316). -/
def execStlh (d a : XReg) (imm : Word) (_sc : BitVec 3) (s : State) : Host.Outcome State Fault Refusal :=
  act s (s.releaseStore 2 d a imm 2)
/-- `STLB` (R316). -/
def execStlb (d a : XReg) (imm : Word) (_sc : BitVec 3) (s : State) : Host.Outcome State Fault Refusal :=
  act s (s.releaseStore 3 d a imm 1)

/-! ## The word that a page-4 form names (R341) -/

/-- A named word: its address and location. -/
structure WordAt where
  ea : Word
  loc : Loc
  deriving DecidableEq, Repr

/-- Its address as a number. -/
def WordAt.va (w : WordAt) : Nat := vaOf w.ea

/-- The place of a named word made ready (R354), where strong accesses are performed at the LLC there (R318). -/
def State.claimWord (s : State) (own : Bool) (va : Nat) (l : Loc) : Except Stop State :=
  if s.atLlc l va then s.claimStrong own va l else s.claimRmw own va l

/-- The checks of R341 for an `n`-byte word at the address in register `a`; `fe` for a full/empty operation. Its place is made ready
(R354, R385). Earlier VQ entries have left (R315, R92). -/
def State.wordAt (s : State) (a : XReg) (n : Nat) (need : BitVec 5) (fe : Bool) : Except Stop (State × WordAt) := do
  let ea ← s.ea a 0
  s.checkScalar ea n false
  let (t, l) ← atEa ea (orStop cDataXlate (s.locate s.req need (vaOf ea)))
  if s.attr (vaOf ea) = 3 && l.sp != .staging then .error (.open_ cBvStore (some ea))
  if fe && (s.attr (vaOf ea) != 1 || !s.memHomed (vaOf ea)) then .error (.open_ cFeTarget (some ea))
  let t1 ← t.claimWord (need.getLsbD 1) (vaOf ea) l
  let t2 ← atEa ea (t1.strong_ l (vaOf ea) n)
  .ok (t2.resync, ⟨ea, l⟩)

/-- The value of a named word. -/
def State.wordVal (s : State) (w : WordAt) (n : Nat) : Nat := ofBytes (s.st.get w.loc n)

/-- The state with a named word written. -/
def State.setWord (s : State) (w : WordAt) (n v : Nat) : State := (s.putAt w.loc w.va (toBytes n v)).strongWrote w.loc n

/-- Completing a page-4 form with its result: the reply of the word's place. A word of a flagged region sets `FLAGS.POISONLESS` (R376). -/
def State.replied (s : State) (w : WordAt) (d : XReg) (v : Word) : State :=
  (((if s.flagged w.va then s.poisonless else s).linkedAt w.loc v).wx d v).finish

/-! ## Atomics (R353) -/

/-- Bytes of an atomic's size code. -/
def atBytes (sz : BitVec 2) : Nat := if sz = 0 then 8 else 4

/-- An atomic: the old word is returned and the new one written, in one step (R353). -/
def State.atomic (s : State) (major sel : Nat) (d a : XReg) (sz : BitVec 2) (signed : Bool) (op : Nat → Nat → Nat) :
    Except Stop State := do
  s.permit 4 major sel
  let n := atBytes sz
  let (t, w) ← s.wordAt a n rRWA false
  let old := t.wordVal w n
  let r : Word := if signed then sextNat (8 * n) old else BitVec.ofNat 64 old
  .ok ((t.setWord w n (op (8 * n) old)).replied w d r)

/-- `ATADD` (R353). -/
def execAtadd (d a b : XReg) (_sc : BitVec 3) (sz : BitVec 2) (s : State) : Host.Outcome State Fault Refusal :=
  act s (s.atomic 2 0 d a sz false (fun w old => (old + (s.rx b).toNat) % 2 ^ w))
/-- `ATSWAP` (R353). -/
def execAtswap (d a b : XReg) (_sc : BitVec 3) (sz : BitVec 2) (s : State) : Host.Outcome State Fault Refusal :=
  act s (s.atomic 2 1 d a sz false (fun w _ => (s.rx b).toNat % 2 ^ w))
/-- `ATCAS` (R353). -/
def execAtcas (d a b : XReg) (_sc : BitVec 3) (sz : BitVec 2) (s : State) : Host.Outcome State Fault Refusal :=
  act s (s.atomic 2 2 d a sz false (fun w old => if old = (s.rx d).toNat % 2 ^ w then (s.rx b).toNat % 2 ^ w else old))
/-- `ATMAX` (R353). -/
def execAtmax (d a b : XReg) (_sc : BitVec 3) (sz : BitVec 2) (s : State) : Host.Outcome State Fault Refusal :=
  act s (s.atomic 2 3 d a sz true (fun w old =>
    if signedNat w old ≤ signedNat w (s.rx b).toNat then (s.rx b).toNat % 2 ^ w else old))
/-- `ATAND` (R353). -/
def execAtand (d a b : XReg) (_sc : BitVec 3) (sz : BitVec 2) (s : State) : Host.Outcome State Fault Refusal :=
  act s (s.atomic 3 0 d a sz false (fun w old => old &&& (s.rx b).toNat % 2 ^ w))
/-- `ATOR` (R353). -/
def execAtor (d a b : XReg) (_sc : BitVec 3) (sz : BitVec 2) (s : State) : Host.Outcome State Fault Refusal :=
  act s (s.atomic 3 1 d a sz false (fun w old => old ||| (s.rx b).toNat % 2 ^ w))
/-- `ATMIN` (R353). -/
def execAtmin (d a b : XReg) (_sc : BitVec 3) (sz : BitVec 2) (s : State) : Host.Outcome State Fault Refusal :=
  act s (s.atomic 3 2 d a sz true (fun w old =>
    if signedNat w old ≤ signedNat w (s.rx b).toNat then old else (s.rx b).toNat % 2 ^ w))

/-- The FP32 code is a NaN. -/
def nan32 (v : Nat) : Bool := decide (0x7F800000 < v % 2 ^ 31)

/-- The order of `AMAXM` (R353): as FP32 values, with −0 below +0. -/
def below32 (a b : Nat) : Bool :=
  match bitOf a 31, bitOf b 31 with
  | true, false => true
  | false, true => false
  | false, false => decide (a % 2 ^ 31 < b % 2 ^ 31)
  | true, true => decide (b % 2 ^ 31 < a % 2 ^ 31)

/-- The new word of `AMAXM` (R353). -/
def amaxNew (old b : Nat) : Nat :=
  let v := b % 2 ^ 31
  if nan32 old || nan32 v then 0x7FC00000 else if below32 old v then v else old

/-- `AMAXM` (R353). -/
def execAmaxm (d a b : XReg) (_sc : BitVec 3) (sz : BitVec 2) (s : State) : Host.Outcome State Fault Refusal :=
  act s (do
    s.permit 4 3 3
    if sz != 1 then illegal 7 4 3
    s.atomic 3 3 d a 1 false (fun _ old => amaxNew old (s.rx b).toNat))

/-! ## Full/empty words (R355) -/

/-- The full/empty bit of a word. -/
def State.isFull (s : State) (w : WordAt) : Bool := !s.empties.contains w.va

/-- The word set empty. -/
def State.setEmpty (s : State) (va : Nat) : State := { s with empties := if s.empties.contains va then s.empties else va :: s.empties }

/-- The word set full. -/
def State.setFull (s : State) (va : Nat) : State := { s with empties := s.empties.filter (fun e => e != va) }

/-- The memory die of a word holds as many waiting takes as it can (R355); those of another package's dies are not this one's to count. -/
def State.takesFull (s : State) (va : Nat) : Bool :=
  decide (4096 ≤ (s.takes.filter (fun e => mdOf e.va == mdOf va && e.va / 2 ^ 48 == va / 2 ^ 48)).length)

/-- `FETAKE` (R355): where the home has no list entry free, it waits at its source, and issues again. -/
def execFetake (d a : XReg) (_sc : BitVec 3) (s : State) : Host.Outcome State Fault Refusal :=
  act s (do
    s.permit 4 1 0
    let (t, w) ← s.wordAt a 8 rRWA true
    if t.isFull w then .ok ((t.setEmpty w.va).replied w d (BitVec.ofNat 64 (t.wordVal w 8)))
    else if t.takesFull w.va then .error (.hold s)
    else .ok (({ t with takes := t.takes ++ [⟨w.va, t.cur⟩] } : State).park
      (.take (BitVec.ofNat 56 w.va) d t.ilen)))

/-- A value handed to the context whose take heads the list of a word (R355), which is the reply of its request (R342). -/
def State.handTake (s : State) (c : CtxId) (v : Word) : State :=
  match (s.ctx c).wait with
  | some (.take va rd len) => (s.wakeRead c rd len v va.toNat).linkedBy (srcKey c) v
  | _ => s

/-- The take at the head of a word's list. -/
def State.headTake (s : State) (va : Nat) : Option Deferred := s.takes.find? (fun e => e.va == va)

/-- The word filled (R355): it becomes full, or the head take is handed the value. -/
def State.fillWord (s : State) (va : Nat) (v : Word) : State :=
  match s.headTake va with
  | none => s.setFull va
  | some e => ({ s with takes := s.takes.erase e } : State).handTake e.who v

/-- `FEFILL` (R355). -/
def execFefill (d a b : XReg) (_sc : BitVec 3) (s : State) : Host.Outcome State Fault Refusal :=
  act s (do
    s.permit 4 1 1
    let (t, w) ← s.wordAt a 8 rRWA true
    if t.isFull w then .ok (t.replied w d 1)
    else
      let v := s.rx b
      .ok (((t.setWord w 8 v.toNat).replied w d 0).fillWord w.va v))

/-- `FEPEEK` (R355). -/
def execFepeek (d a : XReg) (_sc : BitVec 3) (s : State) : Host.Outcome State Fault Refusal :=
  act s (do
    s.permit 4 1 2
    let (t, w) ← s.wordAt a 8 rRA true
    .ok (t.replied w d (if t.isFull w then 1 else 0)))

/-! ## Barriers (R357, R358) -/

/-- A barrier word (R357). -/
structure Barrier where
  phase : BitVec 32
  arrived : Nat
  npart : Nat
  deriving DecidableEq, Repr

/-- The fields of a barrier word. -/
def barrierOf (v : Nat) : Barrier := ⟨BitVec.ofNat 32 v, bitsOf v 32 16, bitsOf v 48 16⟩

/-- A barrier word from its fields. -/
def Barrier.word (b : Barrier) : Nat := b.phase.toNat + 2 ^ 32 * (b.arrived % 2 ^ 16) + 2 ^ 48 * (b.npart % 2 ^ 16)

/-- Phase p is complete (R358). -/
def phaseDone (phase p : BitVec 32) : Bool := decide (1 ≤ (phase - p).toNat) && decide ((phase - p).toNat < 2 ^ 31)

/-- An arrival for phase p (R357): the new word and the status. -/
def Barrier.post (b : Barrier) (p : BitVec 32) : Barrier × Nat :=
  let d := (p - b.phase).toNat
  if b.npart = 0 || decide (b.npart ≤ b.arrived) then (b, 3)
  else if d != 0 then (b, if 2 ^ 31 ≤ d then 1 else 2)
  else if b.arrived + 1 = b.npart then ({ b with phase := b.phase + 1, arrived := 0 }, 4)
  else ({ b with arrived := b.arrived + 1 }, 0)

/-- The contexts that wait on the barrier at an address. -/
def State.barrierWaiters (s : State) (va : Nat) : List CtxId :=
  s.waiters.filterMap (fun (c, w) =>
    match w with
    | .phase a _ _ _ => if a.toNat = va then some c else none
    | .timed a _ _ _ _ => if a.toNat = va then some c else none
    | _ => none)

/-- The home's notices of a new phase to the waiting contexts (R358). -/
def State.notify (s : State) (va : Nat) (phase : BitVec 32) : State :=
  (s.barrierWaiters va).foldl (fun t c => t.push .barrierNotice (.ctxPhase c phase)) s

/-- The check of `SP`: only in a user context (R340), reason 0x5; and rb 0 where it names no operand, reason 0x7. -/
def State.spCheck (s : State) (sp : Bool) (major : Nat) (rbZero : Bool) : Except Stop Unit :=
  if sp && kindOf s.cur != .user then illegal 5 4 major
  else if sp && !rbZero then illegal 7 4 major
  else .ok ()

/-- The phase that a form names (R357, R358): `STRIP.INDEX`, or the low half of a register. -/
def State.phaseOf (s : State) (sp : Bool) (r : XReg) : BitVec 32 := if sp then s.me.strip else (s.rx r).setWidth 32

/-- `POST` (R357). -/
def execPost (d a b : XReg) (_sc : BitVec 3) (sp : Bool) (s : State) : Host.Outcome State Fault Refusal :=
  act s (do
    s.permit 4 4 2
    s.spCheck sp 4 (b == 0)
    let (t, w) ← s.wordAt a 8 rRWA false
    let bar := barrierOf (t.wordVal w 8)
    let r := bar.post (s.phaseOf sp b)
    let u := (if r.2 = 0 || r.2 = 4 then t.setWord w 8 r.1.word else t).replied w d (BitVec.ofNat 64 r.2)
    .ok (if r.2 = 4 then u.notify w.va r.1.phase else u))

/-- `PWAIT` (R358). -/
def execPwait (d a b : XReg) (_sc : BitVec 3) (sp : Bool) (s : State) : Host.Outcome State Fault Refusal :=
  act s (do
    s.permit 4 4 3
    s.spCheck sp 4 (b == 0)
    let (t, w) ← s.wordAt a 8 rRA false
    let p := s.phaseOf sp b
    let phase := (barrierOf (t.wordVal w 8)).phase
    if phaseDone phase p then .ok (t.replied w d (phase.setWidth 64))
    else .ok (t.park (.phase (BitVec.ofNat 56 w.va) p d t.ilen)))

/-- `WAITT` (R358): a limit of 0 tests once. -/
def execWaitt (d a b : XReg) (_sc : BitVec 3) (sp : Bool) (s : State) : Host.Outcome State Fault Refusal :=
  act s (do
    s.permit 4 6 0
    s.spCheck sp 6 true
    let (t, w) ← s.wordAt a 8 rRA false
    let p := s.phaseOf sp d
    if phaseDone (barrierOf (t.wordVal w 8)).phase p then .ok (t.replied w d 0)
    else if s.rx b = 0 then .ok (t.replied w d 1)
    else .ok (t.park (.timed (BitVec.ofNat 56 w.va) p ((s.die (dieOf s.cur)).dcyc.toNat + (s.rx b).toNat) d t.ilen)))

/-- A parked read of a word completed with the reply of the word's place, which is kept (R342). -/
def State.wakeReply (s : State) (c : CtxId) (rd : XReg) (len : Nat) (v : Word) (va : Nat) : State :=
  let t := s.wakeRead c rd len v va
  match s.fwLoc va with
  | some l => t.linkedFor c l v
  | none => t

/-- A notice of a phase reaching a waiting context (R358): the wait completes if phase p is complete; a limited one in a cycle
past its deadline has timed out. -/
def State.phaseNotice (s : State) (c : CtxId) (phase : BitVec 32) : State :=
  if (s.ctx c).st != .wait then s
  else
    match (s.ctx c).wait with
    | some (.phase va p rd len) => if phaseDone phase p then s.wakeReply c rd len (phase.setWidth 64) va.toNat else s
    | some (.timed va p dl rd len) =>
      if phaseDone phase p then s.wakeReply c rd len (if (s.die (dieOf c)).dcyc.toNat ≤ dl then 0 else 1) va.toNat else s
    | _ => s

/-- `BARRIER_NOTICE` (R358). -/
def execBarrierNotice (s : State) : Host.Outcome State Fault Refusal :=
  match s.opd with
  | .ctxPhase c phase => .next (s.phaseNotice c phase)
  | _ => .next s

/-- `WAITT_TIMEOUT` (R358): `DCYC` has passed the deadline. -/
def execWaittTimeout (s : State) : Host.Outcome State Fault Refusal :=
  match s.opd with
  | .ctx c =>
    .next (
      match (s.ctx c).st, (s.ctx c).wait with
      | .wait, some (.timed va _ dl rd len) =>
        if dl < (s.die (dieOf c)).dcyc.toNat then s.wakeRead c rd len 1 va.toNat else s
      | _, _ => s)
  | _ => .next s

/-! ## Strip waits (R359) -/

/-- The advances that have not completed. -/
def Ctx.stripLag (x : Ctx) : Nat := (x.strip - x.stripDone).toNat

/-- `SWAIT` (R359, R94): while its condition is unmet, the context is held, and VQ entries leave meanwhile. -/
def execSwait (s : State) : Host.Outcome State Fault Refusal :=
  act s (do
    s.permit 4 5 0
    let lim := s.immOpd.toNat
    if s.me.stripLag ≤ lim then .ok s.finish else .error (.hold s))

/-! ## The post ring (R360) -/

/-- A channel at package reset. -/
def Chan.reset : Chan := { frontier := 0, window := 0 }

/-- The frontier moved past the posts that its window begins with (R360). -/
def Chan.advance (ch : Chan) (fuel : Nat) : Chan :=
  match fuel with
  | 0 => ch
  | k + 1 => if ch.window.getLsbD 0 then Chan.advance { frontier := ch.frontier + 1, window := ch.window >>> 1 } k else ch

/-- A channel of the executing context's die. -/
def State.chan (s : State) (c : Nat) : Chan := (s.die (dieOf s.cur)).chans.get Chan.reset c

/-- The state with a channel of the executing context's die replaced, and every context of the die whose wait on it has ended
let on: an `IWAIT` with the frontier, an `IPOST` to issue again. -/
def State.setChan (s : State) (c : Nat) (ch : Chan) : State :=
  let d := dieOf s.cur
  let t := s.setDie d { s.die d with chans := (s.die d).chans.set c ch }
  t.waiters.foldl (fun u (k, w) =>
    match w with
    | .frontier cc i rd len =>
      if dieOf k = d && cc = c && decide (i.toNat < ch.frontier.toNat) then u.wakeWith k rd len ch.frontier else u
    | .post cc i _ _ => if dieOf k = d && cc = c && decide (i.toNat < ch.frontier.toNat + 256) then u.wakeRetry k else u
    | _ => u) t

/-- The checks of a post-ring form (R360): the channel number, and its owner. -/
def State.chanCheck (s : State) (sel : Nat) (a : XReg) : Except Stop Nat := do
  s.permit 4 4 sel
  let c := (s.rx a).toNat
  if 15 < c then illegal 7 4 4
  if ((s.die (dieOf s.cur)).postown[c]?).getD 0 != s.me.pdid then .error (.freeze 0 0)
  .ok c

/-- `IPOST` (R360); a release (R92). -/
def execIpost (d a b : XReg) (rst : Bool) (s : State) : Host.Outcome State Fault Refusal :=
  act s (do
    let c ← s.chanCheck 0 a
    let i := s.rx b
    let ch := s.chan c
    let t := s.resync
    if rst then .ok ((t.wx d 0).finish.setChan c { frontier := i, window := 0 })
    else if i.toNat < ch.frontier.toNat then .ok (t.wx d 1).finish
    else if ch.frontier.toNat + 256 ≤ i.toNat then .ok (t.park (.post c i d t.ilen))
    else
      let w := ch.window ||| BitVec.ofNat 256 (2 ^ (i.toNat - ch.frontier.toNat))
      .ok ((t.wx d 0).finish.setChan c (Chan.advance { ch with window := w } 256)))

/-- `IWAIT` (R360). -/
def execIwait (d a b : XReg) (s : State) : Host.Outcome State Fault Refusal :=
  act s (do
    let c ← s.chanCheck 1 a
    let ch := s.chan c
    if (s.rx b).toNat < ch.frontier.toNat then .ok (s.wx d ch.frontier).finish
    else .ok (s.park (.frontier c (s.rx b) d s.ilen)))

/-! ## Tickets (R361) -/

/-- `TKGET` (R361). -/
def execTkget (d a b : XReg) (_sc : BitVec 3) (s : State) : Host.Outcome State Fault Refusal :=
  act s (do
    s.permit 4 7 2
    let n := (s.rx b).toNat
    if n < 1 || 4096 < n then illegal 7 4 7
    let (t, w) ← s.wordAt a 4 rRWA false
    let old := t.wordVal w 4
    .ok ((t.setWord w 4 ((old + n) % 2 ^ 32)).replied w d (BitVec.ofNat 64 old)))

/-- `TCWAIT` (R361). -/
def execTcwait (d a b : XReg) (_sc : BitVec 3) (s : State) : Host.Outcome State Fault Refusal :=
  act s (do
    s.permit 4 7 0
    let (t, w) ← s.wordAt a 4 rRA false
    let k : BitVec 32 := (s.rx b).setWidth 32
    let lag := (k - BitVec.ofNat 32 (t.wordVal w 4)).toNat
    if lag = 0 then .ok (t.replied w d 0)
    else if 2 ^ 31 ≤ lag then .ok (t.replied w d 1)
    else .ok (t.park (.ticket (BitVec.ofNat 56 w.va) k d t.ilen)))

/-- The contexts that wait for a counter's value let on (R361). -/
def State.ticketWake (s : State) (va : Nat) (v : BitVec 32) : State :=
  s.waiters.foldl (fun u (c, w) =>
    match w with
    | .ticket a t rd len => if a.toNat = va && t == v then (u.wakeRead c rd len 0 va).linkedBy (srcKey c) 0 else u
    | _ => u) s

/-- `TCDONE` (R361). -/
def execTcdone (d a b : XReg) (_sc : BitVec 3) (s : State) : Host.Outcome State Fault Refusal :=
  act s (do
    s.permit 4 7 1
    let (t, w) ← s.wordAt a 4 rRWA false
    let v : BitVec 32 := BitVec.ofNat 32 (t.wordVal w 4)
    if v = (s.rx b).setWidth 32 then
      .ok (((t.setWord w 4 (v + 1).toNat).replied w d 0).ticketWake w.va (v + 1))
    else .ok (t.replied w d 1))

/-! ## Waits on words that a plain store has changed -/

/-- The bytes of a word that a context waits on, as its home holds them. -/
def State.waitWord (s : State) (c : CtxId) (va : VAddr) (n : Nat) : Option Nat :=
  match s.locate { s.reqAs 0 with die := dieOf c, core := none, staging := some (stagingOf c) } 0 va.toNat with
  | .ok (_, l) => some (ofBytes (s.st.get l n))
  | .error _ => none

/-- What a context waits on has come about without a notice: the phase or counter in memory is the one it waits for. -/
def State.pollWait (s : State) (c : CtxId) (w : Wait) : State :=
  match w with
  | .phase va p _ _ =>
    match s.waitWord c va 8 with
    | some v => if phaseDone (barrierOf v).phase p then s.push .barrierNotice (.ctxPhase c (barrierOf v).phase) else s
    | none => s
  | .timed va p _ _ _ =>
    match s.waitWord c va 8 with
    | some v => if phaseDone (barrierOf v).phase p then s.push .barrierNotice (.ctxPhase c (barrierOf v).phase) else s
    | none => s
  | .ticket va t rd len =>
    match s.waitWord c va 4 with
    | some v => if BitVec.ofNat 32 v = t then (s.wakeRead c rd len 0 va.toNat).linkedBy (srcKey c) 0 else s
    | none => s
  | _ => s

/-- Instances that an owner has joined and that have not ended (R282, R402). -/
def State.collsJoined (s : State) (o : Owner) : Nat :=
  (s.collectives.filter (fun k => !k.ended && k.parts.any (fun p => p.who == o))).length

/-- Commands of an owner that have not completed (R275, R402). -/
def State.copiesOf (s : State) (o : Owner) : Nat :=
  (s.dies.flatMap (fun (_, d) => d.engines.flatMap (fun (_, q) => q.filter (fun k => k.owner == o)))).length

/-! ## Fences (R364, R365) -/

/-- `FENCE` (R364): the orderings are waits, for the VQ entries among them; bit 4 discards every word fetched ahead. -/
def execFence (_sc : BitVec 3) (n : BitVec 8) (s : State) : Host.Outcome State Fault Refusal :=
  act s (do
    s.permit 4 9 0
    if n = 0 || 32 ≤ n.toNat then illegal 7 4 9
    let t := s.resync
    .ok (if n.getLsbD 4 then t.withMe (t.me.fetchFrom t.st) else t).finish)

/-- `FENCEX` (R365). -/
def execFencex (_sc : BitVec 3) (n : BitVec 8) (s : State) : Host.Outcome State Fault Refusal :=
  act s (do
    s.permit 4 10 0
    if 4 < bitsOf n.toNat 0 3 || 4 < bitsOf n.toNat 3 3 || bitsOf n.toNat 6 2 != 0 then illegal 7 4 10
    let t := s.resync
    .ok (t.withMe (t.me.fencePaths (bitsOf n.toNat 0 3) (bitsOf n.toNat 3 3))).finish)

end Sys2Proof.Machine
end

