-- ==== Sys2Proof/Machine/Num.lean ====
section
/-! DEFINITION. Number formats and arithmetic (spec/05_numbers.md R132 to R151): values are exact until the one rounding. -/

namespace Sys2Proof.Machine

/-! ## Integers -/

/-- A result with the flags that its computation raises. -/
structure NRes where
  v : Nat
  fl : Raised
  deriving DecidableEq, Repr

/-- Least and greatest value of an integer format. -/
def intLo (w : Nat) (signed : Bool) : Int := if signed then -(2 ^ (w - 1) : Int) else 0
def intHi (w : Nat) (signed : Bool) : Int := if signed then 2 ^ (w - 1) - 1 else 2 ^ w - 1

/-- `SatInt` (R133), as bits of width `w`. -/
def satInt (v : Int) (w : Nat) (signed : Bool) : NRes :=
  if v < intLo w signed then ⟨wrapInt w (intLo w signed), fSAT⟩
  else if intHi w signed < v then ⟨wrapInt w (intHi w signed), fSAT⟩
  else ⟨wrapInt w v, Raised.none⟩

/-- The value of `w` bits as a signed or unsigned integer. -/
def intVal (w : Nat) (signed : Bool) (v : Nat) : Int := if signed then signedNat w v else ((v % 2 ^ w : Nat) : Int)

/-! ## Floating formats -/

/-- The floating formats of R134, by what their greatest exponent field holds. -/
inductive FKind where
  | wide | e5m2 | e4m3 | plain
  deriving DecidableEq, Repr

/-- A floating format (R134): exponent bits, fraction bits, bias. `subs` is false for E2M1, which has no tiny results (R135). -/
structure Fmt where
  e : Nat
  f : Nat
  bias : Nat
  kind : FKind
  subs : Bool
  deriving DecidableEq, Repr

def fp32 : Fmt := ⟨8, 23, 127, .wide, true⟩
def fp16 : Fmt := ⟨5, 10, 15, .wide, true⟩
def bf16 : Fmt := ⟨8, 7, 127, .wide, true⟩
def e5m2 : Fmt := ⟨5, 2, 15, .e5m2, true⟩
def e4m3 : Fmt := ⟨4, 3, 7, .e4m3, true⟩
def e3m2 : Fmt := ⟨3, 2, 3, .plain, true⟩
def e2m3 : Fmt := ⟨2, 3, 1, .plain, true⟩
def e2m1 : Fmt := ⟨2, 1, 1, .plain, false⟩

/-- Width of a format in bits. -/
def Fmt.width (t : Fmt) : Nat := 1 + t.e + t.f

/-- Code of the largest finite magnitude (R134). -/
def Fmt.maxCode (t : Fmt) : Nat :=
  match t.kind with
  | .wide => (2 ^ t.e - 1) * 2 ^ t.f - 1
  | .e5m2 => (2 ^ t.e - 1) * 2 ^ t.f - 1
  | .e4m3 => 2 ^ (t.e + t.f) - 2
  | .plain => 2 ^ (t.e + t.f) - 1

/-- Code of infinity, in the formats that have one. -/
def Fmt.infCode (t : Fmt) : Nat := (2 ^ t.e - 1) * 2 ^ t.f

/-- The canonical NaN (R134); 0 in a format that has none (R141). -/
def Fmt.nan (t : Fmt) : Nat :=
  match t.kind with
  | .wide => t.infCode + 2 ^ (t.f - 1)
  | .e5m2 => t.infCode + 2 ^ (t.f - 1)
  | .e4m3 => 2 ^ (t.e + t.f) - 1
  | .plain => 0

/-- The format has a NaN. -/
def Fmt.hasNan (t : Fmt) : Bool := t.kind != .plain
/-- The format is narrow (R134). -/
def Fmt.narrow (t : Fmt) : Bool := t.kind != .wide

/-- Exponent of the least place of the format's subnormals. -/
def Fmt.qmin (t : Fmt) : Int := 1 - (t.bias : Int) - (t.f : Int)

/-- A floating value: NaN, signalling or not; an infinity; or the finite value (−1)^neg × m × 2^e. -/
inductive FV where
  | nan (sig : Bool)
  | inf (neg : Bool)
  | fin (neg : Bool) (m : Nat) (e : Int)
  deriving DecidableEq, Repr

/-- The value of a code (R134 to R136). -/
def Fmt.val (t : Fmt) (code : Nat) : FV :=
  let neg := bitOf code (t.e + t.f)
  let e := bitsOf code t.f t.e
  let f := bitsOf code 0 t.f
  let special : Bool :=
    match t.kind with
    | .wide => e == 2 ^ t.e - 1
    | .e5m2 => e == 2 ^ t.e - 1
    | .e4m3 => e == 2 ^ t.e - 1 && f == 2 ^ t.f - 1
    | .plain => false
  if special then
    (match t.kind with
     | .e4m3 => .nan false
     | _ => if f = 0 then .inf neg else .nan (!bitOf f (t.f - 1)))
  else if e = 0 then .fin neg f t.qmin
  else .fin neg (2 ^ t.f + f) (t.qmin + ((e - 1 : Nat) : Int))

/-- Rounding modes (R140). -/
inductive RMode where
  | rne | rtz | rup | rdn | rmm
  deriving DecidableEq, Repr

/-- The mode of a code; the codes that no register can hold count as RNE. -/
def RMode.ofCode (n : Nat) : RMode :=
  match n with
  | 1 => .rtz
  | 2 => .rup
  | 3 => .rdn
  | 4 => .rmm
  | _ => .rne

/-- The magnitude is rounded up from `fl` in a mode, where the part dropped compares with a half as `gt` (more), `eq` (just a
half), and `rem` says that something is dropped. -/
def roundsUp (md : RMode) (neg odd gt eq rem : Bool) : Bool :=
  match md with
  | .rne => gt || (eq && odd)
  | .rtz => false
  | .rup => rem && !neg
  | .rdn => rem && neg
  | .rmm => gt || eq

/-- `m` × 2^`e`, with more below its last place if `sticky`, rounded to a multiple of 2^`q`: the multiple, and whether it
differs from the value. -/
def roundAt (md : RMode) (neg : Bool) (m : Nat) (e : Int) (sticky : Bool) (q : Int) : Nat × Bool :=
  if q ≤ e then (m * 2 ^ (e - q).toNat, sticky)
  else
    let s := (q - e).toNat
    let fl := m / 2 ^ s
    let r := m % 2 ^ s
    let half := 2 ^ (s - 1)
    let rem := r != 0 || sticky
    let gt := decide (half < r) || (r == half && sticky)
    let up := roundsUp md neg (fl % 2 == 1) gt (r == half && !sticky) rem
    (if up then fl + 1 else fl, rem)

/-- What overflow delivers (R142): `fromInf` where the input is infinite, which raises no `NX`. -/
def overflow (t : Fmt) (md : RMode) (ovnan neg fromInf : Bool) : NRes :=
  let sg := if neg then 2 ^ (t.e + t.f) else 0
  let ofl : Raised := { Raised.none with of := true, nx := !fromInf }
  let sat : Raised := { Raised.none with sat := true, nx := !fromInf }
  match t.kind with
  | .wide =>
    let toInf : Bool :=
      match md with
      | .rne => true
      | .rmm => true
      | .rtz => false
      | .rup => !neg
      | .rdn => neg
    ⟨sg + (if toInf then t.infCode else t.maxCode), ofl⟩
  | .plain => ⟨sg + t.maxCode, sat⟩
  | _ => if ovnan then ⟨t.nan, ofl⟩ else ⟨sg + t.maxCode, sat⟩

/-- `RoundToFormat` (R141, R142) of a finite value given as (−1)^neg × `m` × 2^`e`, with more below its last place if
`sticky`. -/
def roundFin (t : Fmt) (md : RMode) (ovnan neg : Bool) (m : Nat) (e : Int) (sticky : Bool) : NRes :=
  let sg := if neg then 2 ^ (t.e + t.f) else 0
  if m = 0 && !sticky then ⟨sg, Raised.none⟩
  else
    let q := ((Nat.log2 m : Nat) : Int) + e - (t.f : Int)
    let qb := max q t.qmin
    let r := roundAt md neg m e sticky qb
    let code := (qb - t.qmin).toNat * 2 ^ t.f + r.1
    if t.maxCode < code then overflow t md ovnan neg false
    else
      let ru := roundAt md neg m e sticky q
      let tiny := t.subs && decide (q < t.qmin) && decide (ru.1 < 2 ^ (1 - (t.bias : Int) - q).toNat)
      ⟨sg + code, { Raised.none with nx := r.2, uf := tiny && r.2 }⟩

/-- The canonical NaN of a format as a result with flags; without one, +0 and `NV` (R141). -/
def nanRes (t : Fmt) (fl : Raised) : NRes := if t.hasNan then ⟨t.nan, fl⟩ else ⟨0, fl.or fNV⟩

/-- `RoundToFormat` (R141) of any value. -/
def roundTo (t : Fmt) (md : RMode) (ovnan : Bool) (x : FV) : NRes :=
  match x with
  | .nan _ => nanRes t Raised.none
  | .inf neg => if t.narrow then overflow t md ovnan neg true else ⟨(if neg then 2 ^ (t.e + t.f) else 0) + t.infCode, Raised.none⟩
  | .fin neg m e => roundFin t md ovnan neg m e false

/-- `NV` for a signalling NaN (R136). -/
def sigNv (x : FV) : Raised :=
  match x with
  | .nan true => fNV
  | _ => Raised.none

def FV.isNan (x : FV) : Bool :=
  match x with
  | .nan _ => true
  | _ => false

/-- The value with its sign changed. -/
def FV.neg (x : FV) : FV :=
  match x with
  | .nan s => .nan s
  | .inf n => .inf (!n)
  | .fin n m e => .fin (!n) m e

/-- A finite value's signed multiple of 2^`q`, for `q` at most its exponent. -/
def scaled (neg : Bool) (m : Nat) (e q : Int) : Int :=
  let v := ((m * 2 ^ (e - q).toNat : Nat) : Int)
  if neg then -v else v

/-- An exact value, with the flag of an invalid operation that formed it. -/
structure Exact where
  x : FV
  fl : Raised
  deriving DecidableEq, Repr

/-- The sum of two finite values, exact; a zero sum takes the sign that R136 gives it. -/
def addFin (md : RMode) (na : Bool) (ma : Nat) (ea : Int) (nb : Bool) (mb : Nat) (eb : Int) : FV :=
  let q := min ea eb
  let s := scaled na ma ea q + scaled nb mb eb q
  if s = 0 then .fin (if na == nb then na else md == .rdn) 0 q
  else .fin (decide (s < 0)) s.natAbs q

/-- The exact sum (R136). -/
def exactAdd (md : RMode) (a b : FV) : Exact :=
  match a, b with
  | .nan _, _ => ⟨.nan false, (sigNv a).or (sigNv b)⟩
  | _, .nan _ => ⟨.nan false, sigNv b⟩
  | .inf x, .inf y => if x == y then ⟨.inf x, Raised.none⟩ else ⟨.nan false, fNV⟩
  | .inf x, _ => ⟨.inf x, Raised.none⟩
  | _, .inf y => ⟨.inf y, Raised.none⟩
  | .fin na ma ea, .fin nb mb eb => ⟨addFin md na ma ea nb mb eb, Raised.none⟩

/-- The exact product (R136). -/
def exactMul (a b : FV) : Exact :=
  match a, b with
  | .nan _, _ => ⟨.nan false, (sigNv a).or (sigNv b)⟩
  | _, .nan _ => ⟨.nan false, sigNv b⟩
  | .inf x, .inf y => ⟨.inf (x != y), Raised.none⟩
  | .inf x, .fin n m _ => if m = 0 then ⟨.nan false, fNV⟩ else ⟨.inf (x != n), Raised.none⟩
  | .fin n m _, .inf y => if m = 0 then ⟨.nan false, fNV⟩ else ⟨.inf (n != y), Raised.none⟩
  | .fin na ma ea, .fin nb mb eb => ⟨.fin (na != nb) (ma * mb) (ea + eb), Raised.none⟩

/-- An exact value rounded to a format, with the flags of both. -/
def Exact.round (r : Exact) (t : Fmt) (md : RMode) (ovnan : Bool) : NRes :=
  let o := roundTo t md ovnan r.x
  ⟨o.v, r.fl.or o.fl⟩

/-- Addition in a format, rounded once. -/
def fAdd (t : Fmt) (md : RMode) (a b : FV) : NRes := (exactAdd md a b).round t md false
/-- Multiplication in a format, rounded once. -/
def fMul (t : Fmt) (md : RMode) (a b : FV) : NRes := (exactMul a b).round t md false

/-- The exact a × b + c (R151), with the flags of an invalid product or sum. -/
def exactFma (md : RMode) (a b c : FV) : Exact :=
  let p := exactMul a b
  let s := exactAdd md p.x c
  ⟨s.x, p.fl.or s.fl⟩

/-- The sign of a value; a NaN has none. -/
def FV.sign (x : FV) : Bool :=
  match x with
  | .nan _ => false
  | .inf n => n
  | .fin n _ _ => n

/-- Division in a format (R136, R144), rounded once. -/
def fDiv (t : Fmt) (md : RMode) (a b : FV) : NRes :=
  let sg := a.sign != b.sign
  let infR : Nat := (if sg then 2 ^ (t.e + t.f) else 0) + t.infCode
  match a, b with
  | .nan _, _ => nanRes t ((sigNv a).or (sigNv b))
  | _, .nan _ => nanRes t (sigNv b)
  | .inf _, .inf _ => nanRes t fNV
  | .inf _, .fin _ _ _ => ⟨infR, Raised.none⟩
  | .fin _ _ _, .inf _ => ⟨if sg then 2 ^ (t.e + t.f) else 0, Raised.none⟩
  | .fin _ ma ea, .fin _ mb eb =>
    if mb = 0 then (if ma = 0 then nanRes t fNV else ⟨infR, fDZ⟩)
    else
      let k := t.f + 4 + Nat.log2 mb
      let num := ma * 2 ^ k
      roundFin t md false sg (num / mb) (ea - eb - (k : Int)) (num % mb != 0)

/-- The integer square root, found bit by bit from bit `n` − 1 down. -/
def isqrt (n v acc : Nat) : Nat :=
  match n with
  | 0 => acc
  | k + 1 => if (acc + 2 ^ k) * (acc + 2 ^ k) ≤ v then isqrt k v (acc + 2 ^ k) else isqrt k v acc

/-- Square root in a format (R136), rounded once. -/
def fSqrt (t : Fmt) (md : RMode) (a : FV) : NRes :=
  match a with
  | .nan _ => nanRes t (sigNv a)
  | .inf n => if n then nanRes t fNV else ⟨t.infCode, Raised.none⟩
  | .fin n m e =>
    if m = 0 then ⟨if n then 2 ^ (t.e + t.f) else 0, Raised.none⟩
    else if n then nanRes t fNV
    else
      let k := 2 * (t.f + 4) + (if (e % 2 == 1) then 1 else 0)
      let v := m * 2 ^ k
      let r := isqrt (Nat.log2 v / 2 + 1) v 0
      roundFin t md false false r ((e - (k : Int)) / 2) (r * r != v)

/-- A value's order among the finite and infinite values: exact comparison of two values that are not NaN. -/
def FV.lt (a b : FV) : Bool :=
  match a, b with
  | .inf x, .inf y => x && !y
  | .inf x, _ => x
  | _, .inf y => !y
  | .fin na ma ea, .fin nb mb eb => decide (scaled na ma ea (min ea eb) < scaled nb mb eb (min ea eb))
  | _, _ => false

/-- Two values that are not NaN are equal: −0 equals +0. -/
def FV.eqv (a b : FV) : Bool := !a.isNan && !b.isNan && !a.lt b && !b.lt a

/-! ## Conversions (R139, R143) -/

/-- `RoundInt` (R139): a finite value rounded to an integer, and whether it differs. -/
def roundInt (md : RMode) (neg : Bool) (m : Nat) (e : Int) : Int × Bool :=
  let r := roundAt md neg m e false 0
  (if neg then -(r.1 : Int) else (r.1 : Int), r.2)

/-- Floating point to an integer format (R143). -/
def fToInt (md : RMode) (x : FV) (w : Nat) (signed : Bool) : NRes :=
  match x with
  | .nan _ => ⟨0, fNV⟩
  | .inf n => ⟨wrapInt w (if n then intLo w signed else intHi w signed), fSAT⟩
  | .fin n m e =>
    let r := roundInt md n m e
    let o := satInt r.1 w signed
    ⟨o.v, o.fl.or (if r.2 then fNX else Raised.none)⟩

/-- An integer as a floating value. -/
def intFV (v : Int) : FV := .fin (decide (v < 0)) v.natAbs 0

/-- An integer converted to a format (R143). -/
def intToF (t : Fmt) (md : RMode) (ovnan : Bool) (v : Int) : NRes := roundTo t md ovnan (intFV v)

/-- Between floating formats: exact, then rounded; a signalling NaN raises `NV` (R143). -/
def fToF (t : Fmt) (md : RMode) (ovnan : Bool) (x : FV) : NRes :=
  let o := roundTo t md ovnan x
  ⟨o.v, o.fl.or (sigNv x)⟩

/-- The value times 2^`k`. -/
def FV.scale (x : FV) (k : Int) : FV :=
  match x with
  | .fin n m e => .fin n m (e + k)
  | y => y

/-! ## Microscaling (R137 to R139) -/

/-- The MX element formats (R138). -/
inductive MxFmt where
  | fl (t : Fmt) (emax : Nat)
  | int8
  deriving DecidableEq, Repr

def mxE4m3 : MxFmt := .fl e4m3 8
def mxE5m2 : MxFmt := .fl e5m2 15
def mxE3m2 : MxFmt := .fl e3m2 4
def mxE2m3 : MxFmt := .fl e2m3 2
def mxE2m1 : MxFmt := .fl e2m1 2

/-- Width of an MX element. -/
def MxFmt.width (f : MxFmt) : Nat :=
  match f with
  | .fl t _ => t.width
  | .int8 => 8

/-- Emax of an MX format. -/
def MxFmt.emax (f : MxFmt) : Nat :=
  match f with
  | .fl _ e => e
  | .int8 => 0

/-- The value of an element without its scale (R138). -/
def MxFmt.elem (f : MxFmt) (code : Nat) : FV :=
  match f with
  | .fl t _ => t.val code
  | .int8 => (intFV (signedNat 8 code)).scale (-6)

/-- The value of an element under an E8M0 scale code (R137): NaN where the scale is NaN. -/
def mxVal (f : MxFmt) (scale code : Nat) : FV :=
  if scale = 255 then .nan false else (f.elem code).scale ((scale : Int) - 127)

/-- floor(log2) of a finite nonzero value. -/
def floorLog2 (m : Nat) (e : Int) : Int := ((Nat.log2 m : Nat) : Int) + e

/-- The greatest exponent among finite nonzero values, if any. -/
def topExp (l : List FV) : Option Int :=
  l.foldl (fun o x =>
    match x with
    | .fin _ m e =>
      if m = 0 then o
      else (match o with
        | none => some (floorLog2 m e)
        | some k => some (max k (floorLog2 m e)))
    | _ => o) none

/-- One element of an MX block (R139). -/
def mxElem (f : MxFmt) (md : RMode) (ovnan : Bool) (x : FV) (X : Int) : NRes :=
  match f with
  | .fl t _ => roundTo t md ovnan (x.scale (-X))
  | .int8 =>
    match x with
    | .fin n m e =>
      let r := roundInt md n m (e + 6 - X)
      let o := satInt r.1 8 true
      ⟨o.v, o.fl.or (if r.2 then fNX else Raised.none)⟩
    | _ => ⟨0, Raised.none⟩

/-- A converted MX block: its scale code, elements and flags. -/
structure MxBlockRes where
  scale : Nat
  els : List Nat
  fl : Raised
  deriving DecidableEq, Repr

/-- `MxBlock` (R139). -/
def mxBlock (f : MxFmt) (md : RMode) (ovnan : Bool) (x : List FV) : MxBlockRes :=
  if x.any (fun v => match v with
      | .fin _ _ _ => false
      | _ => true) then ⟨255, x.map (fun _ => 0), fNV⟩
  else match topExp x with
    | none => ⟨0, x.map (fun _ => 0), Raised.none⟩
    | some k =>
      let X0 := k - (f.emax : Int)
      let X := if X0 < -127 then -127 else if 127 < X0 then 127 else X0
      let els := x.map (fun v => mxElem f md ovnan v X)
      ⟨(X + 127).toNat, els.map (·.v),
       els.foldl (fun fl r => fl.or r.fl) (if X = X0 then Raised.none else fSAT)⟩

/-! ## RNS48 (R147 to R149) -/

/-- M, the product of the three moduli. -/
def rnsM : Nat := 65535 * 65536 * 65537

/-- The invalid marker. -/
def rnsBad : Nat := 2 ^ 64 - 1

/-- A word of three residues. -/
def rnsWord (c0 c1 c2 : Nat) : Nat := c2 * 2 ^ 32 + c1 * 2 ^ 16 + c0

/-- The word is valid (R147). -/
def rnsValid (w : Nat) : Bool := decide (bitsOf w 0 16 < 65535) && decide (bitsOf w 32 17 < 65537) && bitsOf w 49 15 == 0

/-- `RnsFromInt` (R148). -/
def rnsOfInt (v : Int) : Nat := rnsWord (v % 65535).toNat (v % 65536).toNat (v % 65537).toNat

/-- `RnsAdd` (R148). -/
def rnsAdd (a b : Nat) : Nat :=
  if !rnsValid a || !rnsValid b then rnsBad
  else rnsWord ((bitsOf a 0 16 + bitsOf b 0 16) % 65535) ((bitsOf a 16 16 + bitsOf b 16 16) % 65536)
    ((bitsOf a 32 17 + bitsOf b 32 17) % 65537)

/-- `RnsToInt` (R149). -/
def rnsToInt (w : Nat) : Int :=
  let y := (bitsOf w 0 16 * 65536 * 65537 * 32768 + bitsOf w 16 16 * 65535 * 65537 * 65535 +
            bitsOf w 32 17 * 65535 * 65536 * 32769) % rnsM
  if rnsM / 2 ≤ y then (y : Int) - (rnsM : Int) else (y : Int)

/-- `RnsConvert` (R149). -/
def rnsConvert (w : Nat) (k : Int) (cnt : Nat) (md : RMode) : NRes :=
  if !rnsValid w then ⟨0x7FC00000, fRNGE⟩
  else
    let o := roundTo fp32 md false ((intFV (rnsToInt w)).scale k)
    ⟨o.v, o.fl.or (if 2 ^ 32 < cnt then fRNGE else Raised.none)⟩

/-! ## Order of summation (R150) -/

/-- One level of the tree: neighbours joined by `add`, an absent member passed by. -/
def treeLevel {α : Type} (add : α → α → α) (l : List (Option α)) : List (Option α) :=
  match l with
  | a :: b :: r =>
    (match a, b with
     | none, y => y
     | x, none => x
     | some x, some y => some (add x y)) :: treeLevel add r
  | l => l

/-- `TreeSum` (R150) over `depth` levels. -/
def treeFold {α : Type} (add : α → α → α) (depth : Nat) (l : List (Option α)) : Option α :=
  match depth with
  | 0 => l.headD none
  | d + 1 => treeFold add d (treeLevel add l)

/-- The least number of doublings of 1 that reach `n`. -/
def ceilLog2 (n : Nat) : Nat := if n ≤ 1 then 0 else Nat.log2 (n - 1) + 1

/-- `TreeSum` (R150): `none` where every element is absent. -/
def treeSum {α : Type} (add : α → α → α) (l : List (Option α)) : Option α := treeFold add (ceilLog2 l.length) l

end Sys2Proof.Machine
end

