-- ==== Sys2Proof/Machine/Sysreg.lean ====
section
/-! DEFINITION. System registers (spec/03_core.md R101 to R103, R85; spec/06_scalar.md R177, R178; spec/09_memory.md R247) and
the deliberate traps (spec/06_scalar.md R180). -/

namespace Sys2Proof.Machine

/-- Access that a kind of context has to a system register (R101, R284): whether it may read it and whether it may write it. -/
structure SysAccess where
  rd : Bool
  wr : Bool
  deriving DecidableEq, Repr

/-- No access. -/
def noAcc : SysAccess := ⟨false, false⟩
/-- `RO`. -/
def roAcc : SysAccess := ⟨true, false⟩
/-- `RW`. -/
def rwAcc : SysAccess := ⟨true, true⟩

/-- Access by column of R101: user, message and firmware contexts. -/
def byKind (k : Kind) (u m f : SysAccess) : SysAccess :=
  match k with
  | .user => u
  | .message => m
  | .firmware => f
  | .keep => u
  | .keepFw => f

/-- A register that no Keep context has (R284). -/
def notKeep (k : Kind) (a : SysAccess) : SysAccess := if k.onKeep then noAcc else a

/-- Access to system register `n` (R101; for Keep contexts R284). -/
def sysAccess (k : Kind) (n : Nat) : SysAccess :=
  match n with
  | 0x00 => rwAcc
  | 0x01 => rwAcc
  | 0x02 => notKeep k (byKind k rwAcc noAcc noAcc)
  | 0x03 => roAcc
  | 0x04 => notKeep k (byKind k rwAcc noAcc noAcc)
  | 0x05 => byKind k roAcc roAcc rwAcc
  | 0x06 => roAcc
  | 0x07 => byKind k roAcc roAcc rwAcc
  | 0x08 => notKeep k (byKind k roAcc noAcc noAcc)
  | 0x09 => notKeep k (byKind k roAcc noAcc noAcc)
  | 0x0A => byKind k roAcc roAcc rwAcc
  | 0x0B => byKind k roAcc roAcc rwAcc
  | 0x0C => byKind k roAcc roAcc rwAcc
  | 0x0D => notKeep k (byKind k roAcc noAcc noAcc)
  | 0x10 => roAcc
  | 0x11 => notKeep k (byKind k roAcc roAcc rwAcc)
  | 0x12 => notKeep k (byKind k roAcc noAcc rwAcc)
  | 0x13 => notKeep k (byKind k roAcc noAcc rwAcc)
  | 0x14 => notKeep k (byKind k roAcc noAcc rwAcc)
  | 0x15 => notKeep k (byKind k noAcc roAcc rwAcc)
  | 0x16 => notKeep k (byKind k noAcc roAcc rwAcc)
  | 0x17 => notKeep k (byKind k noAcc roAcc rwAcc)
  | 0x18 => notKeep k (byKind k noAcc roAcc rwAcc)
  | 0x19 => byKind k noAcc noAcc rwAcc
  | _ => noAcc

/-- The executing context's core. -/
def State.myCore (s : State) : Core := s.core s.cur.unit
def State.setMyCore (s : State) (c : Core) : State := s.setCore s.cur.unit c

/-- Bits of a map of 256 route tags that `TAGSEL` selects (R102). -/
def tagQuarter (m : BitVec 256) (q : BitVec 2) : Word := m.extractLsb' (64 * q.toNat) 64

/-- The map with the quarter that `TAGSEL` selects replaced. -/
def tagSetQuarter (m : BitVec 256) (q : BitVec 2) (v : Word) : BitVec 256 :=
  (m &&& ~~~((BitVec.allOnes 64).setWidth 256 <<< (64 * q.toNat))) ||| (v.setWidth 256 <<< (64 * q.toNat))

/-- `SNAP` as it reads (R102). -/
def Ctx.snapWord (x : Ctx) : Word := x.snapVersion.setWidth 64 ||| (if x.snapValid then BitVec.ofNat 64 (2 ^ 63) else 0)

/-- `CAUSE` as it reads (R102). -/
def Ctx.causeWord (x : Ctx) : Word := BitVec.ofNat 64 (x.causeCode.toNat + 2 ^ 16 * x.causeInfo.toNat)

/-- The value of a context-scope system register (R102). -/
def Ctx.sysRead (x : Ctx) (n : Nat) : Word :=
  match n with
  | 0x00 => x.flags.setWidth 64
  | 0x01 => x.rnd.setWidth 64
  | 0x02 => x.strip.setWidth 64
  | 0x03 => x.snapWord
  | 0x04 => x.travBudget.setWidth 64
  | 0x05 => x.spillBase.setWidth 64
  | 0x06 => x.pdid.setWidth 64
  | 0x07 => if x.chksb then 1 else 0
  | 0x08 => x.vec.vdirty.setWidth 64
  | 0x09 => x.vec.vhwm.setWidth 64
  | 0x0A => x.causeWord
  | 0x0B => x.faddr
  | 0x0C => x.fpc.setWidth 64
  | _ => x.vec.vl.setWidth 64

/-- The value of a system register for the executing context (R101, R102). -/
def State.sysRead (s : State) (n : Nat) : Word :=
  match n with
  | 0x10 => (s.die (dieOf s.cur)).dcyc
  | 0x11 => s.myCore.lpart.setWidth 64
  | 0x12 => s.myCore.share.setWidth 64
  | 0x13 => s.myCore.lsplit.setWidth 64
  | 0x14 => (s.pod (podOf s.cur)).poolgrp.setWidth 64
  | 0x15 => s.myCore.tagsel.setWidth 64
  | 0x16 => tagQuarter s.myCore.tagen s.myCore.tagsel
  | 0x17 => tagQuarter s.myCore.tagpend s.myCore.tagsel
  | 0x18 => s.myCore.spawnlim.setWidth 64
  | 0x19 => (s.die (dieOf s.cur)).agelim.setWidth 64
  | k => s.me.sysRead k

/-- A read of the register resynchronises and its result is interlocked (R177). -/
def sysResyncs (n : Nat) : Bool := n == 0x00 || n == 0x08 || n == 0x09

/-- `SRD` (R177). -/
def execSrd (d : XReg) (n : BitVec 8) (s : State) : Host.Outcome State Fault Refusal :=
  act s (if (sysAccess (kindOf s.cur) n.toNat).rd then
      (if sysResyncs n.toNat then .ok (s.resync.wx d (s.resync.sysRead n.toNat)).finish
       else .ok (s.wxLat d (s.sysRead n.toNat) latSysrd).finish)
    else illegal 8 0 27)

/-! ## Writes -/

/-- A context-scope system register written by `SWR` (R102, R178), but for `FLAGS` and `STRIP`. -/
def Ctx.sysWrite (x : Ctx) (n : Nat) (v : Word) : Ctx :=
  match n with
  | 0x01 => { x with rnd := v.setWidth 4 }
  | 0x04 => { x with travBudget := v.setWidth 32 }
  | 0x05 => { x with spillBase := v.setWidth 56 }
  | 0x07 => { x with chksb := v.getLsbD 0, haz := if v.getLsbD 0 && !x.chksb then [] else x.haz }
  | 0x0A => { x with causeCode := v.setWidth 8, causeInfo := v.extractLsb' 16 16 }
  | 0x0B => { x with faddr := v }
  | 0x0C => { x with fpc := v.setWidth 56 }
  | _ => x

/-- `FLAGS` written: the context resynchronises first, and all eight bits take the value (R146, R178). -/
def State.writeFlags (s : State) (v : Word) : State := s.resync.withMe { s.resync.me with flags := v.setWidth 8 }

/-- `STRIP` written: the context resynchronises first, and both strip counts take the value (R94, R178). -/
def State.writeStrip (s : State) (v : Word) : State :=
  s.resync.withMe { s.resync.me with strip := v.setWidth 32, stripDone := v.setWidth 32 }

/-- `CHKSB` written (R98, R178): every last write that lies before the `SWR` that sets `CHECK` is safe. -/
def State.writeChksb (s : State) (v : Word) : State := s.withMe (s.me.sysWrite 0x07 v)

/-- A budget fits a number of lanes (R53, R83): a length class no longer than 256 bits a lane, and no vector registers on a
side without lanes. -/
def fitsLanes (vregs vclass lanes : Nat) : Bool := vregs == 0 || decide (2 ^ (10 + vclass) ≤ 256 * lanes)

/-- Every firing bound to a core has a budget that fits the lanes of a partition (R85). -/
def State.lpartFits (s : State) (core : Nat) (split : BitVec 3) : Bool :=
  s.allCtx.all (fun (c, x) =>
    !(kindOf c == .user && c.unit == core && x.st != .idle) || fitsLanes x.vec.vregs x.vec.vclass (lanesOf split c.side))

/-- `LPART` written (R85, R103): refused values trap, a partition that a bound firing does not fit traps `LPART_BUSY`, and
otherwise the write is pending until the first later cycle in which both VQs are empty. DESIGN CHOICE: a write while another is pending takes its place, and the first
writer is held no longer (log entry 113). -/
def State.writeLpart (s : State) (v : Word) : Except Stop State :=
  if decide (4 < v.toNat % 8) then illegal 8 0 28
  else if s.lpartFits s.cur.unit (v.setWidth 3) then
    let t := s.setMyCore { s.myCore with lpartPend := some (v.setWidth 3, s.cur) }
    .ok { t with cycle := { t.cycle with lparts := s.cur.unit :: t.cycle.lparts } }
  else .error (.open_ cLpartBusy none)

/-- `SHARE` written: above 64 stores 64 (R103). -/
def State.writeShare (s : State) (v : Word) : State :=
  s.setMyCore { s.myCore with share := BitVec.ofNat 7 (min 64 (v.toNat % 128)) }

/-- `LSPLIT` written: held until no memory operation touches the core's scratch or cache (R247); it takes effect in
`LSPLIT_TAKE_EFFECT`. -/
def State.writeLsplit (s : State) (v : Word) : State :=
  (s.setMyCore { s.myCore with lsplitPend := some (v.setWidth 3, s.cur) }).push .lsplitTakeEffect (.unit s.cur.unit)

/-- A core's cache part written back and emptied (R247, R248): its own lines and texels (R259) where `own`, and the pool's lines in it. -/
def State.emptyPart (s : State) (core : Nat) (own : Bool) : State :=
  let d := core / 96
  let x := (s.die d).mapLines (fun _ => true) (fun l => l.filter (fun h => !(h.1.inPart core && (own || h.1 != .core core))))
  s.setDie d (if own then { x with texels := x.texels.filter (fun e => e.core != core) } else x)

/-- `POOLGRP` written (R248): the members of the pod's victim pool. A core whose bit is cleared drops the pool's lines in its cache
part. -/
def State.writePoolgrp (s : State) (v : Word) : State :=
  let pod := podOf s.cur
  let old := (s.pod pod).poolgrp
  let gone := (List.range 8).filter (fun k => old.getLsbD k && !v.getLsbD k)
  let t := gone.foldl (fun u k => u.emptyPart (8 * pod + k) false) s
  t.setPod pod { t.pod pod with poolgrp := v.setWidth 8 }

/-- A side's arrivals after its tags are enabled by a map: those held for an enabled tag are held no longer (R347). -/
def Side.unhold (x : Side) (tagen : BitVec 256) : Side :=
  { x with arrivals := x.arrivals.map (fun a => { a with held := a.held && !tagen.getLsbD a.msg.tag.toNat }) }

/-- `TAGEN` written for the selected quarter (R102): held arrivals of the tags enabled become eligible (R347). -/
def State.writeTagen (s : State) (v : Word) : State :=
  let en := tagSetQuarter s.myCore.tagen s.myCore.tagsel v
  let t := s.setMyCore { s.myCore with tagen := en }
  let k := s.cur.unit
  (t.setSide k false ((t.side k false).unhold en)).setSide k true ((t.side k true).unhold en)

/-- `TAGPEND` written: a 1 clears the bit (R102, R17). -/
def State.writeTagpend (s : State) (v : Word) : State :=
  s.setMyCore { s.myCore with
    tagpend := tagSetQuarter s.myCore.tagpend s.myCore.tagsel (tagQuarter s.myCore.tagpend s.myCore.tagsel &&& ~~~v) }

/-- `AGELIM` written (R74). -/
def State.writeAgelim (s : State) (v : Word) : State :=
  s.setDie (dieOf s.cur) { s.die (dieOf s.cur) with agelim := v.setWidth 32 }

/-- A system register written by the executing context (R178). -/
def State.sysWrite (s : State) (n : Nat) (v : Word) : Except Stop State :=
  match n with
  | 0x00 => .ok (s.writeFlags v)
  | 0x01 => if decide (4 < v.toNat % 8) then illegal 8 0 28 else .ok (s.withMe (s.me.sysWrite 0x01 v))
  | 0x02 => .ok (s.writeStrip v)
  | 0x07 => .ok (s.writeChksb v)
  | 0x11 => s.writeLpart v
  | 0x12 => .ok (s.writeShare v)
  | 0x13 => .ok (s.writeLsplit v)
  | 0x14 => .ok (s.writePoolgrp v)
  | 0x15 => .ok (s.setMyCore { s.myCore with tagsel := v.setWidth 2 })
  | 0x16 => .ok (s.writeTagen v)
  | 0x17 => .ok (s.writeTagpend v)
  | 0x18 => .ok (s.setMyCore { s.myCore with spawnlim := v.setWidth 16 })
  | 0x19 => .ok (s.writeAgelim v)
  | k => .ok (s.withMe (s.me.sysWrite k v))

/-- `SWR` of register `n` from register `d`, with the refusals of R101. -/
def State.swrOp (s : State) (d : XReg) (n : Nat) : Except Stop State := do
  if !(sysAccess (kindOf s.cur) n).wr then illegal 8 0 28
  let t ← s.sysWrite n (s.rx d)
  .ok t.finish

/-- `SWR` (R178). -/
def execSwr (d : XReg) (n : BitVec 8) (s : State) : Host.Outcome State Fault Refusal := act s (s.swrOp d n.toNat)

/-- A write of one named register: `SWR` of it from the register in the latch; without one nothing happens. -/
def State.swrNamed (s : State) (n : Nat) : Host.Outcome State Fault Refusal :=
  match s.opd with
  | .reg d => act s (s.swrOp d n)
  | _ => .next s

/-- `SWR_FLAGS` (R178): `SWR` of `FLAGS`. -/
def execSwrFlags (s : State) : Host.Outcome State Fault Refusal := s.swrNamed 0x00
/-- `SWR_STRIP` (R94): `SWR` of `STRIP`. -/
def execSwrStrip (s : State) : Host.Outcome State Fault Refusal := s.swrNamed 0x02
/-- `SWR_CHKSB` (R98): `SWR` of `CHKSB`. -/
def execSwrChksb (s : State) : Host.Outcome State Fault Refusal := s.swrNamed 0x07
/-- `SWR_LPART` (R85): `SWR` of `LPART`. -/
def execSwrLpart (s : State) : Host.Outcome State Fault Refusal := s.swrNamed 0x11
/-- `SWR_SHARE` (R87): `SWR` of `SHARE`. -/
def execSwrShare (s : State) : Host.Outcome State Fault Refusal := s.swrNamed 0x12
/-- `SWR_LSPLIT` (R247): `SWR` of `LSPLIT`. -/
def execSwrLsplit (s : State) : Host.Outcome State Fault Refusal := s.swrNamed 0x13
/-- `SWR_POOLGRP` (R248): `SWR` of `POOLGRP`. -/
def execSwrPoolgrp (s : State) : Host.Outcome State Fault Refusal := s.swrNamed 0x14
/-- `SWR_TAGEN` (R102): `SWR` of `TAGEN`. -/
def execSwrTagen (s : State) : Host.Outcome State Fault Refusal := s.swrNamed 0x16
/-- `SWR_TAGPEND` (R102): `SWR` of `TAGPEND`. -/
def execSwrTagpend (s : State) : Host.Outcome State Fault Refusal := s.swrNamed 0x17
/-- `SWR_AGELIM` (R74): `SWR` of `AGELIM`. -/
def execSwrAgelim (s : State) : Host.Outcome State Fault Refusal := s.swrNamed 0x19

/-! ## Pending writes -/

/-- Both VQs of a core are empty. -/
def State.vqsEmpty (s : State) (core : Nat) : Bool := (s.side core false).vq.isEmpty && (s.side core true).vq.isEmpty

/-- A pending `LPART` write takes effect in the first cycle in which both VQs are empty (R85). -/
def State.lpartEffect (s : State) (core : Nat) : State :=
  match (s.core core).lpartPend with
  | some (v, _) => if s.vqsEmpty core then s.setCore core { s.core core with lpart := v, lpartPend := none } else s
  | none => s

/-- `LPART_TAKE_EFFECT` (R85). -/
def execLpartTakeEffect (s : State) : Host.Outcome State Fault Refusal :=
  match s.opd with
  | .unit core => .next (s.lpartEffect core)
  | _ => .next s

/-- A pending `LSPLIT` write takes effect (R247): scratch bytes at and above the new size are lost, and read 0 if the scratch
grows again; the core's cache part is written back and emptied. -/
def State.lsplitEffect (s : State) (core : Nat) : State :=
  match (s.core core).lsplitPend with
  | some (v, _) =>
    let t := (s.emptyPart core true).setCore core { s.core core with lsplit := v, lsplitPend := none }
    { t with st := { t.st with scratch := t.st.scratch.clear (core * 2 ^ 19 + t.scratchSize core) ((core + 1) * 2 ^ 19) } }
  | none => s

/-- `LSPLIT_TAKE_EFFECT` (R247). -/
def execLsplitTakeEffect (s : State) : Host.Outcome State Fault Refusal :=
  match s.opd with
  | .unit core => .next (s.lsplitEffect core)
  | _ => .next s

/-! ## Deliberate traps -/

/-- `CAUSE.INFO` of a deliberate trap (R180): the code in [23:16] and the words of the chain in [26:24]. -/
def trapInfo (code : Word) (n : Nat) : BitVec 16 := BitVec.ofNat 16 (code.toNat % 256 + 256 * n)

/-- `TRAP` (R180): the trap is taken. -/
def execTrap (s : State) : Host.Outcome State Fault Refusal := act s (.error (.trap cTrap (trapInfo s.immOpd s.ilen) 0))

/-- `BRK` (R180): the trap is taken. -/
def execBrk (s : State) : Host.Outcome State Fault Refusal := act s (.error (.trap cBrk (trapInfo s.immOpd s.ilen) 0))

end Sys2Proof.Machine
end

