-- ==== Sys2Proof/Machine/Vec.lean ====
section
/-! DEFINITION. What vector instructions share (spec/07_vector.md R182 to R188, spec/03_core.md R88, R89, R94): the vector
type, elements, groups and masks, the record of what has been written, and the vector queue. -/

namespace Sys2Proof.Machine

/-! ## Vector type -/

/-- RLEN (R80). -/
def VecState.rlen (v : VecState) : Nat := 2 ^ (10 + v.vclass)
/-- SEW (R182). -/
def VecState.sew (v : VecState) : Nat := 8 * 2 ^ (v.vt.toNat % 8)
/-- g (R182). -/
def VecState.g (v : VecState) : Nat := 2 ^ bitsOf v.vt.toNat 4 2
/-- `vt.SGN`. -/
def VecState.sgn (v : VecState) : Bool := v.vt.getLsbD 6
/-- `vl` as a count. -/
def VecState.len (v : VecState) : Nat := v.vl.toNat

/-- The format of `vt` (R183) for an element width and a code. -/
def vtFmt (sew code : Nat) : Option Fmt :=
  match sew, code with
  | 8, 0 => some e4m3
  | 8, 1 => some e5m2
  | 8, 2 => some e3m2
  | 8, 3 => some e2m3
  | 8, 4 => some e2m1
  | 16, 0 => some fp16
  | 16, 1 => some bf16
  | 32, 0 => some fp32
  | _, _ => none

/-- The floating format of the elements (R183). -/
def VecState.fmt (v : VecState) : Option Fmt := vtFmt v.sew (bitsOf v.vt.toNat 8 3)

/-- `TypeValid` (R183) of a 16-bit type. -/
def typeValid (t : Nat) : Bool :=
  decide (t < 2 ^ 16) && decide (t % 8 < 4) && bitsOf t 3 1 == 0 && bitsOf t 7 1 == 0 && bitsOf t 11 5 == 0 &&
    ((vtFmt (8 * 2 ^ (t % 8)) (bitsOf t 8 3)).isSome || (t % 8 == 3 && bitsOf t 8 3 == 0))

/-- `VlMax` (R84). -/
def vlMax (rlen sew g : Nat) : Nat := g * rlen / sew

/-- The integer width that `vw2` names (R184). -/
def VecState.w2int (v : VecState) : Option Nat := if v.vw2.toNat < 4 then some (8 * 2 ^ v.vw2.toNat) else none

/-- The format that `vw2` names, with its container's width (R184). -/
def VecState.w2flt (v : VecState) : Fmt × Nat :=
  match v.vw2.toNat with
  | 0 => (e4m3, 8)
  | 1 => (e5m2, 8)
  | 2 => (e3m2, 8)
  | 3 => (e2m3, 8)
  | 4 => (e2m1, 8)
  | 5 => (fp16, 16)
  | 6 => (bf16, 16)
  | _ => (fp32, 32)

/-- g2 (R184) of a second-type operand of width `w2`. -/
def VecState.g2 (v : VecState) (w2 : Nat) : Nat := max 1 (v.g * w2 / v.sew)

/-! ## Elements -/

/-- Register `k` as a number. -/
def VecState.reg (v : VecState) (k : Nat) : Nat := ((v.v[k]?).getD 0).toNat

/-- `ElemRd` (R185). -/
def VecState.elem (v : VecState) (n i w : Nat) : Nat :=
  (v.reg (n + i * w / v.rlen)) >>> (i * w % v.rlen) % 2 ^ w

/-- A number with `w` bits from place `b` replaced. -/
def setBits (v b w e : Nat) : Nat := v - (v >>> b % 2 ^ w) <<< b + (e % 2 ^ w) <<< b

/-- `ElemWr` (R185). -/
def VecState.setElem (v : VecState) (n w : Nat) (p : Nat × Nat) : VecState :=
  let k := n + p.1 * w / v.rlen
  { v with v := v.v.setIfInBounds k (BitVec.ofNat 8192 (setBits (v.reg k) (p.1 * w % v.rlen) w p.2)) }

/-- Elements written in order (R185). -/
def VecState.setElems (v : VecState) (n w : Nat) (l : List (Nat × Nat)) : VecState := l.foldl (fun u p => u.setElem n w p) v

/-- Bit `i` of mask `k`; `m0` reads all true (R80). -/
def VecState.mbit (v : VecState) (k : MReg) (i : Nat) : Bool := k == 0 || ((v.m[k.toNat]?).getD 0).getLsbD i

/-- The active elements in rising order (R185). -/
def VecState.active (v : VecState) (k : MReg) : List Nat := (List.range v.len).filter (v.mbit k)

/-- Mask `d` with the bits given written, and the bits at or beyond `vl` 0 (R187); a write of `m0` is discarded (R81). -/
def VecState.setMask (v : VecState) (d : MReg) (l : List (Nat × Bool)) : VecState :=
  if d = 0 then v
  else
    let old := ((v.m[d.toNat]?).getD 0).toNat % 2 ^ v.len
    { v with m := v.m.setIfInBounds d.toNat (BitVec.ofNat 8192 (l.foldl (fun m p => setBits m p.1 1 p.2.toNat) old)) }

/-- Bytes of register `k` of a group that a write extent of `e` elements of `w` bits takes (R188). -/
def VecState.extentBytes (v : VecState) (k e w : Nat) : Nat := min (v.rlen / 8) ((e * w + 7) / 8 - k * (v.rlen / 8))

/-- `NoteVecWrite` (R188) for registers `k` to `k` + `G` − 1 of a group. -/
def VecState.note (v : VecState) (n k G e w : Nat) : VecState :=
  match G with
  | 0 => v
  | j + 1 =>
    let b := v.extentBytes k e w
    let u := if b = 0 then v
      else { v with vdirty := v.vdirty ||| BitVec.ofNat 32 (2 ^ (n + k)), vhwm := BitVec.ofNat 11 (max v.vhwm.toNat b) }
    u.note n (k + 1) j e w

/-- The executing context with its vector state replaced. -/
def State.withVec (s : State) (v : VecState) : State := s.withMe { s.me with vec := v }

/-- Elements written to a group with the extent noted (R185, R188). -/
def State.putElems (s : State) (d : VNum) (G w e : Nat) (l : List (Nat × Nat)) : State :=
  s.withVec ((s.me.vec.setElems d.toNat w l).note d.toNat 0 G e w)

/-! ## The vector queue (R89, R94) -/

/-- An entry leaving a VQ: the strip advances behind it complete (R94, R192). -/
def State.credited (s : State) (core : Nat) (side : Bool) (e : VqEntry) : State :=
  let c : CtxId := { keep := false, unit := core, side := side, slot := e.slot }
  let x := s.ctx c
  s.setCtx c { x with stripDone := x.stripDone + BitVec.ofNat 32 e.strips }

/-- Load-data queue entries that a context holds (R89). -/
def ldqOf (l : List VqEntry) (slot : Nat) : Nat := (l.filter (fun e => e.slot == slot)).foldl (fun n e => n + e.ldq) 0

/-- A vector instruction takes a VQ entry, with `r` entries of the load-data queue (R89, R208): they are free, as it is held from
issue until then (R86). -/
def State.enqueue (s : State) (r : Nat) : State :=
  s.setMySide { s.mySide with vq := s.mySide.vq ++ [{ slot := s.cur.slot, started := false, ldq := r, strips := 0 }] }

/-- The list with a strip advance added to the last entry of a context, if it has one. -/
def addStrip (l : List VqEntry) (slot : Nat) : Option (List VqEntry) :=
  match l with
  | [] => none
  | e :: r =>
    match addStrip r slot with
    | some r' => some (e :: r')
    | none => if e.slot = slot then some ({ e with strips := e.strips + 1 } :: r) else none

/-- A strip advance at issue (R192): it completes when the context's entries issued before it have left the VQ. -/
def State.advanceStrip (s : State) : State :=
  let t := s.withMe { s.me with strip := s.me.strip + 1 }
  match addStrip t.mySide.vq t.cur.slot with
  | some l => t.setMySide { t.mySide with vq := l }
  | none => t.withMe { t.me with stripDone := t.me.stripDone + 1 }

/-! ## Checks -/

/-- A form, as its encoding table names it. -/
structure VForm where
  page : Nat
  major : Nat
  sel : Nat
  deriving DecidableEq, Repr

/-- `ILLEGAL` with reason 0x7 at a form. -/
def VForm.bad {α : Type} (f : VForm) : Except Stop α := illegal 7 f.page f.major

/-- A condition that an entry requires, else reason 0x7. -/
def VForm.need (f : VForm) (c : Bool) : Except Stop Unit := if c then .ok () else f.bad

/-- The check of a group of `G` registers (R185). -/
def VForm.group (f : VForm) (v : VecState) (n G : Nat) : Except Stop Unit :=
  f.need (decide (G ≤ 8) && n % G == 0 && decide (n + G ≤ v.vregs))

/-- A vector instruction may be issued: its kind of context and the side's lanes (reason 0x5); while a write of `LPART` is
pending none is dispatched from the cycle after it on (R85). -/
def State.vecBegin (s : State) (f : VForm) : Except Stop Unit := do
  s.permit f.page f.major f.sel
  if s.myCore.lpartPend.isSome && !s.cycle.lparts.contains s.cur.unit then .error (.hold s)

/-- The rounding mode of an operation (R140, R110). -/
def State.rmode (s : State) (rm : BitVec 3) : RMode :=
  if rm = 0 then RMode.ofCode (s.me.rnd.toNat % 8) else RMode.ofCode (rm.toNat - 1)

/-- `RND.OVNAN` (R102). -/
def State.ovnan (s : State) : Bool := s.me.rnd.getLsbD 3

/-- The check of the rb operand, a group of `G` registers or an `x` register (R189). -/
def VForm.srcGroup (f : VForm) (v : VecState) (b : VSrc) (G : Nat) : Except Stop Unit :=
  match b with
  | .v r => f.group v r.toNat G
  | .x _ => .ok ()

/-- Element `i` of the rb operand: of its group, or the low bits of its `x` register for every element (R189). -/
def State.srcElem (s : State) (b : VSrc) (i w : Nat) : Nat :=
  match b with
  | .v r => s.me.vec.elem r.toNat i w
  | .x r => (s.rx r).toNat % 2 ^ w

/-- Completing a vector instruction that takes a VQ entry. -/
def State.vecFinish (s : State) : State := (s.enqueue 0).finish

/-- Results for elements with their flags, written to a group of the destination type (R186 to R188). -/
def State.vecResult (s : State) (d : VNum) (l : List (Nat × NRes)) : State :=
  let v := s.me.vec
  ((s.putElems d v.g v.sew v.len (l.map (fun p => (p.1, p.2.v)))).raise
    (l.foldl (fun fl p => fl.or p.2.fl) Raised.none)).vecFinish

end Sys2Proof.Machine
end

