-- ==== Sys2Proof/Machine/VecInt.lean ====
section
/-! DEFINITION. Vector configuration, integer arithmetic and mixed width in integers (spec/07_vector.md R190 to R193, R197). -/

namespace Sys2Proof.Machine

/-! ## Configuration -/

/-- Setting `vt` and `vl` from a request and a type (R190). -/
def State.setVl (s : State) (f : VForm) (d : XReg) (req t : Nat) : Except Stop State := do
  s.permit f.page f.major f.sel
  f.need (typeValid t)
  let v := s.me.vec
  let n := min req (vlMax v.rlen (8 * 2 ^ (t % 8)) (2 ^ bitsOf t 4 2))
  .ok ((s.withVec { v with vt := BitVec.ofNat 16 t, vl := BitVec.ofNat 14 n }).wx d (BitVec.ofNat 64 n))

/-- `VCFG` (R190). -/
def execVcfg (d a b : XReg) (s : State) : Host.Outcome State Fault Refusal :=
  act s (do .ok (← s.setVl ⟨1, 0, 0⟩ d (s.rx a).toNat (s.rx b).toNat).finish)

/-- `VCFGS` (R190, R192): the strip advances as well. -/
def execVcfgs (d a b : XReg) (s : State) : Host.Outcome State Fault Refusal :=
  act s (do .ok (← s.setVl ⟨1, 0, 2⟩ d (s.rx a).toNat (s.rx b).toNat).advanceStrip.finish)

/-- `VCFGI` (R190). -/
def execVcfgi (d a : XReg) (imm : Word) (s : State) : Host.Outcome State Fault Refusal :=
  act s (do .ok (← s.setVl ⟨1, 1, 0⟩ d (s.rx a).toNat imm.toNat).finish)

/-- `VCFGW` (R191). -/
def execVcfgw (a : XReg) (s : State) : Host.Outcome State Fault Refusal :=
  act s (do
    let f : VForm := ⟨1, 0, 1⟩
    s.permit f.page f.major f.sel
    f.need (decide ((s.rx a).toNat < 8))
    .ok (s.withVec { s.me.vec with vw2 := (s.rx a).setWidth 3 }).finish)

/-! ## Element operations (R193) -/

/-- An integer operation on elements of width `w`, of signedness `SGN`. -/
abbrev IntOp := (w : Nat) → (sgn : Bool) → Nat → Nat → NRes

/-- An exact integer modulo 2^w without flags. -/
def wrapRes (w : Nat) (v : Int) : NRes := ⟨wrapInt w v, Raised.none⟩

/-- Shift count b[log2 SEW − 1:0]. -/
def shCount (w b : Nat) : Nat := b % w

def opAdd : IntOp := fun w _ a b => wrapRes w ((a : Int) + b)
def opSub : IntOp := fun w _ a b => wrapRes w ((a : Int) - b)
def opMul : IntOp := fun w _ a b => wrapRes w ((a : Int) * b)
def opMulHigh : IntOp := fun w sgn a b => ⟨wrapInt (2 * w) (intVal w sgn a * intVal w sgn b) / 2 ^ w, Raised.none⟩
def opAnd : IntOp := fun _ _ a b => ⟨a &&& b, Raised.none⟩
def opOr : IntOp := fun _ _ a b => ⟨a ||| b, Raised.none⟩
def opXor : IntOp := fun _ _ a b => ⟨a ^^^ b, Raised.none⟩
def opAndn : IntOp := fun w _ a b => ⟨a &&& (2 ^ w - 1 - b), Raised.none⟩
def opSll : IntOp := fun w _ a b => ⟨a * 2 ^ shCount w b % 2 ^ w, Raised.none⟩
def opSrl : IntOp := fun w _ a b => ⟨a / 2 ^ shCount w b, Raised.none⟩
def opSra : IntOp := fun w _ a b => wrapRes w (signedNat w a / (2 ^ shCount w b : Nat))
def opRor : IntOp := fun w _ a b => ⟨a / 2 ^ shCount w b + a * 2 ^ (w - shCount w b) % 2 ^ w, Raised.none⟩
def opMin : IntOp := fun w _ a b => ⟨if signedNat w a ≤ signedNat w b then a else b, Raised.none⟩
def opMax : IntOp := fun w _ a b => ⟨if signedNat w a ≤ signedNat w b then b else a, Raised.none⟩
def opMinu : IntOp := fun _ _ a b => ⟨min a b, Raised.none⟩
def opMaxu : IntOp := fun _ _ a b => ⟨max a b, Raised.none⟩
def opSadd : IntOp := fun w _ a b => satInt (signedNat w a + signedNat w b) w true
def opSsub : IntOp := fun w _ a b => satInt (signedNat w a - signedNat w b) w true
def opSaddu : IntOp := fun w _ a b => satInt ((a : Int) + b) w false
def opSsubu : IntOp := fun w _ a b => satInt ((a : Int) - b) w false
/-- The flag of a division by element: `DZ` on a zero divisor. -/
def dzOf (b : Nat) : Raised := if b = 0 then fDZ else Raised.none
def opDiv : IntOp := fun w _ a b => ⟨if b = 0 then 2 ^ w - 1 else wrapInt w ((signedNat w a).tdiv (signedNat w b)), dzOf b⟩
def opDivu : IntOp := fun w _ a b => ⟨if b = 0 then 2 ^ w - 1 else a / b, dzOf b⟩
def opRem : IntOp := fun w _ a b => ⟨if b = 0 then a else wrapInt w ((signedNat w a).tmod (signedNat w b)), dzOf b⟩
def opRemu : IntOp := fun _ _ a b => ⟨if b = 0 then a else a % b, dzOf b⟩

/-- An integer form over the active elements (R193): `bv` gives the second operand of each. -/
def State.vecIntWith (s : State) (d a : VNum) (k : MReg) (op : IntOp) (bv : Nat → Nat) : State :=
  let v := s.me.vec
  s.vecResult d ((v.active k).map (fun i => (i, op v.sew v.sgn (v.elem a.toNat i v.sew) (bv i))))

/-- An integer form with a group or `x` register operand (R193). -/
def State.vecInt (s : State) (f : VForm) (d a : VNum) (b : VSrc) (k : MReg) (op : IntOp) : Except Stop State := do
  s.vecBegin f
  let v := s.me.vec
  f.group v d.toNat v.g
  f.group v a.toNat v.g
  f.srcGroup v b v.g
  .ok (s.vecIntWith d a k op (fun i => s.srcElem b i v.sew))

/-- `VADD` (R193). -/
def execVadd (d a : VNum) (b : VSrc) (k : MReg) (s : State) : Host.Outcome State Fault Refusal :=
  act s (s.vecInt ⟨1, 2, 0⟩ d a b k opAdd)

/-- `VSUB` (R193). -/
def execVsub (d a : VNum) (b : VSrc) (k : MReg) (s : State) : Host.Outcome State Fault Refusal :=
  act s (s.vecInt ⟨1, 2, 1⟩ d a b k opSub)

/-- `VMUL` (R193). -/
def execVmul (d a : VNum) (b : VSrc) (k : MReg) (s : State) : Host.Outcome State Fault Refusal :=
  act s (s.vecInt ⟨1, 2, 2⟩ d a b k opMul)

/-- `VMHIGH` (R193). -/
def execVmhigh (d a : VNum) (b : VSrc) (k : MReg) (s : State) : Host.Outcome State Fault Refusal :=
  act s (s.vecInt ⟨1, 2, 3⟩ d a b k opMulHigh)

/-- `VAND` (R193). -/
def execVand (d a : VNum) (b : VSrc) (k : MReg) (s : State) : Host.Outcome State Fault Refusal :=
  act s (s.vecInt ⟨1, 3, 0⟩ d a b k opAnd)

/-- `VOR` (R193). -/
def execVor (d a : VNum) (b : VSrc) (k : MReg) (s : State) : Host.Outcome State Fault Refusal :=
  act s (s.vecInt ⟨1, 3, 1⟩ d a b k opOr)

/-- `VXOR` (R193). -/
def execVxor (d a : VNum) (b : VSrc) (k : MReg) (s : State) : Host.Outcome State Fault Refusal :=
  act s (s.vecInt ⟨1, 3, 2⟩ d a b k opXor)

/-- `VANDN` (R193). -/
def execVandn (d a : VNum) (b : VSrc) (k : MReg) (s : State) : Host.Outcome State Fault Refusal :=
  act s (s.vecInt ⟨1, 3, 3⟩ d a b k opAndn)

/-- `VSLL` (R193). -/
def execVsll (d a : VNum) (b : VSrc) (k : MReg) (s : State) : Host.Outcome State Fault Refusal :=
  act s (s.vecInt ⟨1, 4, 0⟩ d a b k opSll)

/-- `VSRL` (R193). -/
def execVsrl (d a : VNum) (b : VSrc) (k : MReg) (s : State) : Host.Outcome State Fault Refusal :=
  act s (s.vecInt ⟨1, 4, 1⟩ d a b k opSrl)

/-- `VSRA` (R193). -/
def execVsra (d a : VNum) (b : VSrc) (k : MReg) (s : State) : Host.Outcome State Fault Refusal :=
  act s (s.vecInt ⟨1, 4, 2⟩ d a b k opSra)

/-- `VROR` (R193). -/
def execVror (d a : VNum) (b : VSrc) (k : MReg) (s : State) : Host.Outcome State Fault Refusal :=
  act s (s.vecInt ⟨1, 4, 3⟩ d a b k opRor)

/-- `VMIN` (R193). -/
def execVmin (d a : VNum) (b : VSrc) (k : MReg) (s : State) : Host.Outcome State Fault Refusal :=
  act s (s.vecInt ⟨1, 5, 0⟩ d a b k opMin)

/-- `VMAX` (R193). -/
def execVmax (d a : VNum) (b : VSrc) (k : MReg) (s : State) : Host.Outcome State Fault Refusal :=
  act s (s.vecInt ⟨1, 5, 1⟩ d a b k opMax)

/-- `VMINU` (R193). -/
def execVminu (d a : VNum) (b : VSrc) (k : MReg) (s : State) : Host.Outcome State Fault Refusal :=
  act s (s.vecInt ⟨1, 5, 2⟩ d a b k opMinu)

/-- `VMAXU` (R193). -/
def execVmaxu (d a : VNum) (b : VSrc) (k : MReg) (s : State) : Host.Outcome State Fault Refusal :=
  act s (s.vecInt ⟨1, 5, 3⟩ d a b k opMaxu)

/-- `VSADD` (R193). -/
def execVsadd (d a : VNum) (b : VSrc) (k : MReg) (s : State) : Host.Outcome State Fault Refusal :=
  act s (s.vecInt ⟨1, 6, 0⟩ d a b k opSadd)

/-- `VSSUB` (R193). -/
def execVssub (d a : VNum) (b : VSrc) (k : MReg) (s : State) : Host.Outcome State Fault Refusal :=
  act s (s.vecInt ⟨1, 6, 1⟩ d a b k opSsub)

/-- `VSADDU` (R193). -/
def execVsaddu (d a : VNum) (b : VSrc) (k : MReg) (s : State) : Host.Outcome State Fault Refusal :=
  act s (s.vecInt ⟨1, 6, 2⟩ d a b k opSaddu)

/-- `VSSUBU` (R193). -/
def execVssubu (d a : VNum) (b : VSrc) (k : MReg) (s : State) : Host.Outcome State Fault Refusal :=
  act s (s.vecInt ⟨1, 6, 3⟩ d a b k opSsubu)

/-- `VDIV` (R193). -/
def execVdiv (d a : VNum) (b : VSrc) (k : MReg) (s : State) : Host.Outcome State Fault Refusal :=
  act s (s.vecInt ⟨1, 7, 0⟩ d a b k opDiv)

/-- `VDIVU` (R193). -/
def execVdivu (d a : VNum) (b : VSrc) (k : MReg) (s : State) : Host.Outcome State Fault Refusal :=
  act s (s.vecInt ⟨1, 7, 1⟩ d a b k opDivu)

/-- `VREM` (R193). -/
def execVrem (d a : VNum) (b : VSrc) (k : MReg) (s : State) : Host.Outcome State Fault Refusal :=
  act s (s.vecInt ⟨1, 7, 2⟩ d a b k opRem)

/-- `VREMU` (R193). -/
def execVremu (d a : VNum) (b : VSrc) (k : MReg) (s : State) : Host.Outcome State Fault Refusal :=
  act s (s.vecInt ⟨1, 7, 3⟩ d a b k opRemu)

/-- `VADDI` (R193). -/
def execVaddi (d a : VNum) (imm : Word) (k : MReg) (s : State) : Host.Outcome State Fault Refusal :=
  act s (do
    let f : VForm := ⟨1, 22, 0⟩
    s.vecBegin f
    let v := s.me.vec
    f.group v d.toNat v.g
    f.group v a.toNat v.g
    .ok (s.vecIntWith d a k opAdd (fun _ => imm.toNat % 2 ^ v.sew)))

end Sys2Proof.Machine
end

