-- ==== Sys2Proof/Machine/VecFloat.lean ====
section
/-! DEFINITION. Vector floating arithmetic, conversions, mixed width and compares (spec/07_vector.md R194 to R198). -/

namespace Sys2Proof.Machine

/-! ## Floating arithmetic -/

/-- The format of a floating form's elements: SEW 16 or 32 (R183), else reason 0x7. -/
def VForm.floatFmt (f : VForm) (v : VecState) : Except Stop Fmt :=
  match v.fmt with
  | some t => if v.sew = 8 then f.bad else .ok t
  | none => f.bad

/-- A floating operation on element codes in a format and mode: first and second operand, and prior destination. -/
abbrev FloatOp := (t : Fmt) → (md : RMode) → Nat → Nat → Nat → NRes

def fopAdd : FloatOp := fun t md a b _ => fAdd t md (t.val a) (t.val b)
def fopSub : FloatOp := fun t md a b _ => fAdd t md (t.val a) (t.val b).neg
def fopMul : FloatOp := fun t md a b _ => fMul t md (t.val a) (t.val b)
def fopDiv : FloatOp := fun t md a b _ => fDiv t md (t.val a) (t.val b)
def fopSqrt : FloatOp := fun t md a _ _ => fSqrt t md (t.val a)
/-- The sign bit inverted, NaN included, without a flag (R194). -/
def fopNeg : FloatOp := fun t _ a _ _ => ⟨(a ^^^ 2 ^ (t.e + t.f)) % 2 ^ t.width, Raised.none⟩
def fopMa : FloatOp := fun t md a b d => (exactFma md (t.val a) (t.val b) (t.val d)).round t md false
def fopMs : FloatOp := fun t md a b d => (exactFma md (t.val a) (t.val b) (t.val d).neg).round t md false
def fopNma : FloatOp := fun t md a b d => (exactFma md (t.val a).neg (t.val b) (t.val d).neg).round t md false
def fopNms : FloatOp := fun t md a b d => (exactFma md (t.val a).neg (t.val b) (t.val d)).round t md false

/-- The order of R195: exact, with −0 below +0. -/
def FV.below (a b : FV) : Bool := a.lt b || (a.eqv b && a.sign && !b.sign)

/-- `VFMIN` and `VFMAX` of one element pair (R195): `mx` for the greater. -/
def fMinMax (t : Fmt) (mx : Bool) (a b : Nat) : NRes :=
  let x := t.val a
  let y := t.val b
  let fl := (sigNv x).or (sigNv y)
  if x.isNan && y.isNan then ⟨t.nan, fl⟩
  else if x.isNan then ⟨b, fl⟩
  else if y.isNan then ⟨a, fl⟩
  else ⟨if y.below x == mx then a else b, fl⟩

def fopMin : FloatOp := fun t _ a b _ => fMinMax t false a b
def fopMax : FloatOp := fun t _ a b _ => fMinMax t true a b

/-- A floating form over the active elements (R194, R195). -/
def State.vecFloatWith (s : State) (t : Fmt) (d a : VNum) (k : MReg) (rm : BitVec 3) (op : FloatOp) (bv : Nat → Nat) : State :=
  let v := s.me.vec
  s.vecResult d ((v.active k).map (fun i =>
    (i, op t (s.rmode rm) (v.elem a.toNat i v.sew) (bv i) (v.elem d.toNat i v.sew))))

/-- A floating form of two operands, or of two and the prior destination (R194, R195). -/
def State.vecFloat (s : State) (f : VForm) (d a : VNum) (b : VSrc) (k : MReg) (rm : BitVec 3) (op : FloatOp) :
    Except Stop State := do
  s.vecBegin f
  let v := s.me.vec
  let t ← f.floatFmt v
  f.group v d.toNat v.g
  f.group v a.toNat v.g
  f.srcGroup v b v.g
  .ok (s.vecFloatWith t d a k rm op (fun i => s.srcElem b i v.sew))

/-- A floating form of one operand (R194). -/
def State.vecFloat1 (s : State) (f : VForm) (d a : VNum) (k : MReg) (rm : BitVec 3) (op : FloatOp) : Except Stop State := do
  s.vecBegin f
  let v := s.me.vec
  let t ← f.floatFmt v
  f.group v d.toNat v.g
  f.group v a.toNat v.g
  .ok (s.vecFloatWith t d a k rm op (fun _ => 0))

/-- `VFADD` (R194). -/
def execVfadd (d a : VNum) (b : VSrc) (k : MReg) (rm : BitVec 3) (s : State) : Host.Outcome State Fault Refusal :=
  act s (s.vecFloat ⟨1, 8, 0⟩ d a b k rm fopAdd)
/-- `VFSUB` (R194). -/
def execVfsub (d a : VNum) (b : VSrc) (k : MReg) (rm : BitVec 3) (s : State) : Host.Outcome State Fault Refusal :=
  act s (s.vecFloat ⟨1, 8, 1⟩ d a b k rm fopSub)
/-- `VFMUL` (R194). -/
def execVfmul (d a : VNum) (b : VSrc) (k : MReg) (rm : BitVec 3) (s : State) : Host.Outcome State Fault Refusal :=
  act s (s.vecFloat ⟨1, 8, 2⟩ d a b k rm fopMul)
/-- `VFDIV` (R194). -/
def execVfdiv (d a : VNum) (b : VSrc) (k : MReg) (rm : BitVec 3) (s : State) : Host.Outcome State Fault Refusal :=
  act s (s.vecFloat ⟨1, 8, 3⟩ d a b k rm fopDiv)
/-- `VFMIN` (R195). -/
def execVfmin (d a : VNum) (b : VSrc) (k : MReg) (s : State) : Host.Outcome State Fault Refusal :=
  act s (s.vecFloat ⟨1, 9, 0⟩ d a b k 0 fopMin)
/-- `VFMAX` (R195). -/
def execVfmax (d a : VNum) (b : VSrc) (k : MReg) (s : State) : Host.Outcome State Fault Refusal :=
  act s (s.vecFloat ⟨1, 9, 1⟩ d a b k 0 fopMax)
/-- `VFSQRT` (R194). -/
def execVfsqrt (d a : VNum) (k : MReg) (rm : BitVec 3) (s : State) : Host.Outcome State Fault Refusal :=
  act s (s.vecFloat1 ⟨1, 9, 2⟩ d a k rm fopSqrt)
/-- `VFNEG` (R194). -/
def execVfneg (d a : VNum) (k : MReg) (s : State) : Host.Outcome State Fault Refusal :=
  act s (s.vecFloat1 ⟨1, 9, 3⟩ d a k 0 fopNeg)
/-- `VFMA` (R194). -/
def execVfma (d a : VNum) (b : VSrc) (k : MReg) (rm : BitVec 3) (s : State) : Host.Outcome State Fault Refusal :=
  act s (s.vecFloat ⟨1, 10, 0⟩ d a b k rm fopMa)
/-- `VFMS` (R194). -/
def execVfms (d a : VNum) (b : VSrc) (k : MReg) (rm : BitVec 3) (s : State) : Host.Outcome State Fault Refusal :=
  act s (s.vecFloat ⟨1, 10, 1⟩ d a b k rm fopMs)
/-- `VFNMA` (R194). -/
def execVfnma (d a : VNum) (b : VSrc) (k : MReg) (rm : BitVec 3) (s : State) : Host.Outcome State Fault Refusal :=
  act s (s.vecFloat ⟨1, 10, 2⟩ d a b k rm fopNma)
/-- `VFNMS` (R194). -/
def execVfnms (d a : VNum) (b : VSrc) (k : MReg) (rm : BitVec 3) (s : State) : Host.Outcome State Fault Refusal :=
  act s (s.vecFloat ⟨1, 10, 3⟩ d a b k rm fopNms)

/-! ## Conversions (R196) -/

/-- The integer second type's width and group (R184), else reason 0x7. -/
def VForm.intW2 (f : VForm) (v : VecState) : Except Stop Nat :=
  match v.w2int with
  | some w => if v.g2 w ≤ 8 then .ok w else f.bad
  | none => f.bad

/-- The floating second type with its container's width (R184), else reason 0x7. -/
def VForm.fltW2 (f : VForm) (v : VecState) : Except Stop (Fmt × Nat) :=
  if v.g2 v.w2flt.2 ≤ 8 then .ok v.w2flt else f.bad

/-- The format of a conversion's floating destination (R196), else reason 0x7. -/
def VForm.cvtFmt (f : VForm) (v : VecState) : Except Stop Fmt :=
  match v.fmt with
  | some t => .ok t
  | none => f.bad

/-- A conversion over the active elements from a source of width `w2`. -/
def State.vecCvt (s : State) (f : VForm) (d a : VNum) (k : MReg) (w2 : Nat) (op : Nat → NRes) : Except Stop State := do
  let v := s.me.vec
  f.group v d.toNat v.g
  f.group v a.toNat (v.g2 w2)
  .ok (s.vecResult d ((v.active k).map (fun i => (i, op (v.elem a.toNat i w2)))))

/-- `VCVTFF` (R196, R143). -/
def execVcvtff (d a : VNum) (k : MReg) (rm : BitVec 3) (s : State) : Host.Outcome State Fault Refusal :=
  act s (do
    let f : VForm := ⟨1, 11, 0⟩
    s.vecBegin f
    let src ← f.fltW2 s.me.vec
    let t ← f.cvtFmt s.me.vec
    s.vecCvt f d a k src.2 (fun e => fToF t (s.rmode rm) s.ovnan (src.1.val e)))

/-- `VCVTIF` (R196, R143). -/
def execVcvtif (d a : VNum) (k : MReg) (rm : BitVec 3) (s : State) : Host.Outcome State Fault Refusal :=
  act s (do
    let f : VForm := ⟨1, 11, 1⟩
    s.vecBegin f
    let w2 ← f.intW2 s.me.vec
    let t ← f.cvtFmt s.me.vec
    s.vecCvt f d a k w2 (fun e => intToF t (s.rmode rm) s.ovnan (intVal w2 s.me.vec.sgn e)))

/-- `VCVTFI` (R196, R143). -/
def execVcvtfi (d a : VNum) (k : MReg) (rm : BitVec 3) (s : State) : Host.Outcome State Fault Refusal :=
  act s (do
    let f : VForm := ⟨1, 11, 2⟩
    s.vecBegin f
    let src ← f.fltW2 s.me.vec
    s.vecCvt f d a k src.2 (fun e => fToInt (s.rmode rm) (src.1.val e) s.me.vec.sew s.me.vec.sgn))

/-- `VCVTII` (R196). -/
def execVcvtii (d a : VNum) (k : MReg) (s : State) : Host.Outcome State Fault Refusal :=
  act s (do
    let f : VForm := ⟨1, 11, 3⟩
    s.vecBegin f
    let w2 ← f.intW2 s.me.vec
    s.vecCvt f d a k w2 (fun e => satInt (intVal w2 s.me.vec.sgn e) s.me.vec.sew s.me.vec.sgn))

/-! ## Mixed width (R197) -/

/-- The exact sum of values given with their flags (R151): invalid products and signalling NaNs raise `NV`, a NaN among them
gives NaN, and infinities of both signs are invalid. -/
def exactSum (md : RMode) (l : List Exact) : Exact :=
  let fl := l.foldl (fun f e => f.or (e.fl.or (sigNv e.x))) Raised.none
  if l.any (fun e => e.x.isNan) then ⟨.nan false, fl⟩
  else
    match l with
    | [] => ⟨.fin false 0 0, fl⟩
    | e :: r =>
      let o := r.foldl (fun acc x => let z := exactAdd md acc.x x.x; { x := z.x, fl := acc.fl.or z.fl }) e
      ⟨o.x, fl.or o.fl⟩

/-- What a mixed-width form does with its terms. -/
inductive MixOp where
  | add | mul | macc | dot
  deriving DecidableEq, Repr

/-- The result element of an integer mixed-width form: exact, then modulo 2^SEW. -/
def mixInt (op : MixOp) (sew : Nat) (d : Nat) (ab : List (Int × Int)) : NRes :=
  let prods : Int := ab.foldl (fun acc p => acc + p.1 * p.2) 0
  match op with
  | .add => wrapRes sew (ab.foldl (fun acc p => acc + (p.1 + p.2)) 0)
  | .mul => wrapRes sew prods
  | .macc => wrapRes sew ((d : Int) + prods)
  | .dot => wrapRes sew ((d : Int) + prods)

/-- The result element of a floating mixed-width form: products exact, one sum, one rounding. -/
def mixFlt (op : MixOp) (t : Fmt) (md : RMode) (d : Nat) (ab : List (FV × FV)) : NRes :=
  let prods := ab.map (fun p => exactMul p.1 p.2)
  let terms := match op with
    | .add => ab.foldr (fun p l => ⟨p.1, Raised.none⟩ :: ⟨p.2, Raised.none⟩ :: l) []
    | .mul => prods
    | .macc => ⟨t.val d, Raised.none⟩ :: prods
    | .dot => ⟨t.val d, Raised.none⟩ :: prods
  (exactSum md terms).round t md false

/-- The source elements of result element `i`: one, or k of them for the dot products. -/
def MixOp.srcs (op : MixOp) (i k : Nat) : List Nat :=
  match op with
  | .dot => (List.range k).map (fun j => k * i + j)
  | _ => [i]

/-- Registers of a source group of a mixed-width form: g for the dot products, else g2. -/
def MixOp.srcG (op : MixOp) (v : VecState) (w2 : Nat) : Nat :=
  match op with
  | .dot => v.g
  | _ => v.g2 w2

/-- A mixed-width form over sources of width `w2`: `el` computes a result from the prior destination and its source pairs. -/
def State.vecMixWith (s : State) (f : VForm) (d a : VNum) (b : VSrc) (k : MReg) (op : MixOp) (w2 : Nat)
    (el : Nat → List (Nat × Nat) → NRes) : Except Stop State := do
  let v := s.me.vec
  f.need (decide (2 * w2 ≤ v.sew))
  f.group v d.toNat v.g
  f.group v a.toNat (op.srcG v w2)
  f.srcGroup v b (op.srcG v w2)
  .ok (s.vecResult d ((v.active k).map (fun i =>
    (i, el (v.elem d.toNat i v.sew) ((op.srcs i (v.sew / w2)).map (fun j => (v.elem a.toNat j w2, s.srcElem b j w2)))))))

/-- A mixed-width form (R197). -/
def State.vecMix (s : State) (f : VForm) (d a : VNum) (b : VSrc) (k : MReg) (fp : Bool) (rm : BitVec 3) (op : MixOp) :
    Except Stop State := do
  s.vecBegin f
  let v := s.me.vec
  if fp then
    let src ← f.fltW2 v
    let t ← f.floatFmt v
    s.vecMixWith f d a b k op src.2 (fun p ab => mixFlt op t (s.rmode rm) p (ab.map (fun q => (src.1.val q.1, src.1.val q.2))))
  else
    let w2 ← f.intW2 v
    s.vecMixWith f d a b k op w2 (fun p ab => mixInt op v.sew p (ab.map (fun q => (intVal w2 v.sgn q.1, intVal w2 v.sgn q.2))))

/-- `VWADD`, `VFWADD` (R197). -/
def execVwadd (d a : VNum) (b : VSrc) (k : MReg) (fp : Bool) (rm : BitVec 3) (s : State) : Host.Outcome State Fault Refusal :=
  act s (s.vecMix ⟨1, 12, 0⟩ d a b k fp rm .add)
/-- `VWMUL`, `VFWMUL` (R197). -/
def execVwmul (d a : VNum) (b : VSrc) (k : MReg) (fp : Bool) (rm : BitVec 3) (s : State) : Host.Outcome State Fault Refusal :=
  act s (s.vecMix ⟨1, 12, 1⟩ d a b k fp rm .mul)
/-- `VWMACC`, `VFWMACC` (R197). -/
def execVwmacc (d a : VNum) (b : VSrc) (k : MReg) (fp : Bool) (rm : BitVec 3) (s : State) : Host.Outcome State Fault Refusal :=
  act s (s.vecMix ⟨1, 12, 2⟩ d a b k fp rm .macc)
/-- `VDOT`, `VFDOT` (R197). -/
def execVdot (d a : VNum) (b : VSrc) (k : MReg) (fp : Bool) (rm : BitVec 3) (s : State) : Host.Outcome State Fault Refusal :=
  act s (s.vecMix ⟨1, 12, 3⟩ d a b k fp rm .dot)

/-! ## Compares (R198) -/

/-- A compare's bit for one element pair, with its flags. -/
structure CmpRes where
  bit : Bool
  fl : Raised
  deriving DecidableEq, Repr

/-- A mask written with the flags of a compare, over a VQ entry. -/
def State.vecMask (s : State) (d : MReg) (l : List (Nat × CmpRes)) : State :=
  ((s.withVec (s.me.vec.setMask d (l.map (fun p => (p.1, p.2.bit))))).raise
    (l.foldl (fun fl p => fl.or p.2.fl) Raised.none)).vecFinish

/-- A compare over the active elements (R198). -/
def State.vecCmp (s : State) (f : VForm) (d : MReg) (a : VNum) (b : VSrc) (k : MReg) (cmp : Nat → Nat → CmpRes) :
    Except Stop State := do
  let v := s.me.vec
  f.group v a.toNat v.g
  f.srcGroup v b v.g
  .ok (s.vecMask d ((v.active k).map (fun i => (i, cmp (v.elem a.toNat i v.sew) (s.srcElem b i v.sew)))))

/-- An integer compare by the relation on Int values. -/
def State.vecIntCmp (s : State) (f : VForm) (d : MReg) (a : VNum) (b : VSrc) (k : MReg) (rel : Int → Int → Bool) :
    Except Stop State := do
  s.vecBegin f
  let v := s.me.vec
  s.vecCmp f d a b k (fun x y => ⟨rel (intVal v.sew v.sgn x) (intVal v.sew v.sgn y), Raised.none⟩)

/-- `NV` on any NaN. -/
def anyNv (x y : FV) : Raised := if x.isNan || y.isNan then fNV else Raised.none

/-- A floating compare. -/
def State.vecFltCmp (s : State) (f : VForm) (d : MReg) (a : VNum) (b : VSrc) (k : MReg) (rel : FV → FV → CmpRes) :
    Except Stop State := do
  s.vecBegin f
  let t ← f.floatFmt s.me.vec
  s.vecCmp f d a b k (fun x y => rel (t.val x) (t.val y))

def relEq (x y : FV) : CmpRes := ⟨x.eqv y, (sigNv x).or (sigNv y)⟩
def relLt (x y : FV) : CmpRes := ⟨!x.isNan && !y.isNan && x.lt y, anyNv x y⟩
def relLe (x y : FV) : CmpRes := ⟨!x.isNan && !y.isNan && !y.lt x, anyNv x y⟩
def relUn (x y : FV) : CmpRes := ⟨x.isNan || y.isNan, (sigNv x).or (sigNv y)⟩

/-- `VCMPEQ` (R198). -/
def execVcmpeq (d : MReg) (a : VNum) (b : VSrc) (k : MReg) (s : State) : Host.Outcome State Fault Refusal :=
  act s (s.vecIntCmp ⟨1, 13, 0⟩ d a b k (fun x y => x == y))
/-- `VCMPNE` (R198). -/
def execVcmpne (d : MReg) (a : VNum) (b : VSrc) (k : MReg) (s : State) : Host.Outcome State Fault Refusal :=
  act s (s.vecIntCmp ⟨1, 13, 1⟩ d a b k (fun x y => x != y))
/-- `VCMPLT` (R198). -/
def execVcmplt (d : MReg) (a : VNum) (b : VSrc) (k : MReg) (s : State) : Host.Outcome State Fault Refusal :=
  act s (s.vecIntCmp ⟨1, 13, 2⟩ d a b k (fun x y => decide (x < y)))
/-- `VCMPLE` (R198). -/
def execVcmple (d : MReg) (a : VNum) (b : VSrc) (k : MReg) (s : State) : Host.Outcome State Fault Refusal :=
  act s (s.vecIntCmp ⟨1, 13, 3⟩ d a b k (fun x y => decide (x ≤ y)))
/-- `VFCMPEQ` (R198). -/
def execVfcmpeq (d : MReg) (a : VNum) (b : VSrc) (k : MReg) (s : State) : Host.Outcome State Fault Refusal :=
  act s (s.vecFltCmp ⟨1, 14, 0⟩ d a b k relEq)
/-- `VFCMPLT` (R198). -/
def execVfcmplt (d : MReg) (a : VNum) (b : VSrc) (k : MReg) (s : State) : Host.Outcome State Fault Refusal :=
  act s (s.vecFltCmp ⟨1, 14, 1⟩ d a b k relLt)
/-- `VFCMPLE` (R198). -/
def execVfcmple (d : MReg) (a : VNum) (b : VSrc) (k : MReg) (s : State) : Host.Outcome State Fault Refusal :=
  act s (s.vecFltCmp ⟨1, 14, 2⟩ d a b k relLe)
/-- `VFCMPUN` (R198). -/
def execVfcmpun (d : MReg) (a : VNum) (b : VSrc) (k : MReg) (s : State) : Host.Outcome State Fault Refusal :=
  act s (s.vecFltCmp ⟨1, 14, 3⟩ d a b k relUn)

end Sys2Proof.Machine
end

