-- ==== Sys2Proof/Machine/VecMove.lean ====
section
/-! DEFINITION. Mask logic, moves, permutes and reductions (spec/07_vector.md R199 to R204). -/

namespace Sys2Proof.Machine

/-! ## Masks -/

/-- Mask logic over bits 0 to `vl` − 1 (R199). -/
def State.maskLogic (s : State) (f : VForm) (d a b : MReg) (op : Bool → Bool → Bool) : Except Stop State := do
  s.vecBegin f
  let v := s.me.vec
  .ok (s.vecMask d ((List.range v.len).map (fun i => (i, ⟨op (v.mbit a i) (v.mbit b i), Raised.none⟩))))

/-- `MAND` (R199). -/
def execMand (d a b : MReg) (s : State) : Host.Outcome State Fault Refusal :=
  act s (s.maskLogic ⟨1, 15, 0⟩ d a b (fun x y => x && y))
/-- `MOR` (R199). -/
def execMor (d a b : MReg) (s : State) : Host.Outcome State Fault Refusal :=
  act s (s.maskLogic ⟨1, 15, 1⟩ d a b (fun x y => x || y))
/-- `MXOR` (R199). -/
def execMxor (d a b : MReg) (s : State) : Host.Outcome State Fault Refusal :=
  act s (s.maskLogic ⟨1, 15, 2⟩ d a b (fun x y => x != y))
/-- `MANDN` (R199). -/
def execMandn (d a b : MReg) (s : State) : Host.Outcome State Fault Refusal :=
  act s (s.maskLogic ⟨1, 15, 3⟩ d a b (fun x y => x && !y))

/-- The indices below `vl` whose bit of a mask is 1. -/
def VecState.ones (v : VecState) (a : MReg) : List Nat := (List.range v.len).filter (v.mbit a)

/-- A summary of a mask in an `x` register, after a resynchronisation (R200, R93). -/
def State.maskSum (s : State) (f : VForm) (d : XReg) (a : MReg) (op : Nat → List Nat → Word) : Except Stop State := do
  s.vecBegin f
  let t := s.resync
  .ok (t.wx d (op t.me.vec.len (t.me.vec.ones a))).finish

/-- `VANY` (R200). -/
def execVany (d : XReg) (a : MReg) (s : State) : Host.Outcome State Fault Refusal :=
  act s (s.maskSum ⟨1, 16, 0⟩ d a (fun _ l => if l.isEmpty then 0 else 1))
/-- `VNONE` (R200): 1 if every bit is 0. -/
def execVnone (d : XReg) (a : MReg) (s : State) : Host.Outcome State Fault Refusal :=
  act s (s.maskSum ⟨1, 16, 1⟩ d a (fun _ l => if l.isEmpty then 1 else 0))
/-- `VMCNT` (R200). -/
def execVmcnt (d : XReg) (a : MReg) (s : State) : Host.Outcome State Fault Refusal :=
  act s (s.maskSum ⟨1, 16, 2⟩ d a (fun _ l => BitVec.ofNat 64 l.length))
/-- `VFIND` (R200). -/
def execVfind (d : XReg) (a : MReg) (s : State) : Host.Outcome State Fault Refusal :=
  act s (s.maskSum ⟨1, 16, 3⟩ d a (fun _ l =>
    match l with
    | [] => BitVec.allOnes 64
    | i :: _ => BitVec.ofNat 64 i))

/-! ## Moves -/

/-- Plain results for the elements named. -/
def plainRes (l : List Nat) (e : Nat → Nat) : List (Nat × NRes) := l.map (fun i => (i, ⟨e i, Raised.none⟩))

/-- `VMV` (R201). -/
def execVmv (d a : VNum) (_b : BitVec 5) (k : MReg) (s : State) : Host.Outcome State Fault Refusal :=
  act s (do
    let f : VForm := ⟨1, 17, 0⟩
    s.vecBegin f
    let v := s.me.vec
    f.group v d.toNat v.g
    f.group v a.toNat v.g
    .ok (s.vecResult d (plainRes (v.active k) (fun i => v.elem a.toNat i v.sew))))

/-- `VBCAST` (R201). -/
def execVbcast (d : VNum) (a : XReg) (k : MReg) (s : State) : Host.Outcome State Fault Refusal :=
  act s (do
    let f : VForm := ⟨1, 17, 1⟩
    s.vecBegin f
    let v := s.me.vec
    f.group v d.toNat v.g
    .ok (s.vecResult d (plainRes (v.active k) (fun _ => (s.rx a).toNat % 2 ^ v.sew))))

/-- `VGETX` (R201): resynchronises, and takes no VQ entry. -/
def execVgetx (d : XReg) (a : VNum) (b : XReg) (k : MReg) (s : State) : Host.Outcome State Fault Refusal :=
  act s (do
    let f : VForm := ⟨1, 17, 2⟩
    s.vecBegin f
    let v := s.me.vec
    f.group v a.toNat v.g
    let i := (s.rx b).toNat
    let e := v.elem a.toNat i v.sew
    let r : Word := if decide (i < v.len) && v.mbit k i then (if v.sgn then sextNat v.sew e else BitVec.ofNat 64 e) else 0
    .ok (s.resync.wx d r).finish)

/-- `VMERGE` (R201): the mask selects between the sources. -/
def execVmerge (d a b : VNum) (k : MReg) (s : State) : Host.Outcome State Fault Refusal :=
  act s (do
    let f : VForm := ⟨1, 17, 3⟩
    s.vecBegin f
    let v := s.me.vec
    f.group v d.toNat v.g
    f.group v a.toNat v.g
    f.group v b.toNat v.g
    .ok (s.vecResult d (plainRes (List.range v.len)
      (fun i => if v.mbit k i then v.elem a.toNat i v.sew else v.elem b.toNat i v.sew))))

/-! ## Permutes (R202, R203) -/

/-- Element `j` of a group when it lies below `vl`, else 0 (R202). -/
def VecState.elemBelow (v : VecState) (a : VNum) (j : Nat) : Nat := if j < v.len then v.elem a.toNat j v.sew else 0

/-- The count n of a shift: U(B), or element 0 of the group (R202). -/
def State.shiftCount (s : State) (b : VSrc) : Nat :=
  match b with
  | .v r => s.me.vec.elem r.toNat 0 s.me.vec.sew
  | .x r => (s.rx r).toNat

/-- A permute over the elements named, with its checks (R202). -/
def State.vecPermute (s : State) (f : VForm) (d a : VNum) (b : VSrc) (l : List Nat) (e : VecState → Nat → Nat) :
    Except Stop State := do
  s.vecBegin f
  let v := s.me.vec
  f.group v d.toNat v.g
  f.group v a.toNat v.g
  f.srcGroup v b v.g
  .ok (s.vecResult d (plainRes l (e v)))

/-- `VPERM` (R202). -/
def execVperm (d a : VNum) (b : VSrc) (k : MReg) (s : State) : Host.Outcome State Fault Refusal :=
  act s (s.vecPermute ⟨1, 18, 0⟩ d a b (s.me.vec.active k) (fun v i =>
    match b with
    | .v r => v.elemBelow a (v.elem r.toNat i v.sew)
    | .x r => v.elemBelow a (s.rx r).toNat))

/-- `VSHUP` (R202). -/
def execVshup (d a : VNum) (b : VSrc) (k : MReg) (s : State) : Host.Outcome State Fault Refusal :=
  act s (s.vecPermute ⟨1, 18, 1⟩ d a b (s.me.vec.active k) (fun v i =>
    if s.shiftCount b ≤ i then v.elem a.toNat (i - s.shiftCount b) v.sew else v.elem d.toNat i v.sew))

/-- `VSHDN` (R202). -/
def execVshdn (d a : VNum) (b : VSrc) (k : MReg) (s : State) : Host.Outcome State Fault Refusal :=
  act s (s.vecPermute ⟨1, 18, 2⟩ d a b (s.me.vec.active k) (fun v i => v.elemBelow a (i + s.shiftCount b)))

/-- `VPACK` (R202): every element below `vl` is written. -/
def execVpack (d a : VNum) (b : VSrc) (k : MReg) (s : State) : Host.Outcome State Fault Refusal :=
  act s (s.vecPermute ⟨1, 18, 3⟩ d a b (List.range s.me.vec.len) (fun v i =>
    match (v.active k)[i]? with
    | some j => v.elem a.toNat j v.sew
    | none => s.srcElem b i v.sew))

/-- `VILV` (R203). -/
def execVilv (d a b : VNum) (k : MReg) (s : State) : Host.Outcome State Fault Refusal :=
  act s (s.vecPermute ⟨1, 19, 0⟩ d a (.v b) (s.me.vec.active k) (fun v i =>
    if i % 2 = 0 then v.elem a.toNat (i / 2) v.sew else v.elem b.toNat (i / 2) v.sew))

/-- `VDILV`, with `ODD` (R203). -/
def execVdilv (d a b : VNum) (k : MReg) (odd : Bool) (s : State) : Host.Outcome State Fault Refusal :=
  act s (s.vecPermute ⟨1, 19, 1⟩ d a (.v b) (s.me.vec.active k) (fun v i =>
    let j := 2 * i + odd.toNat
    if j < v.len then v.elem a.toNat j v.sew else v.elem b.toNat (j - v.len) v.sew))

/-- A rearrangement of one source (R203). -/
def State.vecPermute1 (s : State) (f : VForm) (d a : VNum) (k : MReg) (e : VecState → Nat → Nat) : Except Stop State := do
  s.vecBegin f
  let v := s.me.vec
  f.group v d.toNat v.g
  f.group v a.toNat v.g
  .ok (s.vecResult d (plainRes (v.active k) (e v)))

/-- `VREV` (R203). -/
def execVrev (d a : VNum) (k : MReg) (s : State) : Host.Outcome State Fault Refusal :=
  act s (s.vecPermute1 ⟨1, 19, 2⟩ d a k (fun v i => v.elem a.toNat (v.len - 1 - i) v.sew))

/-- `VRANK`, with `INCL` (R203). -/
def execVrank (d a : VNum) (k : MReg) (incl : Bool) (s : State) : Host.Outcome State Fault Refusal :=
  act s (s.vecPermute1 ⟨1, 19, 3⟩ d a k (fun v i =>
    ((v.active k).filter (fun j => decide (j < i + incl.toNat) && v.elem a.toNat j v.sew != 0)).length % 2 ^ v.sew))

/-! ## Reductions (R204) -/

/-- A reduction: the result, from element 0 of vb and the active elements of va, goes to element 0 of vd; with `vl` = 0
nothing is written. -/
def State.vecReduce (s : State) (f : VForm) (d a b : VNum) (r : Nat → NRes) : Except Stop State := do
  let v := s.me.vec
  f.group v d.toNat v.g
  f.group v a.toNat v.g
  f.group v b.toNat v.g
  let o := r (v.elem b.toNat 0 v.sew)
  if v.len = 0 then .ok s.vecFinish
  else .ok ((s.putElems d v.g v.sew 1 [(0, o.v)]).raise o.fl).vecFinish

/-- The active elements of a group, in rising index. -/
def VecState.activeElems (v : VecState) (a : VNum) (k : MReg) : List Nat := (v.active k).map (fun i => v.elem a.toNat i v.sew)

/-- An integer reduction, folding an operation. -/
def State.vecReduceInt (s : State) (f : VForm) (d a b : VNum) (k : MReg) (op : VecState → Nat → Nat → Nat) :
    Except Stop State := do
  s.vecBegin f
  s.vecReduce f d a b (fun b0 => ⟨(s.me.vec.activeElems a k).foldl (op s.me.vec) b0, Raised.none⟩)

/-- `VREDSUM` (R204). -/
def execVredsum (d a b : VNum) (k : MReg) (s : State) : Host.Outcome State Fault Refusal :=
  act s (s.vecReduceInt ⟨1, 20, 0⟩ d a b k (fun v x y => (x + y) % 2 ^ v.sew))
/-- `VREDMIN` (R204). -/
def execVredmin (d a b : VNum) (k : MReg) (s : State) : Host.Outcome State Fault Refusal :=
  act s (s.vecReduceInt ⟨1, 20, 1⟩ d a b k (fun v x y => if intVal v.sew v.sgn x ≤ intVal v.sew v.sgn y then x else y))
/-- `VREDMAX` (R204). -/
def execVredmax (d a b : VNum) (k : MReg) (s : State) : Host.Outcome State Fault Refusal :=
  act s (s.vecReduceInt ⟨1, 20, 2⟩ d a b k (fun v x y => if intVal v.sew v.sgn x ≤ intVal v.sew v.sgn y then y else x))
/-- `VREDAND` (R204). -/
def execVredand (d a b : VNum) (k : MReg) (s : State) : Host.Outcome State Fault Refusal :=
  act s (s.vecReduceInt ⟨1, 21, 2⟩ d a b k (fun _ x y => x &&& y))
/-- `VREDOR` (R204). -/
def execVredor (d a b : VNum) (k : MReg) (s : State) : Host.Outcome State Fault Refusal :=
  act s (s.vecReduceInt ⟨1, 21, 3⟩ d a b k (fun _ x y => x ||| y))

/-- A rounded addition of codes that keeps the flags of both sides (R150). -/
def codeAdd (t : Fmt) (md : RMode) (a b : NRes) : NRes :=
  let r := fAdd t md (t.val a.v) (t.val b.v)
  ⟨r.v, (a.fl.or b.fl).or r.fl⟩

/-- `VFREDSUM` (R204, R150). -/
def execVfredsum (d a b : VNum) (k : MReg) (rm : BitVec 3) (s : State) : Host.Outcome State Fault Refusal :=
  act s (do
    let f : VForm := ⟨1, 20, 3⟩
    s.vecBegin f
    let v := s.me.vec
    let t ← f.floatFmt v
    let md := s.rmode rm
    let els := (List.range v.len).map (fun i => if v.mbit k i then some (⟨v.elem a.toNat i v.sew, Raised.none⟩ : NRes) else none)
    s.vecReduce f d a b (fun b0 =>
      match treeSum (codeAdd t md) els with
      | none => ⟨b0, Raised.none⟩
      | some x => codeAdd t md ⟨b0, Raised.none⟩ x))

/-- A floating minimum or maximum over b_0 and the active elements, pair by pair (R195, R204). A NaN that is delivered is the
canonical one, and a signalling b_0 raises `NV`, where no element is active too (R136). -/
def State.vecReduceMinMax (s : State) (f : VForm) (d a b : VNum) (k : MReg) (mx : Bool) : Except Stop State := do
  s.vecBegin f
  let t ← f.floatFmt s.me.vec
  s.vecReduce f d a b (fun b0 => (s.me.vec.activeElems a k).foldl (fun acc x =>
    let r := fMinMax t mx acc.v x
    ⟨r.v, acc.fl.or r.fl⟩) (fMinMax t mx b0 b0))

/-- `VFREDMIN` (R204). -/
def execVfredmin (d a b : VNum) (k : MReg) (s : State) : Host.Outcome State Fault Refusal :=
  act s (s.vecReduceMinMax ⟨1, 21, 0⟩ d a b k false)
/-- `VFREDMAX` (R204). -/
def execVfredmax (d a b : VNum) (k : MReg) (s : State) : Host.Outcome State Fault Refusal :=
  act s (s.vecReduceMinMax ⟨1, 21, 1⟩ d a b k true)

end Sys2Proof.Machine
end

