-- ==== Sys2Proof/Machine/VecMem.lean ====
section
/-! DEFINITION. Vector memory access (spec/07_vector.md R205 to R213), with block access through fat pointers
(spec/05_numbers.md R154, R155). -/

namespace Sys2Proof.Machine

/-! ## The checks of R206 -/

/-- An element access to be checked: the element's index, and the pointer and offset that form its address. -/
structure VAcc where
  i : Nat
  p : Word
  off : Int
  deriving DecidableEq, Repr

/-- An element access with its address. -/
structure VAddr_ where
  i : Nat
  ea : Word
  deriving DecidableEq, Repr

/-- `CAUSE.INFO` of a fault at element `i` of `sew` bits (R206): bits [12:0] the index, [15:13] log2 of the bytes. -/
def elemInfo (sew i : Nat) : BitVec 16 := BitVec.ofNat 16 (i % 8192 + 8192 * Nat.log2 (sew / 8))

/-- Step 1 of R206 for one element: `PTR_OVF`, `MISALIGN`, `DBELL_ACCESS`. -/
def State.elemAddr (s : State) (sew : Nat) (x : VAcc) : Except Stop VAddr_ :=
  match fatAdd x.p x.off with
  | none => .error (.trap cPtrOvf (elemInfo sew x.i) 0)
  | some ea =>
    if vaOf ea % (sew / 8) != 0 then .error (.trap cMisalign (elemInfo sew x.i) ea)
    else if s.isDoorbell (vaOf ea) then .error (.trap cDbellAccess (elemInfo sew x.i) ea)
    else .ok ⟨x.i, ea⟩

/-- Step 1 of R206: the lowest failing element decides. -/
def State.elemAddrs (s : State) (sew : Nat) (l : List VAcc) : Except Stop (List VAddr_) :=
  match l with
  | [] => .ok []
  | x :: r => do
    let a ← s.elemAddr sew x
    let b ← s.elemAddrs sew r
    .ok (a :: b)

/-- An element access with what its confirmation answers. -/
structure VConf where
  i : Nat
  ea : Word
  res : Except AccErr Loc

/-- Confirmation of every element access, each after those before it. -/
def State.confirmAll (s : State) (need : BitVec 5) (l : List VAddr_) : State × List VConf :=
  match l with
  | [] => (s, [])
  | x :: r =>
    match s.locate s.req need (vaOf x.ea) with
    | .ok (t, loc) => let o := t.confirmAll need r; (o.1, ⟨x.i, x.ea, .ok loc⟩ :: o.2)
    | .error e => let o := s.confirmAll need r; (o.1, ⟨x.i, x.ea, .error e⟩ :: o.2)

/-- The first missing right of a list of confirmations. -/
def firstDenied (l : List VConf) : Option Stop :=
  l.findSome? (fun c => match c.res with
    | .error (.right m a) => some (.freeze m (BitVec.ofNat 64 a))
    | _ => none)

/-- The first other failure. -/
def firstFailed (sew : Nat) (l : List VConf) : Option Stop :=
  l.findSome? (fun c => match c.res with
    | .error (.xlate _) => some (.trap cDataXlate (elemInfo sew c.i) c.ea)
    | .error (.lost _) => some (.trap cPeerLost (elemInfo sew c.i) c.ea)
    | .error (.host _) => some (.trap cDataXlate (elemInfo sew c.i) c.ea)
    | _ => none)

/-- A confirmed element access. -/
structure VLoc where
  i : Nat
  ea : Word
  loc : Loc
  deriving DecidableEq, Repr

/-- The confirmed accesses of a list. -/
def confirmed (l : List VConf) : List VLoc :=
  l.filterMap (fun c => match c.res with
    | .ok loc => some ⟨c.i, c.ea, loc⟩
    | .error _ => none)

/-- Steps 2 and 3 of R206: rights for all, then translation for all. -/
def State.confirmElems (s : State) (sew : Nat) (need : BitVec 5) (l : List VAddr_) : Except Stop (State × List VLoc) :=
  let o := s.confirmAll need l
  match firstDenied o.2 with
  | some e => .error e
  | none =>
    match firstFailed sew o.2 with
    | some e => .error e
    | none => .ok (o.1, confirmed o.2)

/-- Reading every confirmed access on a path, `n` bytes each (R207, R252 to R256): pairs of index and value. -/
def State.readElems (s : State) (path n : Nat) (l : List VLoc) : Except Stop (State × List (Nat × Nat)) :=
  match l with
  | [] => .ok (s, [])
  | x :: r => do
    let (t, bs) ← atEa x.ea (s.readOn path x.loc (vaOf x.ea) n)
    let (u, rest) ← t.readElems path n r
    .ok (u, (x.i, ofBytes bs) :: rest)

/-- What every store of a list must pass before any is performed: an unjoined store to a `BV` segment faults (R256), and each line is
made ready for it (R369, R385): for a reducing store `rmw` at its home (R213). -/
def State.storeGate (s : State) (rmw : Bool) (sew : Nat) (l : List VLoc) : Except Stop State :=
  match l with
  | [] => .ok s
  | x :: r =>
    if s.attr (vaOf x.ea) = 3 && x.loc.sp != .staging then .error (.trap cBvStore (elemInfo sew x.i) x.ea)
    else match (if rmw then s.claimRmw true (vaOf x.ea) x.loc else s.claim true (vaOf x.ea) x.loc) with
      | .error e => .error e
      | .ok t => t.storeGate rmw sew r

/-- Storing the value of each access in order: of overlapping elements the later one's is left (R207). -/
def State.putElemsAt (s : State) (n : Nat) (l : List VLoc) (val : VLoc → Nat) : State :=
  l.foldl (fun t x => (t.putAt x.loc (vaOf x.ea) (toBytes n (val x))).viaOwner pCore (vaOf x.ea) 0) s

/-- Joining the value of each access to the open bundle, after every line has been found fit (R331). -/
def State.joinTargets (s : State) (b : OpenBundle) (sew : Nat) (l : List VLoc) : Except Stop Unit :=
  match l with
  | [] => .ok ()
  | x :: r =>
    match s.joinTarget b x.loc (vaOf x.ea) with
    | .ok () => s.joinTargets b sew r
    | .error _ => .error (.trap cBundleTarget (elemInfo sew x.i) x.ea)

/-- The line of a confirmed access. -/
def VLoc.line (x : VLoc) : Nat := vaOf x.ea / 128 * 128

/-- Staging each access in order, in a record with room for every line of them (R331). -/
def State.stageAll (s : State) (rcd n : Nat) (l : List VLoc) (val : VLoc → Nat) : Except Stop State :=
  match l with
  | [] => .ok s
  | x :: r =>
    match s.stage rcd (vaOf x.ea) (toBytes n (val x)) with
    | .error e => .error e
    | .ok t => t.stageAll rcd n r val

/-- Joining each access to the open bundle (R331): the first whose line finds no room faults, and nothing is staged until the lines of the
record are ready. -/
def State.joinAll (s : State) (b : OpenBundle) (sew n : Nat) (l : List VLoc) (val : VLoc → Nat) : Except Stop State :=
  let rcd := b.record.toNat
  let lines := l.map (·.line)
  match l.find? (fun x => s.joinFull rcd lines x.line) with
  | some x => .error (.trap cBundleFull (elemInfo sew x.i) x.ea)
  | none =>
    match s.joinReady rcd lines with
    | .error e => .error e
    | .ok t => t.stageAll rcd n l val

/-- The check of a joined store that a bundle is open, at its first element (R331). -/
def State.needBundle (s : State) (sew : Nat) (l : List VAddr_) : Except Stop Unit :=
  match s.me.bundle, l with
  | none, x :: _ => .error (.trap cNoBundle (elemInfo sew x.i) x.ea)
  | _, _ => .ok ()

/-- A vector store's accesses, from their pointers to the state with every value stored or joined (R206, R207, R331). -/
def State.storeElems (s : State) (sew : Nat) (bj : Bool) (l : List VAcc) (val : VLoc → Nat) : Except Stop State := do
  let ads ← s.elemAddrs sew l
  if bj then
    s.needBundle sew ads
    let (t, locs) ← s.confirmElems sew rW ads
    match s.me.bundle with
    | none => .ok t
    | some b =>
      t.joinTargets b sew locs
      t.joinAll b sew (sew / 8) locs val
  else
    let (t, locs) ← s.confirmElems sew rW ads
    let t1 ← t.storeGate false sew locs
    .ok (t1.putElemsAt (sew / 8) locs val)

/-! ## Unit-stride, strided and indexed accesses (R205) -/

/-- The accesses of the active elements from one pointer. -/
def VecState.accs (v : VecState) (k : MReg) (p : Word) (off : Nat → Int) : List VAcc :=
  (v.active k).map (fun i => ⟨i, p, off i⟩)

/-- A vector load that writes a group, over its VQ entry and `r` load-data entries (R205 to R208). -/
def State.vecLoad (s : State) (f : VForm) (d : VNum) (k : MReg) (p : Word) (off : Nat → Int) (r : Nat) : Except Stop State := do
  let v := s.me.vec
  f.group v d.toNat v.g
  let ads ← s.elemAddrs v.sew (v.accs k p off)
  let (t, locs) ← s.confirmElems v.sew rR ads
  let (u, vals) ← t.readElems pCore (v.sew / 8) locs
  .ok ((u.putElems d v.g v.sew v.len vals).enqueue r).finish

/-- A vector store of a group (R205 to R207). -/
def State.vecStore (s : State) (f : VForm) (d : VNum) (k : MReg) (bj : Bool) (p : Word) (off : Nat → Int) : Except Stop State := do
  let v := s.me.vec
  f.group v d.toNat v.g
  let t ← s.storeElems v.sew bj (v.accs k p off) (fun x => v.elem d.toNat x.i v.sew)
  .ok t.vecFinish

/-- Offset of element `i` in a unit-stride access. -/
def unitOff (sew : Nat) (imm : Word) (i : Nat) : Int := imm.toInt + ((i * (sew / 8) : Nat) : Int)

/-- `VLD` (R205). -/
def execVld (d : VNum) (a : XReg) (imm : Word) (k : MReg) (s : State) : Host.Outcome State Fault Refusal :=
  act s (do
    s.vecBegin ⟨2, 0, 0⟩
    s.vecLoad ⟨2, 0, 0⟩ d k (s.rx a) (unitOff s.me.vec.sew imm) s.me.vec.g)

/-- `VST` (R205). -/
def execVst (d : VNum) (a : XReg) (imm : Word) (k : MReg) (bj : Bool) (s : State) : Host.Outcome State Fault Refusal :=
  act s (do
    s.vecBegin ⟨2, 1, 0⟩
    s.vecStore ⟨2, 1, 0⟩ d k bj (s.rx a) (unitOff s.me.vec.sew imm))

/-- `VLDS` (R205). -/
def execVlds (d : VNum) (a b : XReg) (k : MReg) (s : State) : Host.Outcome State Fault Refusal :=
  act s (do
    s.vecBegin ⟨2, 2, 0⟩
    s.vecLoad ⟨2, 2, 0⟩ d k (s.rx a) (fun i => (i : Int) * (s.rx b).toInt) s.me.vec.g)

/-- `VSTS` (R205). -/
def execVsts (d : VNum) (a b : XReg) (k : MReg) (bj : Bool) (s : State) : Host.Outcome State Fault Refusal :=
  act s (do
    s.vecBegin ⟨2, 2, 1⟩
    s.vecStore ⟨2, 2, 1⟩ d k bj (s.rx a) (fun i => (i : Int) * (s.rx b).toInt))

/-- The check of an index group (R205), and its width. -/
def State.indexGroup (s : State) (f : VForm) (b : VNum) : Except Stop Nat := do
  let w ← f.intW2 s.me.vec
  f.group s.me.vec b.toNat (s.me.vec.g2 w)
  .ok w

/-- `VLDX` (R205). -/
def execVldx (d : VNum) (a : XReg) (b : VNum) (k : MReg) (s : State) : Host.Outcome State Fault Refusal :=
  act s (do
    s.vecBegin ⟨2, 3, 0⟩
    let w ← s.indexGroup ⟨2, 3, 0⟩ b
    s.vecLoad ⟨2, 3, 0⟩ d k (s.rx a) (fun i => (s.me.vec.elem b.toNat i w : Int)) s.me.vec.g)

/-- `VSTX` (R205). -/
def execVstx (d : VNum) (a : XReg) (b : VNum) (k : MReg) (bj : Bool) (s : State) : Host.Outcome State Fault Refusal :=
  act s (do
    s.vecBegin ⟨2, 3, 1⟩
    let w ← s.indexGroup ⟨2, 3, 1⟩ b
    s.vecStore ⟨2, 3, 1⟩ d k bj (s.rx a) (fun i => (s.me.vec.elem b.toNat i w : Int)))

/-! ## First-fault load and prefetch -/

/-- Whether an element access would pass every check of R206 (R209). -/
def State.elemPasses (s : State) (sew : Nat) (x : VAcc) : Bool :=
  match s.elemAddr sew x with
  | .error _ => false
  | .ok a =>
    match s.locate s.req rR (vaOf a.ea) with
    | .ok _ => true
    | .error _ => false

/-- The vector length that `VLDFF` leaves (R209): the least active element from 1 on that would fail, or `vl`. -/
def State.ffLen (s : State) (l : List VAcc) : Nat :=
  match l.find? (fun x => decide (1 ≤ x.i) && !s.elemPasses s.me.vec.sew x) with
  | some x => x.i
  | none => s.me.vec.len

/-- `VLDFF` (R209). -/
def execVldff (d : VNum) (a : XReg) (imm : Word) (k : MReg) (s : State) : Host.Outcome State Fault Refusal :=
  act s (do
    let f : VForm := ⟨2, 6, 0⟩
    s.vecBegin f
    let v := s.me.vec
    f.group v d.toNat v.g
    let off := unitOff v.sew imm
    let n := s.ffLen (v.accs k (s.rx a) off)
    match (s.withVec { v with vl := BitVec.ofNat 14 n }).vecLoad f d k (s.rx a) off v.g with
    | .error (.hold u) => .error (.hold (u.withVec v))
    | r => r)

/-- The lines of a prefetch brought to the core's cache, as far as they can be without a wait: of the others the request has been made
(R210; log entry 16). -/
def State.prefetchAll (s : State) (l : List VLoc) : State :=
  l.foldl (fun t x =>
    match t.claim false (vaOf x.ea) x.loc with
    | .ok u => u
    | .error (.hold u) => u
    | .error _ => t) s

/-- The lines of a prefetch of `vl` elements from an address, where every one of them passes the checks of R206 (R210). -/
def State.prefetch (s : State) (p : Word) (imm : Word) : State :=
  let v := s.me.vec
  match s.elemAddrs v.sew ((List.range v.len).map (fun i => ⟨i, p, unitOff v.sew imm i⟩)) with
  | .error _ => s
  | .ok ads =>
    match s.confirmElems v.sew rR ads with
    | .error _ => s
    | .ok (t, locs) => t.prefetchAll locs

/-- `VPREF` (R210): it writes no register, and no check of it traps. -/
def execVpref (a : XReg) (imm : Word) (s : State) : Host.Outcome State Fault Refusal :=
  act s (do
    s.vecBegin ⟨2, 7, 0⟩
    .ok (s.prefetch (s.rx a) imm).vecFinish)

/-! ## Block access (R211, R154, R155) -/

/-- Size in bytes of an element of a plain array's code (R152): codes 1 to 11 and 18. -/
def fatSize (code : Nat) : Option Nat :=
  match code with
  | 1 => some 1
  | 2 => some 1
  | 3 => some 2
  | 4 => some 2
  | 5 => some 4
  | 6 => some 4
  | 7 => some 8
  | 8 => some 8
  | 9 => some 2
  | 10 => some 2
  | 11 => some 4
  | 18 => some 8
  | _ => none

/-- The MX format of a code (R152): codes 12 to 17. -/
def fatMx (code : Nat) : Option MxFmt :=
  match code with
  | 12 => some mxE4m3
  | 13 => some mxE5m2
  | 14 => some mxE3m2
  | 15 => some mxE2m3
  | 16 => some mxE2m1
  | 17 => some .int8
  | _ => none

/-- `FAT_FORMAT` at a pointer (R155). -/
def fatFormat {α : Type} (p : Word) : Except Stop α := .error (.open_ cFatFormat (some p))

/-- Offsets from `VA` of element `n`'s scale byte, and, as a bit offset, of the element (R154 `MxElemAddr`). -/
def mxOffsets (lb n w : Nat) : Nat × Nat :=
  let B := 2 ^ lb
  let U := 32 + 4 * B * w
  let j := n / B
  let u := j / 32
  (u * U + j % 32, (u * U + 32) * 8 + (n - 32 * B * u) * w)

/-- The byte accesses of the active elements of an MX array (R211). DESIGN CHOICE: the scale byte is checked first, then the bytes that hold
the element, lowest first, and `FADDR` is the byte's own address (log entry 115). -/
def VecState.mxAccs (v : VecState) (k : MReg) (p : Word) (lb w : Nat) : List VAcc :=
  (v.active k).flatMap (fun i =>
    let o := mxOffsets lb i w
    let first := o.2 / 8
    let last := (o.2 + w - 1) / 8
    ⟨i, p, (o.1 : Int)⟩ :: ⟨i, p, (first : Int)⟩ :: (if last = first then [] else [⟨i, p, (last : Int)⟩]))

/-- Bytes by their offset from `VA`, gathered from accesses and the values read there. -/
def byteMap (va : Nat) (l : List (Word × Nat)) : SMap Nat :=
  l.foldl (fun m p => m.set ((vaOf p.1 + 2 ^ 56 - va) % 2 ^ 56) p.2) []

/-- The `w` bits at bit offset `b` of a byte map. -/
def mapBits (m : SMap Nat) (b w : Nat) : Nat := (m.get 0 (b / 8) + 256 * m.get 0 (b / 8 + 1)) / 2 ^ (b % 8) % 2 ^ w

/-- The byte map with the `w` bits at bit offset `b` replaced. -/
def mapSetBits (m : SMap Nat) (b w e : Nat) : SMap Nat :=
  let v := setBits (m.get 0 (b / 8) + 256 * m.get 0 (b / 8 + 1)) (b % 8) w e
  let m1 := m.set (b / 8) (v % 256)
  if b % 8 + w ≤ 8 then m1 else m1.set (b / 8 + 1) (v / 256)

/-- The checks of a block access's pointer (R155, R211), for an array of plain elements or of MX elements. With `vl` 0 only
the element widths are checked (R187). -/
def VForm.fatCheck (v : VecState) (p : Word) : Except Stop Unit :=
  let code := bitsOf p.toNat 59 5
  let lb := bitsOf p.toNat 56 3
  match fatSize code, fatMx code with
  | some n, _ =>
    if v.sew != 8 * n then fatFormat p
    else if v.len != 0 && (lb != 0 || vaOf p % n != 0) then fatFormat p
    else .ok ()
  | none, some _ =>
    if v.sew != 8 then fatFormat p
    else if v.len != 0 && (vaOf p % 32 != 0 || decide (v.rlen / 8 < (v.len + 2 ^ lb - 1) / 2 ^ lb)) then fatFormat p
    else .ok ()
  | none, none => if v.len = 0 then .ok () else fatFormat p

/-- The checks of a block access at issue: g at most 4, and the groups. -/
def State.blockBegin (s : State) (f : VForm) (d b : VNum) : Except Stop Unit := do
  s.vecBegin f
  let v := s.me.vec
  f.need (decide (v.g ≤ 4))
  f.group v d.toNat v.g
  f.group v b.toNat 1

/-- An MX block load of the active elements (R211). -/
def State.mxLoad (s : State) (d b : VNum) (k : MReg) (p : Word) (w : Nat) : Except Stop State := do
  let v := s.me.vec
  let lb := bitsOf p.toNat 56 3
  let ads ← s.elemAddrs 8 (v.mxAccs k p lb w)
  let (t, locs) ← s.confirmElems 8 rR ads
  let (u, vals) ← t.readElems pCore 1 locs
  let m := byteMap (vaOf p) ((locs.map (·.ea)).zip (vals.map (·.2)))
  let els := (v.active k).map (fun i => (i, mapBits m (mxOffsets lb i w).2 w))
  let scs := (v.active k).map (fun i => (i / 2 ^ lb, m.get 0 (mxOffsets lb i w).1))
  let u1 := u.putElems d v.g 8 v.len els
  .ok ((u1.putElems b 1 8 ((v.len + 2 ^ lb - 1) / 2 ^ lb) scs).enqueue (v.g + 1)).finish

/-- `VLDB` (R211). DEDUCED: its destinations may not overlap with `vl` 0 either: R186 is an operand limit on its groups, which R187 keeps
(log entry 114). -/
def execVldb (d : VNum) (a : XReg) (b : VNum) (k : MReg) (s : State) : Host.Outcome State Fault Refusal :=
  act s (do
    let f : VForm := ⟨2, 4, 0⟩
    s.blockBegin f d b
    let p := s.rx a
    let v := s.me.vec
    match fatMx (bitsOf p.toNat 59 5) with
    | some x =>
      f.need (!(decide (d.toNat ≤ b.toNat) && decide (b.toNat < d.toNat + v.g)))
      VForm.fatCheck v p
      s.mxLoad d b k p x.width
    | none =>
      VForm.fatCheck v p
      s.vecLoad f d k p (unitOff v.sew 0) (v.g + 1))

/-- The byte map of an MX block store, from the bytes as they were read (R211). -/
def VecState.mxStored (v : VecState) (d b : VNum) (k : MReg) (lb w : Nat) (m : SMap Nat) : SMap Nat :=
  (v.active k).foldl (fun acc i =>
    (mapSetBits acc (mxOffsets lb i w).2 w (v.elem d.toNat i 8)).set (mxOffsets lb i w).1 (v.elem b.toNat (i / 2 ^ lb) 8)) m

/-- The bytes at the accesses of a list, as they are before the store. -/
def State.bytesNow (s : State) (va : Nat) (l : List VAddr_) : SMap Nat :=
  byteMap va (l.map (fun x =>
    match s.locate s.req rW (vaOf x.ea) with
    | .ok (_, loc) => (x.ea, ofBytes (s.st.get loc 1))
    | .error _ => (x.ea, 0)))

/-- `VSTB` (R211). -/
def execVstb (d : VNum) (a : XReg) (b : VNum) (k : MReg) (bj : Bool) (s : State) : Host.Outcome State Fault Refusal :=
  act s (do
    let f : VForm := ⟨2, 4, 1⟩
    s.blockBegin f d b
    let p := s.rx a
    let v := s.me.vec
    VForm.fatCheck v p
    match fatMx (bitsOf p.toNat 59 5) with
    | some x =>
      let lb := bitsOf p.toNat 56 3
      let accs := v.mxAccs k p lb x.width
      let ads ← s.elemAddrs 8 accs
      let m := v.mxStored d b k lb x.width (s.bytesNow (vaOf p) ads)
      let t ← s.storeElems 8 bj accs (fun l => m.get 0 ((vaOf l.ea + 2 ^ 56 - vaOf p) % 2 ^ 56))
      .ok t.vecFinish
    | none => s.vecStore f d k bj p (unitOff v.sew 0))

/-! ## Multicast and reducing stores (R212, R213) -/

/-- The destination pointers of a multicast list, from entry `k` on (R212). -/
def State.mcList (s : State) (p : Word) (k n : Nat) : Except Stop (State × List Word) :=
  match n with
  | 0 => .ok (s, [])
  | m + 1 => do
    let ea ← fatAddS p (8 * k : Nat)
    s.checkScalar ea 8 false
    let (t, v) ← s.loadScalar ea 8
    let (u, r) ← t.mcList p (k + 1) m
    .ok (u, BitVec.ofNat 64 v :: r)

/-- `VSTMC` (R212). -/
def execVstmc (d : VNum) (a b : XReg) (k : MReg) (s : State) : Host.Outcome State Fault Refusal :=
  act s (do
    let f : VForm := ⟨2, 5, 0⟩
    s.vecBegin f
    let v := s.me.vec
    f.group v d.toNat v.g
    let c := (s.rx b).toNat
    if v.len = 0 || c = 0 then .ok s.vecFinish
    else
      f.need (decide (c ≤ 64))
      let (t, ptrs) ← s.mcList (s.rx a) 0 c
      let u ← t.storeElems v.sew false (ptrs.flatMap (fun p => v.accs k p (unitOff v.sew 0)))
        (fun x => v.elem d.toNat x.i v.sew)
      .ok u.vecFinish)

/-- The operation of a reducing store on the memory element and the register element (R213); `none` where it does not admit
the element type. -/
def VecState.redOp (v : VecState) (md : RMode) (op : Nat) : Option (Nat → Nat → NRes) :=
  let flt : Option Fmt := if v.sew = 8 then none else v.fmt
  match op with
  | 0 => some (fun m e => ⟨(m + e) % 2 ^ v.sew, Raised.none⟩)
  | 1 => some (fun m e => ⟨if intVal v.sew v.sgn m ≤ intVal v.sew v.sgn e then m else e, Raised.none⟩)
  | 2 => some (fun m e => ⟨if intVal v.sew v.sgn m ≤ intVal v.sew v.sgn e then e else m, Raised.none⟩)
  | 3 => flt.map (fun t m e => fAdd t md (t.val m) (t.val e))
  | 4 => flt.map (fun t m e => fMinMax t false m e)
  | _ => flt.map (fun t m e => fMinMax t true m e)

/-- Combining each element into memory in rising index, with the flags raised (R213). -/
def State.combine (s : State) (n : Nat) (op : Nat → Nat → NRes) (val : Nat → Nat) (l : List VLoc) : State :=
  l.foldl (fun t x =>
    let r := op (ofBytes (t.st.get x.loc n)) (val x.i)
    ((t.putAt x.loc (vaOf x.ea) (toBytes n r.v)).viaOwner pCore (vaOf x.ea) 0).raise r.fl) s

/-- `VSTRED` (R213). -/
def execVstred (d : VNum) (a : XReg) (b : VNum) (k : MReg) (op : BitVec 3) (s : State) : Host.Outcome State Fault Refusal :=
  act s (do
    let f : VForm := ⟨2, 5, 1⟩
    s.vecBegin f
    let v := s.me.vec
    match v.redOp (s.rmode 0) op.toNat with
    | none => f.bad
    | some g =>
      let w ← s.indexGroup f b
      f.group v d.toNat v.g
      let ads ← s.elemAddrs v.sew (v.accs k (s.rx a) (fun i => (v.elem b.toNat i w : Int)))
      let (t, locs) ← s.confirmElems v.sew rW ads
      let t1 ← t.storeGate true v.sew locs
      .ok (t1.combine (v.sew / 8) g (fun i => v.elem d.toNat i v.sew) locs).vecFinish)

end Sys2Proof.Machine
end

