-- ==== Sys2Proof/Machine/Engine.lean ====
section
/-! DEFINITION. Copy, gather and collective engines (spec/10_engines.md). -/

namespace Sys2Proof.Machine

/-! ## Copy commands (R265 to R267) -/

/-- A copy command in its named fields (R265). -/
structure CopyForm where
  ndim : Nat
  log2e : Nat
  notrack : Bool
  src : Word
  dst : Word
  flag : Nat
  cnt : List Nat
  sstr : List Int
  dstr : List Int
  deriving DecidableEq, Repr

/-- Word `k` of a command. -/
def cmdWord (w : List Word) (k : Nat) : Nat := (w.getD k 0).toNat

/-- `CNT[k]` (R265). -/
def cmdCnt (w : List Word) (k : Nat) : Nat := bitsOf (cmdWord w (4 + k / 2)) (32 * (k % 2)) 32

/-- The fields of a command, its dimensions those below `NDIM`. -/
def copyForm (w : List Word) : CopyForm :=
  let n := bitsOf (cmdWord w 0) 0 4
  { ndim := n, log2e := bitsOf (cmdWord w 0) 4 3, notrack := bitOf (cmdWord w 0) 8, src := w.getD 1 0, dst := w.getD 2 0,
    flag := cmdWord w 3, cnt := (List.range n).map (cmdCnt w),
    sstr := (List.range n).map (fun k => (w.getD (9 + k) 0).toInt), dstr := (List.range n).map (fun k => (w.getD (19 + k) 0).toInt) }

/-- Format code of a pointer (R152). -/
def ptrCode (p : Word) : Nat := bitsOf p.toNat 59 5
/-- `LB` of a pointer (R152). -/
def ptrLb (p : Word) : Nat := bitsOf p.toNat 56 3
/-- A pointer with an MX code. -/
def ptrMx (p : Word) : Bool := (fatMx (ptrCode p)).isSome

/-- The number of tuples. -/
def CopyForm.tuples (c : CopyForm) : Nat := c.cnt.foldl (· * ·) 1

/-- `UnitSize` (R266). -/
def CopyForm.unit (c : CopyForm) : Nat :=
  match fatMx (ptrCode c.src) with
  | some f => 32 + 4 * 2 ^ ptrLb c.src * f.width
  | none => 2 ^ c.log2e

/-- Reason 1 `MALFORMED` (R267). -/
def copyMalformed (w : List Word) : Bool :=
  let c := copyForm w
  let beyond := (List.range 10).filter (fun k => decide (c.ndim ≤ k))
  bitOf (cmdWord w 0) 7 || bitsOf (cmdWord w 0) 12 52 != 0 || c.ndim == 0 || decide (10 < c.ndim) || decide (4 < c.log2e) ||
    c.cnt.any (· == 0) || beyond.any (fun k => cmdCnt w k != 0 || cmdWord w (9 + k) != 0 || cmdWord w (19 + k) != 0) ||
    c.flag % 8 != 0 || decide (2 ^ 48 < c.tuples)

/-- One end admits elements of `n` bytes: plain, or a code whose elements have that size (R266). -/
def endSize (code n : Nat) : Bool := code == 0 || code == 31 || fatSize code == some n

/-- Reason 2 `FORMAT` (R267). -/
def CopyForm.badFormat (c : CopyForm) : Bool :=
  let a := ptrCode c.src
  let b := ptrCode c.dst
  if ptrMx c.src || ptrMx c.dst then a != b || ptrLb c.src != ptrLb c.dst || c.log2e != 0
  else !endSize a (2 ^ c.log2e) || !endSize b (2 ^ c.log2e) || ((fatSize a).isSome && (fatSize b).isSome && a != b)

/-- Reason 3 `ALIGN` (R267). -/
def CopyForm.badAlign (c : CopyForm) : Bool :=
  let u := if ptrMx c.src then 32 else c.unit
  vaOf c.src % u != 0 || vaOf c.dst % u != 0 || (c.sstr ++ c.dstr).any (fun d => d % (u : Int) != 0)

/-- Least and greatest offset over the tuples (R267). -/
def spanOf (cnt : List Nat) (str : List Int) : Int × Int :=
  match cnt, str with
  | n :: ns, d :: ds =>
    let r := spanOf ns ds
    let m := ((n : Int) - 1) * d
    (r.1 + min 0 m, r.2 + max 0 m)
  | _, _ => (0, 0)

/-- An end's least and greatest element address lie in range (R267). -/
def inRange (base : Nat) (span : Int × Int) (u : Nat) : Bool :=
  decide (0 ≤ (base : Int) + span.1) && decide ((base : Int) + span.2 ≤ 2 ^ 56 - (u : Int))

/-- Reason 4 `RANGE` (R267). -/
def CopyForm.badRange (c : CopyForm) : Bool :=
  !inRange (vaOf c.src) (spanOf c.cnt c.sstr) c.unit || !inRange (vaOf c.dst) (spanOf c.cnt c.dstr) c.unit

/-- Commands queued at an engine (R267, R269). -/
def Die.copyQueue (d : Die) (e : Nat) : List CopyCmd := d.engines.get [] e

/-- The engine with the fewest queued commands, ties to the lower (R269). -/
def Die.leastEngine (d : Die) : Nat :=
  (List.range 4).foldl (fun m e => if (d.copyQueue e).length < (d.copyQueue m).length then e else m) 0

/-- A free slot of a context's table (R271); 64 where there is none. DESIGN CHOICE: which free slot a command takes the rule leaves open;
the model takes the lowest (log entry 108). -/
def freeSlot (l : List CopySlot) : Nat :=
  ((List.range 64).find? (fun k => l.all (fun x => bitsOf x.handle.toNat 40 6 != k))).getD 64

/-- The promise of a command accepted now (R271): later than `DCYC`, otherwise free. -/
def State.promise (s : State) (d : Nat) (j : Nat) : Word :=
  (s.die d).dcyc + 1 + BitVec.ofNat 64 ((Config.word s.free (16 * j + 9)).toNat % 2 ^ 32)

/-- The reason for which a command is rejected, or 0 (R267). -/
def State.copyReason (s : State) (w : List Word) (deadline : Word) (promise : Word) : Nat :=
  let c := copyForm w
  let D := s.die (dieOf s.cur)
  if copyMalformed w then 1
  else if c.badFormat then 2
  else if c.badAlign then 3
  else if c.badRange then 4
  else if (!c.notrack && decide (64 ≤ s.me.slots.length)) || decide (64 ≤ (D.copyQueue D.leastEngine).length) then 5
  else if deadline != 0 && decide (deadline.toNat < promise.toNat) then 6
  else 0

/-- The handle of a command (R271). -/
def handleOf (die eng slot : Nat) (seq : BitVec 32) : Word :=
  BitVec.ofNat 64 (2 ^ 63 + die * 2 ^ 48 + eng * 2 ^ 46 + slot * 2 ^ 40 + seq.toNat)

/-- A command accepted by the executing context's die (R269, R271): the state, and its handle. -/
def State.acceptCopy (s : State) (w : List Word) (promise : Word) : State × Word :=
  let d := dieOf s.cur
  let D := s.die d
  let e := D.leastEngine
  let c := copyForm w
  let h := if c.notrack then 0 else handleOf d e (freeSlot s.me.slots) D.copySeq
  let cmd : CopyCmd := { words := w, owner := s.ownerOf s.cur, src := s.cur, pdid := s.me.pdid, launchId := s.me.launchId,
                         handle := h, started := false }
  let t := (s.setDie d { D with engines := D.engines.set e (D.copyQueue e ++ [cmd]), copySeq := D.copySeq + 1 }).push
    .copyCommandStart (.engine d e)
  (if c.notrack then t else t.withMe { t.me with slots := t.me.slots ++ [{ handle := h, promise := promise }] }, h)

/-- What `CPBATCH` writes for a command (R268): the elements, and the mask bit. -/
structure BatchRes where
  els : List (Nat × Nat)
  bits : List (Nat × Bool)
  deriving DecidableEq, Repr

/-- The commands of a batch from command `j` on, `n` of them, checked and accepted in order (R267, R268). -/
def State.batch (s : State) (v : VecState) (b : VNum) (k : MReg) (d : MReg) (deadline : Word) (j n : Nat) : State × BatchRes :=
  match n with
  | 0 => (s, ⟨[], []⟩)
  | m + 1 =>
    if v.mbit k (32 * j) then
      let w := (List.range 32).map (fun i => BitVec.ofNat 64 (v.elem b.toNat (32 * j + i) 64))
      let p := s.promise (dieOf s.cur) j
      let r := s.copyReason w deadline p
      let a := if r = 0 then s.acceptCopy w p else (s, 0)
      let o := a.1.batch v b k d deadline (j + 1) m
      (o.1, ⟨(32 * j + 29, if r = 0 then p.toNat else 0) :: (32 * j + 30, a.2.toNat) :: (32 * j + 31, r) :: o.2.els,
             (32 * j, r == 0) :: o.2.bits⟩)
    else
      let o := s.batch v b k d deadline (j + 1) m
      (o.1, ⟨o.2.els, (32 * j, v.mbit d (32 * j)) :: o.2.bits⟩)

/-- Mask `d` set by `CPBATCH` (R268): the bits given, and every other bit 0. -/
def VecState.batchMask (v : VecState) (d : MReg) (l : List (Nat × Bool)) : VecState :=
  if d = 0 then v
  else { v with m := v.m.setIfInBounds d.toNat (BitVec.ofNat 8192 (l.foldl (fun m p => setBits m p.1 1 p.2.toNat) 0)) }

/-- `CPBATCH` (R268). -/
def execCpbatch (d : MReg) (a : XReg) (b : VNum) (k : MReg) (s : State) : Host.Outcome State Fault Refusal :=
  act s (do
    let f : VForm := ⟨5, 0, 0⟩
    s.vecBegin f
    let v := s.me.vec
    f.need (v.sew == 64 && v.len % 32 == 0)
    f.group v b.toNat v.g
    let o := s.batch v b k d (s.rx a) 0 (v.len / 32)
    let t := o.1.putElems b v.g 64 v.len o.2.els
    .ok (t.withVec (t.me.vec.batchMask d o.2.bits)).vecFinish)

/-! ## Performing a command (R266, R269, R270) -/

/-- A command, or the instance of a collective, as the maker of its accesses. -/
def engReq (pdid : BitVec 12) (die : Nat) : Req := { pdid := pdid, core := none, die := die, staging := none }

/-- Offset of tuple `idx`, dimension 0 the fastest (R266). -/
def tupleOff (cnt : List Nat) (str : List Int) (idx : Nat) : Int :=
  match cnt, str with
  | n :: ns, d :: ds => ((idx % n : Nat) : Int) * d + tupleOff ns ds (idx / n)
  | _, _ => 0

/-- Source and destination address of tuple `idx` (R266). -/
def CopyForm.from_ (c : CopyForm) (idx : Nat) : Nat := ((vaOf c.src : Int) + tupleOff c.cnt c.sstr idx).toNat
def CopyForm.to_ (c : CopyForm) (idx : Nat) : Nat := ((vaOf c.dst : Int) + tupleOff c.cnt c.dstr idx).toNat

/-- The rights that a domain lacks of those needed over `n` bytes, with the first address that lacks them; no right is asked of
the device ranges that no window covers. -/
def State.lacks (s : State) (pdid : BitVec 12) (need : BitVec 5) (va n : Nat) : Option (BitVec 4 × Nat) :=
  let free (a : Nat) : Bool :=
    match s.region a with
    | .reserved => true
    | .staging _ => true
    | .doorbell _ _ => true
    | .peerDoorbell _ => true
    | _ => false
  let miss (a : Nat) : BitVec 5 := if free a then 0 else need &&& ~~~(s.tableRights pdid (segOf a))
  let last := va + n - 1
  if miss va != 0 then some (missingBits (miss va), va)
  else if segOf last != segOf va && miss last != 0 then some (missingBits (miss last), segOf last * 2 ^ 21)
  else none

/-- The first denial of a command's footprint, from tuple `idx` on, `n` tuples (R269). -/
def State.copyDenied (s : State) (c : CopyForm) (pdid : BitVec 12) (idx n : Nat) : Option (BitVec 4 × Nat) :=
  match n with
  | 0 => none
  | m + 1 =>
    match s.lacks pdid rER (c.from_ idx) c.unit with
    | some e => some e
    | none =>
      match s.lacks pdid rEW (c.to_ idx) c.unit with
      | some e => some e
      | none => s.copyDenied c pdid (idx + 1) m

/-- The denial of a command, its flag included (R269). -/
def State.cmdDenied (s : State) (k : CopyCmd) : Option (BitVec 4 × Nat) :=
  let c := copyForm k.words
  match s.copyDenied c k.pdid 0 c.tuples with
  | some e => some e
  | none => if c.flag = 0 then none else s.lacks k.pdid rEW (c.flag % 2 ^ 56) 8

/-- The engine command stream of an owner starts nothing: it is frozen, its record is held, or its kill waits for earlier ones (R269, R391,
R397). DESIGN CHOICE: what stops is every command of the stream that has not started, on every engine, an earlier one than the one
denied too (log entry 124). -/
def State.streamStopped (s : State) (o : Owner) : Bool :=
  match s.holderOf o with
  | some c => (s.ctx c).engFrozen || s.streamHeld c 2 || s.kills.contains (.engine c)
  | none => s.saved.any (fun x => x.owner == o && x.engFrozen)

/-- The engine command stream of an owner frozen (R269, R281): its record (R390, kind 2), and vector 0 of its domain. -/
def State.freezeEngine (s : State) (o : Owner) (src : CtxId) (pdid : BitVec 12) (launchId : BitVec 32) (e : BitVec 4 × Nat) :
    State :=
  let c := (s.holderOf o).getD src
  let fid := match o with
    | .firing _ f => f
    | .ctx _ => 0
  let t := if (s.holderOf o).isSome then s.setCtx c { s.ctx c with engFrozen := true } else s.freezeSaved o true
  (t.offerRecord (dieOf c)
    { code := cProtViol, info := e.1.setWidth 16, master := { masterOf c with kind := 2 }, faddr := BitVec.ofNat 64 e.2, fpc := 0,
      fid := fid, launchId := launchId, pdid := pdid, cycle := (s.die (dieOf c)).dcyc }).raiseVector pdid.toNat 0

/-- Some byte of a range lies in a flagged region (R376). -/
def State.flaggedIn (s : State) (va n : Nat) : Bool :=
  s.dir.any (fun e => e.flag != .none && decide (e.line ≤ (va + n - 1) / 128) && decide (va / 128 < e.line + 2 ^ e.lg))

/-- The record of an engine operation of an owner that has read a flagged region (R376, R390, kind 2), and vector 0 of its
domain; the rules give it no `INFO` and no `FADDR` (log entry 8). -/
def State.poisonRead (s : State) (o : Owner) (src : CtxId) (pdid : BitVec 12) (launchId : BitVec 32) : State :=
  let c := (s.holderOf o).getD src
  let fid := match o with
    | .firing _ f => f
    | .ctx _ => 0
  (s.offerRecord (dieOf c)
    { code := cPoisonless, info := (Config.word s.free 16).setWidth 16, master := { masterOf c with kind := 2 },
      faddr := Config.word s.free 17, fpc := 0, fid := fid, launchId := launchId, pdid := pdid,
      cycle := (s.die (dieOf c)).dcyc }).raiseVector pdid.toNat 0

/-- The list with its first element that satisfies `p` changed. -/
def updFirst {α : Type} (p : α → Bool) (f : α → α) (l : List α) : List α :=
  match l with
  | [] => []
  | a :: r => if p a then f a :: r else a :: updFirst p f r

/-- The state with an engine's queue replaced. -/
def State.setCopyQueue (s : State) (d e : Nat) (l : List CopyCmd) : State :=
  s.setDie d { s.die d with engines := (s.die d).engines.set e l }

/-- `COPY_COMMAND_START` (R269): the engine, when it runs no command, takes its oldest one whose stream is not frozen; a denial
freezes the stream. -/
def State.copyStart (s : State) (d e : Nat) : State :=
  let q := (s.die d).copyQueue e
  if q.any (·.started) then s
  else match q.find? (fun k => !s.streamStopped k.owner) with
    | none => s
    | some k =>
      match s.cmdDenied k with
      | some x => s.freezeEngine k.owner k.src k.pdid k.launchId x
      | none =>
        (s.setCopyQueue d e (updFirst (fun j => j == k) (fun j => { j with started := true }) q)).push .copyCommandComplete (.engine d e)

/-- `COPY_COMMAND_START` (R269). -/
def execCopyCommandStart (s : State) : Host.Outcome State Fault Refusal :=
  match s.opd with
  | .engine d e => .next (s.copyStart d e)
  | _ => .next s

/-! ### Lines made ready for an engine (R263) -/

/-- An address in each line of a range, the first of the range in its first line. -/
def lineList (va n : Nat) : List Nat := (List.range (lineCount va n)).map (fun k => if k = 0 then va else (va / 128 + k) * 128)

/-- Lines made ready by `f` for accesses of a maker; an address without a translation is passed over. In error, the state in which
the engine waits for a holder. -/
def State.takeEach (s : State) (r : Req) (f : State → Nat → Loc → Except State State) (l : List Nat) : Except State State :=
  match l with
  | [] => .ok s
  | va :: t =>
    match s.locate r 0 va with
    | .error _ => s.takeEach r f t
    | .ok (s1, m) =>
      match f s1 va m with
      | .error u => .error u
      | .ok u => u.takeEach r f t

/-- The owner-region accesses to lines of an engine in die `d`, 8 for a switch die, have been performed, each with its reply: of a read
its first eight bytes (R342). -/
def State.viaEngine (s : State) (r : Req) (d key : Nat) (own : Bool) (l : List Nat) : State :=
  l.foldl (fun t va =>
    if t.ownerAway d va then
      (match t.locate r 0 va with
       | .ok (_, m) => t.linkedBy key (if own then 0 else BitVec.ofNat 64 (ofBytes (t.st.get m 8)))
       | .error _ => t)
    else t) s

/-- The lines of a command's tuples from `idx` on, `n` of them, made ready. -/
def State.takeTuples (s : State) (r : Req) (c : CopyForm) (idx n : Nat) : Except State State :=
  match n with
  | 0 => .ok s
  | k + 1 =>
    match s.takeEach r (fun t => t.claimEngine r.die false) (lineList (c.from_ idx) c.unit) with
    | .error u => .error u
    | .ok s1 =>
      match s1.takeEach r (fun t => t.claimEngine r.die true) (lineList (c.to_ idx) c.unit) with
      | .error u => .error u
      | .ok s2 => s2.takeTuples r c (idx + 1) k

/-- The lines that a command reads and writes, its flag's included, made ready (R263). -/
def State.takeCommand (s : State) (r : Req) (c : CopyForm) : Except State State :=
  match s.takeTuples r c 0 c.tuples with
  | .error u => .error u
  | .ok t => if c.flag = 0 then .ok t else t.takeEach r (fun u => u.claimEngine r.die true) [c.flag % 2 ^ 56]

/-! ### The copy (R266) -/

/-- A range of at most 64 KiB, by the 64 KiB pages that it enters. -/
def pagePieces (va n : Nat) : List (Nat × Nat) :=
  let k := 65536 - va % 65536
  if n ≤ k then [(va, n)] else [(va, k), (va + k, n - k)]

/-- Where the pieces of a range lie, each with its length; in error, the lowest address that has no translation. -/
def State.spanLocs (s : State) (r : Req) (l : List (Nat × Nat)) : Except Nat (List (Loc × Nat)) :=
  match l with
  | [] => .ok []
  | (va, n) :: t =>
    match s.locate r 0 va with
    | .error _ => .error va
    | .ok (_, m) =>
      match s.spanLocs r t with
      | .error e => .error e
      | .ok q => .ok ((m, n) :: q)

/-- The bytes of located pieces as a path sees them beside the writes `w`. -/
def Stores.spanGet (st : Stores) (free path : Nat) (w : List PathWrite) (l : List (Loc × Nat)) : List Byte :=
  l.flatMap (fun p => st.getSeen free path w p.1 p.2)

/-- An engine's write of a context's path does not follow the store: none has ordered the path after it, and whether it had been performed
into its core's cache when the engine recalled its line is free (R262, R263). -/
def PathWrite.late (e : PathWrite) (free path : Nat) : Bool :=
  e.path == pCore && e.unseen.getLsbD path && Config.pick free (16 * e.id + 14)

/-- The records of a byte that an engine writes beneath the late stores to it: the oldest of those has replaced the engine's byte.
`none` where the latest store to the byte has been performed. -/
def beneath (free id path : Nat) (l : Loc) (b : Byte) (w : List PathWrite) : Option (List PathWrite) :=
  match w with
  | [] => none
  | e :: r =>
    match e.oldAt l with
    | none => (beneath free id path l b r).map (fun q => e :: q)
    | some o =>
      if e.late free path then
        match beneath free id path l b r with
        | some q => some (e :: q)
        | none => some ({ e with old := e.old.set (l.a - e.loc.a) b } :: pathWrite id path l [o] :: r)
      else none

/-- The records and the bytes in memory after an engine has written bytes for a context (R263): of those in `now`, one that a late store
wrote stays. -/
def engineBytes (free id path : Nat) (l : Loc) (now bs : List Byte) (w : List PathWrite) : List PathWrite × List Byte :=
  match now, bs with
  | o :: os, b :: r =>
    match beneath free id path l b w with
    | some q => let u := engineBytes free id path (l.add 1) os r q; (u.1, o :: u.2)
    | none => let u := engineBytes free id path (l.add 1) os r (pathWrite id path l [o] :: w); (u.1, b :: u.2)
  | _, _ => (w, [])

/-- An engine's write for a context, performed at its home (R263, R270): it follows the context's stores to the same bytes where a `FENCEX`
has ordered it after them (R262). -/
def State.engineWrite (s : State) (c : Option CtxId) (path : Nat) (l : Loc) (bs : List Byte) : State :=
  let now := s.st.get l bs.length
  match c with
  | none => s.writeHome l bs
  | some c =>
    let w := (s.ctx c).paths
    if pathed c && w.any (fun e => e.meets l bs.length && e.late s.free path) then
      let u := engineBytes s.free (freshWrite w) path l now bs w
      let t := s.writeHome l u.2
      t.setCtx c { t.ctx c with paths := u.1 }
    else (s.writeHome l bs).notePath (some c) path l now

/-- The reads of located pieces made for a context on a path. -/
def State.spanSaw (s : State) (c : Option CtxId) (path : Nat) (l : List (Loc × Nat)) : State :=
  l.foldl (fun t p => t.sawOn c path p.1 p.2) s

/-- The records of a context, if there is one. -/
def State.pathsAt (s : State) (c : Option CtxId) : List PathWrite :=
  match c with
  | some c => (s.ctx c).paths
  | none => []

/-- The pieces of a range written for a context. -/
def State.spanPut (s : State) (c : Option CtxId) (path : Nat) (l : List (Loc × Nat)) (bs : List Byte) : State :=
  match l with
  | [] => s
  | (m, n) :: t => (s.engineWrite c path m (bs.take n)).spanPut c path t (bs.drop n)

/-- Where a tuple's source and destination lie; in error, the lowest of its addresses that has no translation (R270). -/
def State.tupleLocs (s : State) (r : Req) (a b n : Nat) : Except Nat (List (Loc × Nat) × List (Loc × Nat)) :=
  match s.spanLocs r (pagePieces a n), s.spanLocs r (pagePieces b n) with
  | .ok l, .ok m => .ok (l, m)
  | .ok _, .error y => .error y
  | .error x, .ok _ => .error x
  | .error x, .error y => .error (min x y)

/-- What a copy has done: the state, the bytes of the destination it has written, the lowest address that failed, and whether
it has read a flagged region. `who` is the context that it is made for. -/
structure CopyRun where
  s : State
  who : Option CtxId
  done : List Nat
  bad : Option Nat
  poison : Bool

/-- The bytes that a tuple leaves at its destination: where the command has written a byte already, either value (R266). -/
def overlapBytes (free : Nat) (salt a : Nat) (old new : List Byte) (done : List Nat) : List Byte :=
  match old, new with
  | o :: os, n :: ns =>
    (if done.contains a && Config.pick free (16 * (salt + a) + 10) then o else n) :: overlapBytes free salt (a + 1) os ns done
  | _, ns => ns

/-- A tuple copied (R266): each 16-byte piece of its source read before or after the writes of the command's earlier tuples to it, and
before those of later ones, as a later write may always be taken to be (DESIGN CHOICE, log entry 123). -/
def CopyRun.tuple (r : CopyRun) (orig : State) (idx b n : Nat) (l m : List (Loc × Nat)) : CopyRun :=
  let from_ (s : State) : List Byte := s.st.spanGet s.free pCopy (s.pathsAt r.who) l
  let old := from_ orig
  let src := if r.done.isEmpty then from_ r.s
    else (from_ r.s).mapIdx (fun k v => if Config.pick r.s.free (16 * (4096 * idx + k / 16) + 11) then (old[k]?).getD v else v)
  let bs := overlapBytes r.s.free idx b (r.s.st.spanGet 0 pCopy [] m) src r.done
  { r with s := (r.s.spanSaw r.who pCopy l).spanPut r.who pCopy m bs, done := (List.range n).map (fun i => b + i) ++ r.done }

/-- The copy, which reads `n` bytes from an address (R376). -/
def CopyRun.reads (r : CopyRun) (va n : Nat) : CopyRun := { r with poison := r.poison || r.s.flaggedIn va n }

/-- The tuples of a command from `idx` on, `n` of them (R266, R269): after one that has failed each may be copied or not. -/
def CopyRun.all (r : CopyRun) (orig : State) (c : CopyForm) (q : Req) (idx n : Nat) : CopyRun :=
  match n with
  | 0 => r
  | k + 1 =>
    let r1 := match r.s.tupleLocs q (c.from_ idx) (c.to_ idx) c.unit with
      | .error a => { r with bad := some (min a (r.bad.getD a)) }
      | .ok (l, m) =>
        if r.bad.isSome && Config.pick r.s.free (16 * idx + 12) then r
        else (r.reads (c.from_ idx) c.unit).tuple orig idx (c.to_ idx) c.unit l m
    r1.all orig c q (idx + 1) k

/-- The status word of a completed command (R270). -/
def copyStatus (bad : Option Nat) : Word :=
  match bad with
  | none => 0
  | some a => BitVec.ofNat 64 (1 + 256 * a)

/-- An engine's flag written, a strong write (R270, R294, R315, R317): where the host may hold the line, once it has answered (R385). -/
def State.putFlag (s : State) (c : Option CtxId) (path : Nat) (l : Loc) (v : Word) : State :=
  match s.hostWait l with
  | some u => { u with hostWrites := u.hostWrites ++ [(l, toBytes 8 v.toNat)] }
  | none => (s.engineWrite c path l (toBytes 8 v.toNat)).strongBy none l 8

/-- The flag of a command written with a status word (R270); where it has no translation nothing is (log entry 48). -/
def State.writeFlag (s : State) (k : CopyCmd) (die e : Nat) (v : Word) : State :=
  let fl := (copyForm k.words).flag
  if fl = 0 then s
  else match s.locate (engReq k.pdid die) 0 (fl % 2 ^ 56) with
    | .ok (_, l) =>
      let t := s.putFlag (s.holderOf k.owner) pCopy l v
      t.viaEngine (engReq k.pdid die) die (engineKey die e) true [fl % 2 ^ 56]
    | .error _ => s

/-- The context that holds a handle's slot, with its table without it. -/
def State.freeCopySlot (s : State) (c : CtxId) (h : Word) : State :=
  let x := s.ctx c
  let d := bitsOf h.toNat 48 3
  (s.setCtx c { x with slots := x.slots.filter (fun k => k.handle != h) }).setDie d
    { s.die d with copyDone := (s.die d).copyDone.filter (fun p => p.1 != h) }

/-- The contexts that wait on a handle receive its status word (R272, R273). -/
def State.wakeCopies (s : State) (h v : Word) : State :=
  s.waiters.foldl (fun t (c, w) =>
    match w with
    | .copy g _ rd len => if g == h then (t.wakeWith c rd len v).freeCopySlot c h else t
    | _ => t) s

/-- A command's end: its flag, its status kept for its handle, and the waits on it (R270, R272). -/
def State.copyEnd (s : State) (d e : Nat) (k : CopyCmd) (v : Word) : State :=
  let t := s.writeFlag k d e v
  if k.handle = 0 then t
  else (t.setDie d { t.die d with copyDone := (t.die d).copyDone ++ [(k.handle, v)] }).wakeCopies k.handle v

/-- The owner-region accesses of a command's tuples (R342). -/
def State.viaTuples (s : State) (r : Req) (key : Nat) (c : CopyForm) : State :=
  (List.range c.tuples).foldl (fun t k =>
    (t.viaEngine r r.die key false (lineList (c.from_ k) c.unit)).viaEngine r r.die key true (lineList (c.to_ k) c.unit)) s

/-- `COPY_COMMAND_COMPLETE` (R266, R270): the started command's tuples are performed and it completes, once every line of them has
been recalled (R263), and once no record of its stream waits if it has one to offer (R391). -/
def State.copyComplete (s0 : State) (d e : Nat) : State :=
  match ((s0.die d).copyQueue e).find? (·.started) with
  | none => s0
  | some k =>
    let c := copyForm k.words
    match s0.takeCommand (engReq k.pdid d) c with
    | .error u => u
    | .ok s =>
    let r := CopyRun.all { s := s, who := s.holderOf k.owner, done := [], bad := none, poison := false }
      s c (engReq k.pdid d) 0 c.tuples
    if r.poison && s.streamHeld ((s.holderOf k.owner).getD k.src) 2 then s0
    else
    let u := if r.poison then r.s.poisonRead k.owner k.src k.pdid k.launchId else r.s
    let t := (u.viaTuples (engReq k.pdid d) (engineKey d e) c).setCopyQueue d e (((s.die d).copyQueue e).erase k)
    (t.copyEnd d e k (copyStatus r.bad)).push .copyCommandStart (.engine d e)

/-- `COPY_COMMAND_COMPLETE` (R270). -/
def execCopyCommandComplete (s : State) : Host.Outcome State Fault Refusal :=
  match s.opd with
  | .engine d e => .next (s.copyComplete d e)
  | _ => .next s

/-- The commands of an owner that have not started end `KILLED` (R275, R397), on one engine. -/
def State.killQueue (s : State) (o : Owner) (d e : Nat) : State :=
  let q := (s.die d).copyQueue e
  let dead := q.filter (fun k => k.owner == o && !k.started)
  dead.foldl (fun t k => t.copyEnd d e k 2) (s.setCopyQueue d e (q.filter (fun k => k.owner != o || k.started)))

/-- The unstarted commands of an owner end `KILLED`, on every engine of the package. DESIGN CHOICE: their flags are written without a check of
`E` and `W` over them, even where their denial has frozen the stream (log entry 125). -/
def State.killCommands (s : State) (o : Owner) : State :=
  (List.range 32).foldl (fun t k => t.killQueue o (k / 4) (k % 4)) s

/-! ## `CPSLEEP` and `CPWAIT` (R272 to R274) -/

/-- The status word of a completed tracked command. -/
def State.copyStatusOf (s : State) (h : Word) : Option Word :=
  ((s.die (bitsOf h.toNat 48 3)).copyDone.find? (fun p => p.1 == h)).map (·.2)

/-- The fault `PROMISE_MISSED` taken by the executing context, with `MISSACK` set (R272); while its last record is held it is not taken
yet (log entry 110). -/
def State.missPromise (s : State) (h : Word) : State :=
  let t := s.stop (.open_ cPromiseMissed (some h))
  if s.recordHeld s.cur then t else t.withMe { t.me with missack := true }

/-- The wait of `CPSLEEP` and of `CPWAIT` (R272, R273): `timed` when the promise counts. -/
def State.copyWait (s : State) (d : XReg) (h : Word) (timed : Bool) : Except Stop State :=
  match s.me.slots.find? (fun k => k.handle == h) with
  | none => .ok (s.wx d 0xFE).finish
  | some k =>
    match s.copyStatusOf h with
    | some v => .ok ((s.freeCopySlot s.cur h).wx d v).finish
    | none =>
      if !timed || s.me.missack || bitsOf h.toNat 48 3 != dieOf s.cur then .ok (s.park (.copy h none d s.ilen))
      else if k.promise.toNat < (s.die (dieOf s.cur)).dcyc.toNat then .ok (s.missPromise h)
      else .ok (s.park (.copy h (some k.promise) d s.ilen))

/-- `CPSLEEP` (R272). -/
def execCpsleep (d a : XReg) (s : State) : Host.Outcome State Fault Refusal :=
  act s (do
    s.permit 5 1 0
    s.resync.copyWait d (s.rx a) true)

/-- `CPWAIT` (R273). -/
def execCpwait (d a : XReg) (s : State) : Host.Outcome State Fault Refusal :=
  act s (do
    s.permit 5 1 1
    s.resync.copyWait d (s.rx a) false)

/-- `PROMISE_MISSED` (R272): a context that sleeps on a promise that has been reached faults, unless its command has
completed. -/
def State.promiseReached (s : State) (c : CtxId) : State :=
  match (s.ctx c).st, (s.ctx c).wait with
  | .wait, some (.copy h (some p) _ _) =>
    if p.toNat ≤ (s.die (dieOf c)).dcyc.toNat && (s.copyStatusOf h).isNone && !s.recordHeld c then (s.focus c).missPromise h else s
  | _, _ => s

/-- `PROMISE_MISSED` (R272). -/
def execPromiseMissed (s : State) : Host.Outcome State Fault Refusal :=
  match s.opd with
  | .ctx c => .next (s.promiseReached c)
  | _ => .next s

/-! ## Home-split gather (R276, R277) -/

/-- The foreign packages that hold elements of a gather. -/
def State.gatherHomes (s : State) (l : List VAddr_) : List (BitVec 8) :=
  l.foldl (fun m x =>
    let p := BitVec.ofNat 8 (vaOf x.ea / 2 ^ 48)
    match s.region (vaOf x.ea) with
    | .foreign _ => if m.contains p then m else m ++ [p]
    | .peerScratch _ _ _ => if m.contains p then m else m ++ [p]
    | _ => m) []

/-- The executing context holds its gather until the packages of a list have answered; it is held, not parked. -/
def State.awaitGather (s : State) (l : List (BitVec 8)) : State :=
  l.foldl (fun t p => t.push .gatherPackageReply (.ctxPkg s.cur p)) (s.withMe { s.me with wait := some (.gather l s.ilen) })

/-- Every package that the executing context's gather asked has answered. -/
def Ctx.gathered (x : Ctx) : Bool :=
  match x.wait with
  | some (.gather [] _) => true
  | _ => false

/-- `HSGATH` (R276): it confirms when every home package has reported. -/
def execHsgath (d : VNum) (a : XReg) (b : VNum) (k : MReg) (s : State) : Host.Outcome State Fault Refusal :=
  act s (do
    let f : VForm := ⟨5, 2, 0⟩
    s.vecBegin f
    let v := s.me.vec
    f.need (v.vw2 == 3)
    f.group v b.toNat (v.g2 64)
    f.group v d.toNat v.g
    let ads ← s.elemAddrs v.sew (v.accs k (s.rx a) (fun i => signedNat 64 (v.elem b.toNat i 64)))
    let (t, locs) ← s.confirmElems v.sew rR ads
    let homes := s.gatherHomes ads
    if !homes.isEmpty && !s.me.gathered then .error (.hold (t.awaitGather homes))
    let (u, vals) ← t.readElems pGather (v.sew / 8) locs
    .ok (((u.withMe { u.me with wait := none }).putElems d v.g v.sew v.len vals).enqueue v.g).finish)

/-- `GATHER_PACKAGE_REPLY` (R277): a package's element vector has come back. -/
def execGatherPackageReply (s : State) : Host.Outcome State Fault Refusal :=
  match s.opd with
  | .ctxPkg c p =>
    .next (
      match (s.ctx c).wait with
      | some (.gather l len) => s.setCtx c { s.ctx c with wait := some (.gather (l.filter (· != p)) len) }
      | _ => s)
  | _ => .next s

/-! ## Collectives (R278 to R283) -/

/-- A collective descriptor's fields, from its 64 bytes as a number (R278). -/
structure CollDesc where
  npart : Nat
  fmt : Nat
  op : Nat
  root : Nat
  count : Nat
  rsv : Bool
  deriving DecidableEq, Repr

/-- The fields of a descriptor (R278). -/
def collDesc (v : Nat) : CollDesc :=
  { npart := bitsOf v 0 16, fmt := bitsOf v 16 8, op := bitsOf v 24 8, root := bitsOf v 32 16, count := bitsOf v 64 32,
    rsv := bitsOf v 48 16 != 0 || bitsOf v 96 416 != 0 }

/-- A participant record's fields, from its 32 bytes as a number (R278). -/
structure CollRec where
  src : Nat
  dst : Nat
  rank : Nat
  epoch : BitVec 32
  rsv : Bool
  deriving DecidableEq, Repr

/-- The fields of a participant record (R278). -/
def collRec (v : Nat) : CollRec :=
  { src := bitsOf v 0 64 % 2 ^ 56, dst := bitsOf v 64 64 % 2 ^ 56, rank := bitsOf v 128 16, epoch := BitVec.ofNat 32 (bitsOf v 160 32),
    rsv := bitsOf v 144 16 != 0 || bitsOf v 192 64 != 0 }

/-- Element size of a format code. -/
def collSize (fmt : Nat) : Nat := (fatSize fmt).getD 1

/-- The floating format of a code (R152). -/
def fatFloat (code : Nat) : Option Fmt :=
  match code with
  | 9 => some fp16
  | 10 => some bf16
  | 11 => some fp32
  | _ => none

/-- Refusal 1 `BADDESC` (R279) for form 0 `CLRED`, 1 `CLBCAST`, 2 `CLGATHER`. -/
def collBad (form : Nat) (d : CollDesc) (r : CollRec) : Bool :=
  d.rsv || r.rsv || decide (d.npart < 2) || decide (4096 < d.npart) || decide (d.fmt < 1) || decide (11 < d.fmt) ||
    decide (5 < d.op) || (form != 0 && d.op != 0) || (decide (3 ≤ d.op) && (fatFloat d.fmt).isNone) ||
    (if form = 1 then decide (d.npart ≤ d.root) else d.root != 0) || d.count == 0 || decide (2 ^ 24 < d.count) ||
    decide (d.npart ≤ r.rank) || r.src % collSize d.fmt != 0 || r.dst % collSize d.fmt != 0

/-- The open instance of a descriptor and epoch. -/
def State.collAt (s : State) (desc : VAddr) (epoch : BitVec 32) : Option Collective :=
  s.collectives.find? (fun c => c.desc == desc && c.epoch == epoch)

/-- The state with an instance replaced. -/
def State.setColl (s : State) (c : Collective) : State :=
  { s with collectives := s.collectives.map (fun k => if k.desc == c.desc && k.epoch == c.epoch then c else k) }

/-- Open instances of the switch die that a descriptor selects (R278). -/
def State.collsOf (s : State) (d : VAddr) : Nat :=
  (s.collectives.filter (fun k => k.desc.toNat / 2 ^ 48 == d.toNat / 2 ^ 48 && k.desc.toNat / 2 ^ 18 % 2 == d.toNat / 2 ^ 18 % 2)).length

/-- The refusal of a join, or 0 (R279, R283). -/
def State.collRefusal (s : State) (form : Nat) (desc : VAddr) (image : List Byte) (r : CollRec) : Nat :=
  if collBad form (collDesc (ofBytes image)) r then 1
  else match s.collAt desc r.epoch with
    | none => if 1024 ≤ s.collsOf desc then 4 else 0
    | some k =>
      if k.parts.any (fun p => p.rank == r.rank) then 2
      else if k.ended then 6
      else if k.form != form || k.image != image then 3
      else if k.pdid != s.me.pdid then 5
      else 0

/-- A new participant of an instance, with its handle: bit 63 set, unlike any other, and otherwise free (R279). -/
def State.newPart (s : State) (r : CollRec) : Participant :=
  { rank := r.rank, who := s.ownerOf s.cur, from_ := s.cur, launchId := s.me.launchId, handle := BitVec.ofNat 64 (2 ^ 63 + 2 ^ 32 * ((Config.word s.free 13).toNat % 2 ^ 31) + s.free % 2 ^ 32),
    src := BitVec.ofNat 56 r.src, dst := BitVec.ofNat 56 r.dst, waited := false }

/-- A join of an instance (R279). -/
def State.joinColl (s : State) (form : Nat) (desc : VAddr) (image : List Byte) (r : CollRec) : State :=
  let p := s.newPart r
  let t := match s.collAt desc r.epoch with
    | some k => s.setColl { k with parts := k.parts ++ [p] }
    | none =>
      let k : Collective := { desc := desc, epoch := r.epoch, form := form, image := image, pdid := s.me.pdid, parts := [p],
                              status := none, ended := false }
      { s with collectives := s.collectives ++ [k] }
  match t.collAt desc r.epoch with
  | some k => if (collDesc (ofBytes image)).npart ≤ k.parts.length then t.push .collectivePerform (.coll desc r.epoch) else t
  | none => t

/-- `n` doublewords read as scalar loads from a pointer, from word `k` on (R279). -/
def State.readWords (s : State) (p : Word) (k n : Nat) : Except Stop (State × List Byte) :=
  match n with
  | 0 => .ok (s, [])
  | m + 1 => do
    let ea ← fatAddS p (8 * k : Nat)
    s.checkScalar ea 8 false
    let (t, v) ← s.loadScalar ea 8
    let (u, r) ← t.readWords p (k + 1) m
    .ok (u, toBytes 8 v ++ r)

/-- `CLRED`, `CLBCAST` and `CLGATHER` (R279). DESIGN CHOICE: a descriptor that is 8-byte but not 64-byte aligned, of which R278 says no more,
joins as any other (log entry 130). -/
def State.collJoin (s : State) (sel : Nat) (d a b : XReg) : Except Stop State := do
  s.permit 5 3 sel
  if d == a || d == b then illegal 7 5 3
  let (t, img) ← s.resync.readWords (s.rx a) 0 8
  let (u, rb) ← t.readWords (s.rx b) 0 4
  let desc := BitVec.ofNat 56 (vaOf (s.rx a))
  let r := collRec (ofBytes rb)
  let e := u.collRefusal sel desc img r
  if e != 0 then .ok (u.wx d (BitVec.ofNat 64 e)).finish
  else .ok ((u.joinColl sel desc img r).wx d (u.newPart r).handle).finish

/-- `CLRED` (R279). -/
def execClred (d a b : XReg) (s : State) : Host.Outcome State Fault Refusal := act s (s.collJoin 0 d a b)
/-- `CLBCAST` (R279). -/
def execClbcast (d a b : XReg) (s : State) : Host.Outcome State Fault Refusal := act s (s.collJoin 1 d a b)
/-- `CLGATHER` (R279). -/
def execClgather (d a b : XReg) (s : State) : Host.Outcome State Fault Refusal := act s (s.collJoin 2 d a b)

/-- `Op` of a reduction (R280) on two elements. The signedness of `min` and `max` over a floating format is a free choice. -/
def collOp (free fmt op : Nat) (a b : Nat) : NRes :=
  let w := 8 * collSize fmt
  let sg := if fmt ≤ 8 then fmt % 2 == 1 else Config.pick free 14
  let md := RMode.ofCode 0
  match op, fatFloat fmt with
  | 0, _ => ⟨(a + b) % 2 ^ w, Raised.none⟩
  | 1, _ => ⟨if intVal w sg a ≤ intVal w sg b then a else b, Raised.none⟩
  | 2, _ => ⟨if intVal w sg a ≤ intVal w sg b then b else a, Raised.none⟩
  | 3, some t => fAdd t md (t.val a) (t.val b)
  | 4, some t => fMinMax t false a b
  | 5, some t => fMinMax t true a b
  | _, none => ⟨a, Raised.none⟩
  | _, some _ => ⟨a, Raised.none⟩

/-- What a collective has done so far: the state, the flags, the lowest address that failed, and whether it has come to `low`, the lowest
that is going to fail. -/
structure CollRun where
  s : State
  fl : Raised
  bad : Option Nat
  low : Option Nat
  past : Bool

/-- An address that failed noted. -/
def CollRun.fail (r : CollRun) (a : Nat) : CollRun := { r with bad := some (min a (r.bad.getD a)), past := r.past || r.low == some a }

/-- Reading an element of a participant's source on the collective path (R262, R263). -/
def CollRun.read (r : CollRun) (q : Req) (p : Participant) (e n : Nat) : CollRun × Option Nat :=
  let va := p.src.toNat + e * n
  match r.s.locate q 0 va with
  | .ok (_, l) =>
    ({ r with s := r.s.sawOn (r.s.holderOf p.who) pColl l n }, some (ofBytes (r.s.st.getSeen r.s.free pColl (r.s.pathsOf p.who) l n)))
  | .error _ => (r.fail va, none)

/-- Writing an element of a participant's destination on the collective path: after the lowest address that fails it may be made or not
(R281). -/
def CollRun.write (r : CollRun) (q : Req) (p : Participant) (e n v : Nat) : CollRun :=
  let va := p.dst.toNat + e * n
  match r.s.locate q 0 va with
  | .ok (_, l) =>
    if r.past && Config.pick r.s.free (16 * (p.rank + 4096 * e) + 15) then r
    else { r with s := r.s.engineWrite (r.s.holderOf p.who) pColl l (toBytes n v) }
  | .error _ => r.fail va

/-- The participants in order of rank. -/
def byRank (l : List Participant) (n : Nat) : List Participant :=
  (List.range n).filterMap (fun k => l.find? (fun p => p.rank == k))

/-- Element `e` of every participant's source, in order of rank; where one cannot be read there is no list. -/
def CollRun.readAll (r : CollRun) (q : Req) (e n : Nat) (l : List Participant) : CollRun × Option (List Nat) :=
  match l with
  | [] => (r, some [])
  | p :: ps =>
    let o := r.read q p e n
    let u := o.1.readAll q e n ps
    (u.1, match o.2, u.2 with
      | some v, some vs => some (v :: vs)
      | _, _ => none)

/-- The reduction of the ranks' elements, from the first on, with the flags raised (R280). -/
def collFold (free fmt op : Nat) (acc : NRes) (l : List Nat) : NRes :=
  l.foldl (fun a v =>
    let x := collOp free fmt op a.v v
    ⟨x.v, a.fl.or x.fl⟩) acc

/-- One element's writes to every destination, at an offset of `off` elements (R280). -/
def CollRun.spread (r : CollRun) (q : Req) (fmt off v : Nat) (l : List Participant) : CollRun :=
  l.foldl (fun t p => t.write q p off (collSize fmt) v) r

/-- Element `e` of the instance (R280), in the order of its writes; an element that cannot be read is written nowhere (R281). -/
def CollRun.elem (r : CollRun) (q : Req) (form : Nat) (d : CollDesc) (l : List Participant) (e : Nat) : CollRun :=
  let n := collSize d.fmt
  match form with
  | 0 =>
    let o := r.readAll q e n l
    match o.2 with
    | some (v :: vs) =>
      let x := collFold r.s.free d.fmt d.op ⟨v, Raised.none⟩ vs
      CollRun.spread { o.1 with fl := o.1.fl.or x.fl } q d.fmt e x.v l
    | _ => o.1
  | 1 =>
    match l[d.root]? with
    | some p =>
      let o := r.read q p e n
      match o.2 with
      | some v => o.1.spread q d.fmt e v l
      | none => o.1
    | none => r
  | _ =>
    l.foldl (fun t p =>
      l.foldl (fun u k =>
        let o := u.read q k e n
        match o.2 with
        | some v => o.1.write q p (k.rank * d.count + e) n v
        | none => o.1) t) r

/-- Elements `e` to `e` + `k` − 1 of the instance. -/
def CollRun.run (r : CollRun) (q : Req) (form : Nat) (d : CollDesc) (l : List Participant) (e k : Nat) : CollRun :=
  match k with
  | 0 => r
  | j + 1 => (r.elem q form d l e).run q form d l (e + 1) j

/-- The instance performed from state `s` (R280, R281): where an address fails, a first pass tells the lowest that does. -/
def CollRun.perform (s : State) (q : Req) (form : Nat) (d : CollDesc) (l : List Participant) : CollRun :=
  let r := CollRun.run { s := s, fl := Raised.none, bad := none, low := none, past := false } q form d l 0 d.count
  match r.bad with
  | none => r
  | some a => CollRun.run { s := s, fl := Raised.none, bad := none, low := some a, past := false } q form d l 0 d.count

/-- The first denial of a range of `n` elements of `sz` bytes (R281), looked for at its first byte and at the first byte of
every segment that it enters. -/
def State.rangeDenied (s : State) (pdid : BitVec 12) (need : BitVec 5) (va len : Nat) : Option (BitVec 4 × Nat) :=
  (va :: (List.range ((va % 2 ^ 21 + len - 1) / 2 ^ 21)).map (fun k => (segOf va + k + 1) * 2 ^ 21)).findSome?
    (fun a => s.lacks pdid need a 1)

/-- The denial of a participant's ranges (R281). -/
def State.partDenied (s : State) (k : Collective) (d : CollDesc) (p : Participant) : Option (BitVec 4 × Nat) :=
  let n := d.count * collSize d.fmt
  let out := if k.form = 2 then d.npart * n else n
  match s.rangeDenied k.pdid rER p.src.toNat n with
  | some e => some e
  | none => s.rangeDenied k.pdid rEW p.dst.toNat out

/-- The status word of an ended instance (R282). -/
def collStatus (code : Nat) (fl : Raised) (bad : Nat) : Word :=
  BitVec.ofNat 64 (code + 2 ^ 8 * fl.bits.toNat + 2 ^ 16 * (bad / 256 % 2 ^ 48))

/-- The denied participants' engine streams frozen (R281). -/
def State.denyColl (s : State) (k : Collective) (d : CollDesc) : State :=
  k.parts.foldl (fun t p =>
    match s.partDenied k d p with
    | some e =>
      t.freezeEngine p.who p.from_ k.pdid p.launchId e
    | none => t) s

/-- The records of the participants whose sources, as the instance has read them, lie in flagged regions (R376). -/
def State.collPoison (s : State) (k : Collective) (d : CollDesc) : State :=
  k.parts.foldl (fun t p =>
    if (k.form != 1 || p.rank == d.root) && t.flaggedIn p.src.toNat (d.count * collSize d.fmt) then
      t.poisonRead p.who p.from_ k.pdid p.launchId
    else t) s

/-- The lines of an instance's sources and destinations made ready at their homes (R367), and what its engine keeps of those that it
reaches through their owners (R342). -/
def State.takeColl (s : State) (k : Collective) (d : CollDesc) : Except State State :=
  let n := d.count * collSize d.fmt
  let q := engReq k.pdid 0
  let from_ := k.parts.flatMap (fun p => lineList p.src.toNat n)
  let to_ := k.parts.flatMap (fun p => lineList p.dst.toNat (if k.form = 2 then d.npart * n else n))
  match s.takeEach q (fun t => t.claimHome false) from_ with
  | .error u => .error u
  | .ok t =>
    match t.takeEach q (fun t => t.claimHome true) to_ with
    | .error u => .error u
    | .ok u =>
      let key := collKey (k.desc.toNat / 2 ^ 18 % 2 == 1)
      .ok ((u.viaEngine q 8 key false from_).viaEngine q 8 key true to_)

/-- An instance that all ranks have joined is performed (R280, R281), once every line of it is at its home and no record of a participant's
stream waits for the buffer (R391); until then it is tried again. -/
def State.collPerform (s0 : State) (desc : VAddr) (epoch : BitVec 32) : State :=
  match s0.collAt desc epoch with
  | none => s0
  | some k =>
    let d := collDesc (ofBytes k.image)
    if k.status.isSome || decide (k.parts.length < d.npart) || k.parts.any (fun p => s0.streamHeld ((s0.holderOf p.who).getD p.from_) 2) then s0
    else match s0.takeColl k d with
    | .error u => u
    | .ok s =>
      let o : State × Word :=
        if k.parts.any (fun p => (s.partDenied k d p).isSome) then (s.denyColl k d, collStatus 3 Raised.none 0)
        else
          let r := CollRun.perform s (engReq k.pdid 0) k.form d (byRank k.parts d.npart)
          (r.s.collPoison k d, match r.bad with
            | some a => collStatus 1 r.fl a
            | none => collStatus 0 r.fl 0)
      (o.1.setColl { k with status := some o.2 }).push .collectiveEnd (.coll desc epoch)

/-- `COLLECTIVE_PERFORM` (R280). -/
def execCollectivePerform (s : State) : Host.Outcome State Fault Refusal :=
  match s.opd with
  | .coll desc epoch => .next (s.collPerform desc epoch)
  | _ => .next s

/-- An instance that has ended and that every rank has been told of is open no longer (R283). -/
def State.closeColls (s : State) : State :=
  { s with collectives := s.collectives.filter (fun k => !(k.ended && k.parts.all (·.waited))) }

/-- A participant has received its status word, or given up its share (R283). -/
def Collective.told (k : Collective) (o : Owner) (rank : Nat) : Collective :=
  { k with parts := k.parts.map (fun p => if p.who == o && p.rank == rank then { p with waited := true } else p) }

/-- The waits on an ended instance let on (R282). -/
def State.wakeColl (s : State) (desc : VAddr) (epoch : BitVec 32) (v : Word) : State :=
  (s.waiters.foldl (fun t (c, w) =>
    match w with
    | .collective ds ep rank rd len =>
      if ds == desc && ep == epoch then
        match t.collAt desc epoch with
        | some k => (t.wakeWith c rd len v).setColl (k.told (t.ownerOf c) rank)
        | none => t
      else t
    | _ => t) s).closeColls

/-- `COLLECTIVE_END` (R282): the instance ends with its status. -/
def State.collEnd (s : State) (desc : VAddr) (epoch : BitVec 32) : State :=
  match s.collAt desc epoch with
  | none => s
  | some k =>
    match k.status with
    | none => s
    | some v => (s.setColl { k with ended := true }).wakeColl desc epoch v

/-- `COLLECTIVE_END` (R282). -/
def execCollectiveEnd (s : State) : Host.Outcome State Fault Refusal :=
  match s.opd with
  | .coll desc epoch => .next (s.collEnd desc epoch)
  | _ => .next s

/-- The instance and rank that a handle of the executing context names, if it has not been waited on. -/
def State.collHandle (s : State) (h : Word) : Option (Collective × Nat) :=
  s.collectives.findSome? (fun k =>
    (k.parts.find? (fun p => p.handle == h && p.who == s.ownerOf s.cur && !p.waited)).map (fun p => (k, p.rank)))

/-- `CLWAIT` (R282). -/
def execClwait (d a : XReg) (s : State) : Host.Outcome State Fault Refusal :=
  act s (do
    s.permit 5 3 3
    let t := s.resync
    match t.collHandle (s.rx a) with
    | none => .ok (t.wx d 0xFE).finish
    | some (k, rank) =>
      if k.ended then
        .ok (((t.setColl (k.told (t.ownerOf t.cur) rank)).closeColls).wx d (k.status.getD 0)).finish
      else .ok (t.park (.collective k.desc k.epoch rank d t.ilen)))

/-- An owner that retires or is killed gives up its share of every ended instance (R283). -/
def State.leaveColls (s : State) (o : Owner) : State :=
  let give (p : Participant) : Participant := if p.who == o then { p with waited := true } else p
  State.closeColls { s with collectives := s.collectives.map (fun k => { k with parts := k.parts.map give }) }

/-- A kill of an owner ends `ABORTED` the instances that not every rank has joined (R281). -/
def State.abortColls (s : State) (o : Owner) : State :=
  s.collectives.foldl (fun t k =>
    if !k.ended && k.status.isNone && k.parts.any (fun p => p.who == o) &&
        decide (k.parts.length < (collDesc (ofBytes k.image)).npart) then
      (t.setColl { k with status := some 4 }).push .collectiveEnd (.coll k.desc k.epoch)
    else t) s

end Sys2Proof.Machine
end

