-- ==== Sys2Proof/Machine/Coherence.lean ====
section
/-! DEFINITION. The switch directory, leases, checkpoints and rollback, the loss of a switch die or a peer, and the host's
accesses (spec/14_coherence.md R367 to R387, spec/09_memory.md R234). Physical memory holds the newest value of every byte; a lease
keeps, of the bytes written under it, the values last written back (R375). -/

namespace Sys2Proof.Machine

/-! ## Requests and recalls (R370, R375) -/

/-- `COHERENCE_REQUEST` (R370). -/
def execCoherenceRequest (s : State) : Host.Outcome State Fault Refusal :=
  match s.opd with
  | .request agent line want => .next (s.cohRequest agent (line.toNat / 128) want)
  | _ => .next s

/-- A holder and line whose write-back the end of a checkpoint interval waits for (R377). -/
def State.owesCkpt (s : State) (agent line : Nat) : Bool :=
  match s.ckptOwed with
  | some l => l.any (fun p => p.1 == agent && p.2 == line)
  | none => false

/-- A die of this package writes back what it holds dirty under a lease, and keeps it (R377). -/
def State.writeBack (s : State) (agent line : Nat) : State :=
  match s.leaseOf agent line with
  | none => s
  | some h =>
    let t := s.agentLines agent h.covers cleanLine
    { t with leases := t.leases.map (fun h => if h.agent == agent && h.covers line then { h with dirty := [], mute := false } else h) }

/-- A late answer to a recall (R375): the holder has written back, and released the region or kept it for reading; or it answers a
checkpoint, and keeps it (R377). An answer of an agent that holds nothing any more changes nothing (R387). -/
def State.recallAck (s : State) (agent line : Nat) (own : Bool) : State :=
  match s.entry line with
  | none => s.dropLease agent line
  | some e =>
    if !e.sharers.contains agent then s
    else if !own && s.owesCkpt agent e.line then
      let t := s.writeBack agent e.line
      { t with ckptOwed := t.ckptOwed.map (fun l => l.filter (fun p => p != (agent, e.line))) }
    else (s.giveUp agent line own).serveWaiting

/-- `RECALL_ACKNOWLEDGE` (R375). -/
def execRecallAcknowledge (s : State) : Host.Outcome State Fault Refusal :=
  match s.opd with
  | .line agent line own => .next (s.recallAck agent (line.toNat / 128) own)
  | _ => .next s

/-! ## Merging (R372) -/

/-- `HOST` of a region: the state of its first line's physical region (R385). -/
def State.hostOf (s : State) (line : Nat) : Bool :=
  match s.fwLoc (line * 128) with
  | some l => l.sp == .dram && s.hostHeld.any (fun h => h.covers (l.a / 128))
  | none => false

/-- Two lists hold the same agents. -/
def sameAgents (a b : List Nat) : Bool := a.all b.contains && b.all a.contains

/-- Two siblings may merge (R372). -/
def State.mayMerge (s : State) (a b : DirEntry) : Bool :=
  a.lg == b.lg && decide (a.lg < 9) && a.line % 2 ^ (a.lg + 1) == 0 && b.line == a.line + 2 ^ a.lg && a.st == b.st &&
    sameAgents a.sharers b.sharers && a.coarse == b.coarse && s.hostOf a.line == s.hostOf b.line && a.flag == .none &&
    b.flag == .none && decide (a.quiet + (s.sd (s.tracker a.line)).quiet.toNat ≤ s.cycOf a.line) &&
    decide (b.quiet + (s.sd (s.tracker a.line)).quiet.toNat ≤ s.cycOf a.line)

/-- The merged entry: the later lease end of each sharer. -/
def DirEntry.merge (a b : DirEntry) : DirEntry :=
  { a with lg := a.lg + 1, cend := max a.cend b.cend,
           ends := a.ends.map (fun p => (b.ends.find? (fun q => q.agent == p.agent)).elim p (fun q =>
             { p with at_ := max p.at_ q.at_, interval := max p.interval q.interval })) }

/-- The leases of an agent over two halves as one: it counts the lesser of the two counts. -/
def mergeLeases (l : List HolderLease) (a b : DirEntry) : List HolderLease :=
  l.filterMap (fun h =>
    if h.line == b.line then none
    else if h.line == a.line then
      match l.find? (fun k => k.agent == h.agent && k.line == b.line) with
      | some k => some { h with lg := h.lg + 1, left := min h.left k.left, usedAt := min h.left k.left + min (h.usedAt - h.left) (k.usedAt - k.left),
                                dirty := h.dirty ++ k.dirty, mute := h.mute || k.mute }
      | none => some { h with lg := h.lg + 1 }
    else some h)

/-- `REGION_MERGE` (R372) of the region at a line with its sibling above. -/
def State.mergeAt (s : State) (line : Nat) : State :=
  match s.dir.find? (fun e => e.line == line) with
  | none => s
  | some a =>
    match s.dir.find? (fun e => e.line == line + 2 ^ a.lg) with
    | none => s
    | some b =>
      if s.mayMerge a b then
        { s with dir := (s.dir.filter (fun e => e.line != b.line)).map (fun e => if e.line == a.line then a.merge b else e),
                 leases := mergeLeases s.leases a b }
      else s

/-- `REGION_MERGE` (R372). -/
def execRegionMerge (s : State) : Host.Outcome State Fault Refusal :=
  match s.opd with
  | .region _ base => .next (s.mergeAt (base.toNat / 128))
  | _ => .next s

/-! ## Leases (R374, R375) -/

/-- A lease with its count begun again, last used as long ago as before. -/
def HolderLease.restart (h : HolderLease) (n : Nat) : HolderLease := { h with left := n, total := n, usedAt := n + (h.usedAt - h.left) }

/-- The lease is due for renewal (R374): less than half of its count remains, and its lines have been used in the last quarter of it.
DEDUCED: the last quarter is that of the cycles just past (log entry 105). -/
def HolderLease.dueRenew (h : HolderLease) : Bool :=
  decide (0 < h.left) && decide (2 * h.left < h.total) && decide (h.usedAt - h.left ≤ h.total / 4)

/-- A switch die renews the lease of an agent over a line (R374): refused where the agent is in the entry no more or its lease end has
passed (R387). -/
def State.renewEntry (s : State) (agent line : Nat) : Option State :=
  match s.entry line with
  | none => none
  | some e =>
    if !e.sharers.contains agent || (e.endOf agent).any (fun n => decide (n ≤ s.cycOf line)) then none
    else some (s.putDir ({ e with quiet := s.cycOf line }.join agent (s.cycOf line + s.switchCycles line) (s.sd (s.tracker line)).cur.toNat))

/-- `LEASE_RENEWAL` (R374): both counts start again, unless the renewal is refused. A line of a package that cannot be reached is not
renewed (R382). Of a die of another package this one keeps the switch's count alone. -/
def State.renew (s : State) (agent line : Nat) : State :=
  if s.rolling line then s
  else if !s.localAgent agent then (s.renewEntry agent line).getD s
  else match s.leaseOf agent line with
    | none => s
    | some h =>
      if !h.dueRenew then s
      else
        let n := s.holderCycles (agent % 8) line
        let t : State := { s with leases := s.leases.map (fun x => if x == h then h.restart n else x) }
        if !s.tracked line then (if s.peers.contains (BitVec.ofNat 8 (linePkg line)) then t else s)
        else (t.renewEntry agent line).getD s

/-- `LEASE_RENEWAL` (R374). -/
def execLeaseRenewal (s : State) : Host.Outcome State Fault Refusal :=
  match s.opd with
  | .lease agent base => .next (s.renew agent (base.toNat / 128))
  | _ => .next s

/-- `LEASE_RELEASE` (R374): the holder writes back what is dirty and releases the region. -/
def State.release (s : State) (agent line : Nat) : State :=
  if (s.leaseOf agent line).isSome || (!s.localAgent agent && (s.entry line).any (fun e => e.sharers.contains agent)) then
    (s.giveUp agent line true).serveWaiting
  else s

/-- `LEASE_RELEASE` (R374). -/
def execLeaseRelease (s : State) : Host.Outcome State Fault Refusal :=
  match s.opd with
  | .lease agent base => .next (s.release agent (base.toNat / 128))
  | _ => .next s

/-- `HOLDER_LEASE_EXPIRY` (R374, R250): the holder drops every copy, dirty ones too, and uses none again; what was dirty is lost,
and the line reads as it was last written back. -/
def State.holderExpiry (s : State) (agent line : Nat) : State :=
  match s.leaseOf agent line with
  | some h => if h.left = 0 then (s.revert h).dropLease agent line else s
  | none => s

/-- `HOLDER_LEASE_EXPIRY` (R374). -/
def execHolderLeaseExpiry (s : State) : Host.Outcome State Fault Refusal :=
  match s.opd with
  | .lease agent base => .next (s.holderExpiry agent (base.toNat / 128))
  | _ => .next s

/-- The entry is the one that its full switch directory is to evict next (R379). -/
def State.evicting (s : State) (e : DirEntry) : Bool :=
  let l := s.entriesOf (s.tracker e.line)
  decide (dirCap ≤ l.length) && (l.find? (fun x => x.flag == .none)).any (fun x => x.line == e.line)

/-- Why the lease of an agent over a region lapses (R375). -/
def State.lapseReason (s : State) (e : DirEntry) (agent : Nat) : LapseReason :=
  if s.cohWait.any (fun q => e.covers q.line) then .recalled
  else if s.owesCkpt agent e.line then .checkpoint
  else if s.evicting e then .evicted
  else .ended

/-- The lapse of a write lease (R375): the lines revert, the region is flagged and recorded, and event 2 is raised. -/
def State.lapse (s : State) (e : DirEntry) (agent : Nat) : State :=
  let t := match s.leaseOf agent e.line with
    | some h => (s.revert h).dropLease agent e.line
    | none => s
  let rec_ : Lapse := { line := e.line, lg := e.lg, agent := agent, reason := s.lapseReason e agent,
                        interval := ((e.ends.find? (fun p => p.agent == agent)).map (·.interval)).getD 0 }
  let d := s.tracker e.line
  let u := t.putDir { e.leave agent with flag := .lapse }
  (u.setSd d { u.sd d with lapses := (u.sd d).lapses ++ [rec_] }).raiseMgmt 2

/-- `SWITCH_LEASE_EXPIRY` (R375): the agent's lease end has passed by the switch's count. A read lease lapses without a mark; under the
coarse vector every agent's does at once (R370). -/
def State.switchExpiry (s : State) (agent line : Nat) : State :=
  match s.entry line with
  | none => s
  | some e =>
    match e.endOf agent with
    | none => s
    | some n =>
      if s.cycOf line < n then s
      else if e.st == .x then (s.lapse e agent).serveWaiting
      else
        let gone := if e.coarse.isSome then e.sharers else [agent]
        ((gone.foldl (fun t a => t.dropLease a e.line) s).putDir (if e.coarse.isSome then e.free else e.leave agent)).serveWaiting

/-- `SWITCH_LEASE_EXPIRY` (R375). -/
def execSwitchLeaseExpiry (s : State) : Host.Outcome State Fault Refusal :=
  match s.opd with
  | .lease agent base => .next (s.switchExpiry agent (base.toNat / 128))
  | _ => .next s

/-- `REBUILD_FLAG_CLEAR` (R380): a `REBUILD` flag clears when its lease ends have passed. -/
def State.rebuildClear (s : State) (line : Nat) : State :=
  { s with dir := s.dir.map (fun e =>
      if e.covers line && e.flag == .rebuild && decide (e.flagEnd ≤ s.cycOf line) then { e with flag := .none } else e) }

/-- `REBUILD_FLAG_CLEAR` (R380). -/
def execRebuildFlagClear (s : State) : Host.Outcome State Fault Refusal :=
  match s.opd with
  | .region _ base => .next (s.rebuildClear (base.toNat / 128))
  | _ => .next s

/-! ## Checkpoints and rollback (R377, R378) -/

/-- The next interval opens (R377): entries of the undo log older than `KEEP` intervals are dropped. -/
def State.openInterval (s : State) : State :=
  let cur := s.mainSd.cur + 1
  let first := cur.toNat - s.mainSd.keep.toNat
  let d := s.st.dram
  { s with
    ckptOwed := none, ckptSince := s.sdcyc, sd0 := { s.sd0 with cur := cur }, sd1 := { s.sd1 with cur := cur },
    st := { s.st with dram := { d with log := d.log.filter (fun u => decide (first ≤ u.interval)), from_ := max d.from_ first } } }

/-- The agent holds a region for writing. -/
def State.writes (s : State) (agent line : Nat) : Bool :=
  (s.entry line).any (fun e => e.st == .x && e.sharers.contains agent)

/-- Holders recalled for a checkpoint (R377): a die of this package writes back at once unless it is silent; the others are owed. -/
def State.ckptRecall (s : State) (l : List (Nat × Nat)) : State × List (Nat × Nat) :=
  l.foldl (fun (t, owed) (a, line) =>
    if !t.writes a line then (t, owed)
    else if !t.localAgent a then (t, owed ++ [(a, line)])
    else if t.silent a line then (t.muteLease a line, owed ++ [(a, line)])
    else (t.writeBack a line, owed)) (s, [])

/-- `CHECKPOINT_BOUNDARY` (R377): every dirty line under a write lease is recalled, and the next interval opens once every write-back is
acknowledged, or the lease of a holder that does not answer has lapsed (R387). -/
def State.checkpoint (s : State) : State :=
  let l := s.ckptOwed.getD (s.dir.flatMap (fun e => if e.st == .x then e.sharers.map (fun a => (a, e.line)) else []))
  let o := s.ckptRecall l
  if o.2.isEmpty then o.1.openInterval else { o.1 with ckptOwed := some o.2 }

/-- `CHECKPOINT_BOUNDARY` (R377). -/
def execCheckpointBoundary (s : State) : Host.Outcome State Fault Refusal := .next s.checkpoint

/-- An `SDROLL` command ends at a switch die, with `ERR` set where it was refused (R378). -/
def State.rollEnd (s : State) (sd : Bool) (refused : Bool) : State :=
  s.setSd sd { s.sd sd with busy := false, err := (s.sd sd).err || refused }

/-- `SDROLL_CLEAR_FLAG` (R378). -/
def State.clearFlag (s : State) (sd : Bool) (line : Nat) : State :=
  if s.dir.any (fun e => e.line == line) then
    (({ s with dir := s.dir.map (fun e => if e.line == line then { e with flag := .none } else e) } : State).rollEnd sd false).serveWaiting
  else (s.rollEnd sd true).serveWaiting

/-- `SDROLL_CLEAR_FLAG` (R378). -/
def execSdrollClearFlag (s : State) : Host.Outcome State Fault Refusal :=
  match s.opd with
  | .region sd base => .next (s.clearFlag sd (base.toNat / 128))
  | _ => .next s

/-- A line of physical memory restored from the oldest entry of its log that is newer than interval `t` (R378). -/
def State.rollLine (s : State) (pline t : Nat) : State :=
  match s.st.dram.log.find? (fun u => u.line == pline && decide (t ≤ u.interval)) with
  | some u => s.putBytes ⟨.dram, 128 * pline⟩ u.bytes
  | none => s

/-- A region rolled back to the end of interval `t`: no copy is written back, and nothing holds the region any more (R378). -/
def State.rollRegion (s : State) (e : DirEntry) (t : Nat) : State :=
  let r1 := (s.leases.filter (fun h => overlap h.line h.lg e.line e.lg)).foldl (fun u h => (u.revert h).dropLease h.agent h.line) s
  let r2 : State := match r1.fwLoc (e.line * 128) with
    | some l =>
      if l.sp == Space.dram then (List.range (2 ^ e.lg)).foldl (fun (u : State) k => u.rollLine (l.a / 128 + k) t) r1 else r1
    | none => r1
  r2.putDir { e.free with flag := .none }

/-- `SDROLL_ROLLBACK` (R378): refused for a `BACK` of 0 or beyond the log, and for an address that is no region's base. -/
def State.rollBack (s : State) (sd : Bool) (line back : Nat) : State :=
  match s.dir.find? (fun e => e.line == line) with
  | none => (s.rollEnd sd true).serveWaiting
  | some e =>
    let cur := s.mainSd.cur.toNat
    if back = 0 || cur < back || cur - back < s.st.dram.from_ then (s.rollEnd sd true).serveWaiting
    else ((s.rollRegion e (cur - back)).rollEnd sd false).serveWaiting

/-- `SDROLL_ROLLBACK` (R378). -/
def execSdrollRollback (s : State) : Host.Outcome State Fault Refusal :=
  match s.opd with
  | .rollback sd base back => .next (s.rollBack sd (base.toNat / 128) back.toNat)
  | _ => .next s

/-! ## The loss of a switch die or of a peer (R380, R382) -/

/-- An agent's copies under its lease are reported by the tag scan (R380): a die of this package reports the lines it holds; what a die of
another package reports is taken to be what its entry said. -/
def State.reports (s : State) (e : DirEntry) (agent : Nat) : Bool :=
  if s.localAgent agent then
    (s.leaseOf agent e.line).isSome && (s.die (agent % 8)).lines.any (fun p => e.covers p.1)
  else true

/-- An entry as the survivor rebuilds it of the holders reported: flagged `REBUILD`, with new lease ends (R380). A `LAPSE` flag
stays (R376). -/
def DirEntry.rebuilt (e : DirEntry) (holders : List Nat) (end_ interval : Nat) : DirEntry :=
  let e1 : DirEntry := { e with sharers := holders, ends := if e.coarse.isSome then [] else holders.map (fun a => ⟨a, end_, interval⟩),
                                cend := if e.coarse.isSome then end_ else 0 }
  if e.flag == .lapse then e1 else { e1 with flag := .rebuild, flagEnd := end_ }

/-- The survivor's entry for a region that the lost die tracked: none where no die reports a line of it and no `LAPSE` flag stands. -/
def State.rebuild (s : State) (sd : Bool) (e : DirEntry) : Option DirEntry :=
  let l := e.sharers.filter (s.reports e)
  if l.isEmpty then (if e.flag == .lapse then some e.free else none)
  else some (e.rebuilt l ((s.sd (!sd)).cyc + s.switchCycles e.line) (s.sd (!sd)).cur.toNat)

/-- The instances that a switch die served end `ABORTED` (R380). -/
def State.abortServed (s : State) (sd : Bool) : State :=
  s.collectives.foldl (fun t k =>
    if !k.ended && k.status.isNone && (k.desc.toNat / 2 ^ 18 % 2 == 1) == sd && k.desc.toNat / 2 ^ 48 == s.pkg.toNat then
      (t.setColl { k with status := some 4 }).push .collectiveEnd (.coll k.desc k.epoch)
    else t) s

/-- `SWITCH_DIE_LOST` (R380): the survivor takes over, and rebuilds the entries that the lost die tracked of what is held. With
`SD0` go the host port, the host-homed lines (R383), and the management core; routes that are lost with the die are noted (R382). DESIGN
CHOICE: what the dies held dirty of host-homed lines stays in the host's memory, as if it had been written back (log entry 122). -/
def State.loseSwitch (s : State) (sd : Bool) : State :=
  let t1 := (s.setSd sd { s.sd sd with lost := true, busy := false }).setSd (!sd) { s.sd (!sd) with takeover := true }
  let hosts := s.leases.filter (fun h => !sd && s.hostLine h.line)
  let t2 : State := { t1 with
    dir := s.dir.filterMap (fun e => if s.tracker e.line != sd then some e else if s.hostLine e.line then none else s.rebuild sd e),
    link := if sd then t1.link else { rate := 0, width := 0, cxl := false } }
  ((((hosts.foldl (fun u h => u.dropLease h.agent h.line) t2).abortServed sd).noteRoutes).flushWrites).serveWaiting

/-- `SWITCH_DIE_LOST` (R380). The rules describe the loss of one switch die: no path between dies is left without the other. -/
def execSwitchDieLost (s : State) : Host.Outcome State Fault Refusal :=
  match s.opd with
  | .sdie sd => if (s.sd sd).lost then .next s else if (s.sd (!sd)).lost then .fault .noSwitchDie else .next (s.loseSwitch sd)
  | _ => .next s

/-- `PEER_LOST` (R382): requests to the package fail from now on, and a gather that waits for it issues again, to fault. -/
def State.losePeer (s : State) (p : BitVec 8) : State :=
  let cut (x : SwitchDie) : SwitchDie := { x with noRoute := x.noRoute.del p.toNat }
  let t : State := { s with peers := s.peers.filter (· != p), sd0 := cut s.sd0, sd1 := cut s.sd1 }
  let waits (x : Ctx) : Bool := match x.wait with
    | some (.gather l _) => l.contains p
    | _ => false
  t.allCtx.foldl (fun u (c, x) => if waits x then u.setCtx c { x with wait := none } else u) t

/-- `PEER_LOST` (R382). -/
def execPeerLost (s : State) : Host.Outcome State Fault Refusal :=
  match s.opd with
  | .pkg p => .next (s.losePeer p)
  | _ => .next s

/-- `BERPER_LINK_LOSS` (R382): a port carries no more. -/
def execBerperLinkLoss (s : State) : Host.Outcome State Fault Refusal :=
  match s.opd with
  | .port sd k => .next (s.setSd sd { s.sd sd with ports := (s.sd sd).ports &&& ~~~(BitVec.ofNat 8 (2 ^ k.toNat)) }).noteRoutes
  | _ => .next s

/-- `LINK_REPLAY` (R342): a request that the link sends again is not performed again. Its reply, where it is among its source's
64 latest, is returned as it was; no state changes. -/
def execLinkReplay (s : State) : Host.Outcome State Fault Refusal := .next s

/-! ## The host (R383 to R385, R234) -/

/-- Every line of a range taken back and dropped (R403): the dies of this package have written back what was dirty, and hold none of
it. -/
def State.recallRange (s : State) (base size : Nat) : State :=
  let inside (line : Nat) : Bool := decide (base ≤ line * 128) && decide (line * 128 < base + size)
  let own (a : Nat) : Bool := s.localAgent a
  { s with leases := s.leases.filter (fun h => !inside h.line),
           dies := s.dies.map (fun (k, d) => (k, (d.dropLines inside).dropTex (fun e => inside e.1))),
           dir := s.dir.map (fun e => if inside e.line then (e.sharers.filter own).foldl DirEntry.leave e else e) }

/-- A die of another package holds a line of a range (R403). -/
def State.heldAway (s : State) (base size : Nat) : Bool :=
  s.dir.any (fun e => decide (base ≤ e.line * 128) && decide (e.line * 128 < base + size) && e.sharers.any (fun a => !s.localAgent a))

/-- The entries of the directory whose region lies at a line of physical memory. -/
def State.entriesAt (s : State) (pline : Nat) : List DirEntry :=
  s.dir.filter (fun e =>
    match s.fwLoc (e.line * 128) with
    | some l => l.sp == .dram && decide (l.a / 128 ≤ pline) && decide (pline < l.a / 128 + 2 ^ e.lg)
    | none => false)

/-- A line of physical memory taken back from device holders under every address that maps to it (R385); whether it is done. -/
def State.takePhys (s : State) (pline : Nat) (own : Bool) : State × Bool :=
  (s.entriesAt pline).foldl (fun (t, ok) e =>
    match t.fwLoc (e.line * 128) with
    | some l => let o := t.takeHome (e.line + (pline - l.a / 128)) own; (o.1, ok && o.2)
    | none => (t, ok)) (s, true)

/-- `HOST` set in the region of a line of physical memory (R385). -/
def State.setHost (s : State) (pline : Nat) : State :=
  let e := s.entriesAt pline
  let lg := (e.head?.map (·.lg)).getD 9
  let r : HostRegion := { line := regionBase pline lg, lg := lg, snooped := false }
  if s.hostHeld.any (fun h => h.covers pline && !h.snooped) then s else { s with hostHeld := s.hostHeld ++ [r] }

/-- An access of the host performed at the home as one of scope `system` (R234, R324), once no device holder stands against it:
above 192 GiB it is discarded, and a read returns 0. Answers whether it is done. -/
def State.hostAccess (s : State) (a : HostAccess) : State × Bool :=
  let n := min a.size 8
  if dramSize < a.pa + n then (if a.write.isSome then s else { s with hostOut := s.hostOut ++ [.read 0] }, true)
  else
    let t := s.takePhys (a.pa / 128) a.write.isSome
    let u := t.1.takePhys ((a.pa + n - 1) / 128) a.write.isSome
    if !(t.2 && u.2) then (u.1, false)
    else match a.write with
      | some v => (u.1.writeHome ⟨.dram, a.pa⟩ (toBytes n v.toNat), true)
      | none =>
        let v : Word := BitVec.ofNat 64 (ofBytes (u.1.st.dram.bytes.readN a.pa n))
        let w := if a.caching then u.1.setHost (a.pa / 128) else u.1
        ({ w with hostOut := w.hostOut ++ [.read v] }, true)

/-- A snoop of the host for a host-homed line (R384): the line is recalled from its holders, and `SD0` answers with its bytes and keeps no
copy that the host's own use forbids. Answers whether it is done. -/
def State.hostSnoop (s : State) (line : VAddr) (own : Bool) : State × Bool :=
  match s.region line.toNat with
  | .host hpa =>
    let o := s.takeHome (line.toNat / 128) own
    if !o.2 then o
    else
      let t := o.1
      ({ t with
        hostCopies := t.hostCopies.filterMap (fun c => if c.1 != line.toNat / 128 then some c else if own then none else some (c.1, false)),
        hostOut := t.hostOut ++ [.snoopAnswer line (t.st.host.readN (hpa / 128 * 128) 128)] }, true)
  | _ => (s, true)

/-- What the host asks, done or to be tried again. -/
def State.hostTry (s : State) (r : HostReq) : State × Bool :=
  match r with
  | .access a => s.hostAccess a
  | .snoop line own => s.hostSnoop line own

/-- What the host asks, in the order in which the link delivers it (R324). -/
def State.hostAsk (s : State) (r : HostReq) : State :=
  if !s.hostPend.isEmpty then { s with hostPend := s.hostPend ++ [r] }
  else
    let o := s.hostTry r
    if o.2 then o.1 else { o.1 with hostPend := [r] }

/-- What the host asked and waits, tried again, the first first. -/
def State.hostRetry (s : State) : State := s.hostPend.foldl (fun t r => t.hostAsk r) { s with hostPend := [] }

/-- `HOST_SNOOP` (R384). -/
def execHostSnoop (s : State) : Host.Outcome State Fault Refusal :=
  match s.opd with
  | .snoop line own => .next (if !s.link.cxl || s.sd0.lost then s else s.hostAsk (.snoop line own))
  | _ => .next s

/-- `HOST_MEM_ACCESS` (R385, R324): an access through CXL.mem. -/
def execHostMemAccess (s : State) : Host.Outcome State Fault Refusal :=
  match s.opd with
  | .host a => .next (if s.link.cxl && !s.sd0.lost then s.hostAsk (.access a) else s)
  | _ => .next s

/-- `HOST_BAR4_ACCESS` (R234, R324): an access through BAR 4, which takes no line for caching. -/
def execHostBar4Access (s : State) : Host.Outcome State Fault Refusal :=
  match s.opd with
  | .host a => .next (if s.sd0.lost then s else s.hostAsk (.access { a with caching := false }))
  | _ => .next s

/-- `HOST_BACK_INVALIDATE_ANSWER` (R385): the host no longer holds lines of the region that was snooped, and the waiting writes
go on. -/
def execHostBackInvalidateAnswer (s : State) : Host.Outcome State Fault Refusal :=
  match s.opd with
  | .addr line =>
    .next (State.flushWrites { s with hostHeld := s.hostHeld.filter (fun h => !h.covers (line.toNat / 128) || !h.snooped) })
  | _ => .next s

/-- Without CXL there is no CXL.cache and no CXL.mem (R12): the host's lines are held no more, what was dirty of them having been written
back (DEDUCED, log entry 106), no lease and no flag applies to them (R384), and no region of the device's memory is the host's. -/
def State.plainLink (s : State) : State :=
  let t := (s.leases.filter (fun h => s.hostLine h.line)).foldl (fun u h => u.giveUp h.agent h.line true) s
  State.flushWrites { t with
    dir := t.dir.filter (fun e => !s.hostLine e.line), cohWait := t.cohWait.filter (fun r => !s.hostLine r.line),
    hostHeld := [], hostCopies := [], hostPend := t.hostPend.filter (fun r => match r with
      | .access a => !a.caching
      | .snoop _ _ => false) }

/-- `LINK_TRAINING` (R11, R12): the host link trains at a rate (1 to 6, for 2.5 to 64 GT/s) and a width, with CXL at 64 GT/s
only. -/
def execLinkTraining (s : State) : Host.Outcome State Fault Refusal :=
  match s.opd with
  | .link rate width cxl =>
    .next (if s.sd0.lost || rate = 0 || decide (6 < rate) || !([16, 8, 4, 1] : List Nat).contains width then s
           else
             let t : State := { s with link := { rate := rate, width := width, cxl := cxl && rate == 6 } }
             if t.link.cxl then t else t.plainLink)
  | _ => .next s

end Sys2Proof.Machine
end

