-- ==== Sys2Proof/Machine/Bundle.lean ====
section
/-! DEFINITION. Bundles and snapshots (spec/12_consistency.md R325 to R339). Joined stores and the reads of `BV` lines are in
Access.lean. -/

namespace Sys2Proof.Machine

/-! ## Checks -/

/-- The first byte of a range and of each 64 KiB page that it enters. -/
def granules (va len : Nat) : List Nat :=
  va :: (List.range ((va % 65536 + len - 1) / 65536)).map (fun k => (va / 65536 + k + 1) * 65536 % 2 ^ 56)

/-- Rights and translation of a list of addresses for the executing context (R168 steps 4 and 5). -/
def State.confirmEach (s : State) (need : BitVec 5) (l : List Nat) : Except Stop State :=
  match l with
  | [] => .ok s
  | a :: r =>
    match orStop cDataXlate (s.locate s.req need a) with
    | .error e => .error e
    | .ok (t, _) => t.confirmEach need r

/-- Rights `R` and `W`, and translation, of a range. -/
def State.confirmRange (s : State) (va len : Nat) : Except Stop State := s.confirmEach rRW (granules va len)

/-- The descriptor is misaligned, or a reserved field of it is nonzero (R326). -/
def State.badSet (s : State) (d : Nat) : Bool :=
  let v := s.fwRead d 64
  d % 64 != 0 || bitsOf v 48 16 != 0 || bitsOf v 67 5 != 0 || bitsOf v 72 440 != 0

/-- `CAP` of a record (R328). -/
def State.recCap (s : State) (r : Nat) : Nat := s.fwRead (r + 4) 4

/-- `CAP` lies in its range (R328). -/
def State.capOk (s : State) (r : Nat) : Bool := decide (1 ≤ s.recCap r) && decide (s.recCap r ≤ 4096)

/-- The record is misaligned, not `FREE`, or has `CAP` out of its range or a reserved field of its header or of a slot nonzero
(R328, R330). -/
def State.badRec (s : State) (r : Nat) : Bool :=
  r % 128 != 0 || s.fwRead r 1 != 0 || s.fwRead (r + 1) 3 != 0 || !s.capOk r || s.fwRead (r + 32) 96 != 0 ||
    (List.range (s.recCap r)).any (fun k => s.fwRead (r + 160 + 256 * k) 96 != 0)

/-- The record's header, and its slots where `CAP` says how many there are, confirmed (R330). -/
def State.confirmRec (s : State) (r : Nat) : Except Stop State := do
  let t ← s.confirmRange r 128
  if t.capOk r then t.confirmRange (r + 128) (256 * t.recCap r) else .ok t

/-! ## Service (R327) -/

/-- The set has an entry at its agent. -/
def State.inService (s : State) (d : VAddr) : Bool := s.sets.any (fun (k, _) => k == d.toNat)

/-- Entries of the switch die that a descriptor selects. -/
def State.setsOf (s : State) (d : VAddr) : Nat :=
  (s.sets.filter (fun (k, _) => k / 2 ^ 48 == d.toNat / 2 ^ 48 && k / 2 ^ 18 % 2 == d.toNat / 2 ^ 18 % 2)).length

/-- Why a set cannot be named by the executing context: 4 `DOMAIN`, 5 `FULL` (R330). -/
def State.serviceStatus (s : State) (d : VAddr) : Nat :=
  if s.inService d then (if (s.bset d).pdid = s.me.pdid then 0 else 4)
  else if 256 ≤ s.setsOf d then 5 else 0

/-- The set put in service, if it is not (R327). -/
def State.serve (s : State) (d : VAddr) : State :=
  if s.inService d then s
  else
    let c := s.fwRead d.toNat 8 % 2 ^ 48
    let e : BundleSet :=
      { counter := c, installed := c, scope := BitVec.ofNat 3 (s.fwRead (d.toNat + 8) 1), pdid := s.me.pdid, pending := [] }
    { s with sets := s.sets.set d.toNat e }

/-- A context holds a bundle or a snapshot of the set. -/
def Ctx.holdsSet (x : Ctx) (d : VAddr) : Bool :=
  (x.bundle.map (·.desc)) == some d || (x.snap.map (·.desc)) == some d

/-- A saved firing holds a bundle or a snapshot of the set. -/
def Saved.holdsSet (x : Saved) (d : VAddr) : Bool :=
  (x.bundle.map (·.desc)) == some d || (x.snap.map (·.desc)) == some d

/-- The set leaves service where nothing keeps it there: `COUNTER` is written back (R327). -/
def State.leaveSet (s : State) (d : VAddr) : State :=
  let e := s.bset d
  if !s.inService d || !e.pending.isEmpty || s.allCtx.any (fun (_, x) => x.holdsSet d) || s.saved.any (fun x => x.holdsSet d) then s
  else { s.fwWrite d.toNat 8 e.counter with sets := s.sets.del d.toNat }

/-! ## `BOPEN`, `BSNAP`, `BEND`, `BRECLAIM` -/

/-- `BOPEN` (R330). -/
def execBopen (d a b : XReg) (s : State) : Host.Outcome State Fault Refusal :=
  act s (do
    s.permit 4 11 0
    let ds := vaOf (s.rx a)
    let r := vaOf (s.rx b)
    let t ← s.resync.confirmRange ds 64
    let u ← t.confirmRec r
    let dv := BitVec.ofNat 56 ds
    let st := if u.me.bundle.isSome then 1 else if u.badSet ds then 2 else if u.badRec r then 3 else u.serviceStatus dv
    if st != 0 then .ok (u.wx d (BitVec.ofNat 64 st)).finish
    else
      let v := u.serve dv
      let w := (((v.fwWrite (r + 8) 8 ds).fwWrite (r + 16) 8 0).fwWrite (r + 24) 8 0).fwWrite r 1 1
      .ok ((w.withMe { w.me with bundle := some { desc := dv, record := BitVec.ofNat 56 r } }).wx d 0).finish)

/-- `BSNAP` (R334). -/
def execBsnap (d a : XReg) (s : State) : Host.Outcome State Fault Refusal :=
  act s (do
    s.permit 4 11 2
    let ds := vaOf (s.rx a)
    let u ← s.resync.confirmRange ds 64
    let dv := BitVec.ofNat 56 ds
    let st := if u.me.snap.isSome then 1 else if u.badSet ds then 2 else u.serviceStatus dv
    if st != 0 then .ok (u.wx d (BitVec.ofNat 64 st)).finish
    else
      let v := u.serve dv
      .ok ((v.withMe { v.me with snapVersion := 0, snapValid := false,
                                 snap := some { desc := dv, record := none, stale := false } }).wx d 0).finish)

/-- The executing context's snapshot closed (R336, R339). -/
def Ctx.closeSnap (x : Ctx) : Ctx := { x with snap := none, snapVersion := 0, snapValid := false }

/-- `BEND` (R336). -/
def execBend (d : XReg) (s : State) : Host.Outcome State Fault Refusal :=
  act s (do
    s.permit 4 11 3
    match s.me.snap with
    | none => .ok (s.resync.wx d 0xFE).finish
    | some o =>
      let v := BitVec.ofNat 64 (o.stale.toNat + 2 ^ 16 * s.me.snapVersion.toNat)
      let t := s.resync
      .ok (((t.withMe t.me.closeSnap).leaveSet o.desc).wx d v).finish)

/-- A snapshot that names a record, which has been returned to software, names it no longer: its lines are all installed, and no device
read of it follows (R338). -/
def OpenSnap.forget (o : OpenSnap) (r : Nat) : OpenSnap := if (o.record.map (·.toNat)) == some r then { o with record := none } else o

/-- Every open snapshot without a record (R338). -/
def State.forgetRecord (s : State) (r : Nat) : State :=
  let t := s.allCtx.foldl (fun (u : State) e =>
    let x := u.ctx e.1
    u.setCtx e.1 { x with snap := x.snap.map (fun o => o.forget r) }) s
  { t with saved := t.saved.map (fun x => { x with snap := x.snap.map (fun o => o.forget r) }) }

/-- `BRECLAIM` (R338): no read is resolving from a record between steps. -/
def execBreclaim (d a : XReg) (s : State) : Host.Outcome State Fault Refusal :=
  act s (do
    s.permit 4 12 0
    let r := vaOf (s.rx a)
    let t ← s.resync.confirmRec r
    let st := t.fwRead r 1
    if r % 128 != 0 || st = 0 || 3 < st then .ok (t.wx d 0xFE).finish
    else if st = 1 || st = 2 then .ok (t.wx d 1).finish
    else .ok (((t.fwWrite r 1 0).forgetRecord r).wx d 0).finish)

/-! ## `BCOMMIT` and installation -/

/-- The steps that install a record's slots, or the empty bundle's one step, put to happen (R333). -/
def State.pushSlots (s : State) (d rcd : VAddr) : State :=
  (List.range (max 1 (s.recLines rcd.toNat))).foldl (fun t k => t.push .bundleSlotInstall (.bundleSlot d k)) s

/-- `BCOMMIT` (R332). -/
def execBcommit (d : XReg) (s : State) : Host.Outcome State Fault Refusal :=
  act s (do
    s.permit 4 11 1
    match s.me.bundle with
    | none => .ok (s.wx d 0).finish
    | some b =>
      let e := s.bset b.desc
      if 64 ≤ e.pending.length then .ok (s.resync.park (.reissue (.commit b.desc)))
      else
        let t := s.resync.withMe { s.resync.me with bundle := none }
        let r := b.record.toNat
        if e.counter = 2 ^ 48 - 1 then .ok (((t.fwWrite r 1 0).leaveSet b.desc).wx d (BitVec.allOnes 64)).finish
        else
          let V := e.counter + 1
          let u := (t.fwWrite (r + 16) 8 V).fwWrite r 1 2
          let e1 := { e with counter := V, pending := e.pending ++ [{ version := V, record := b.record, who := some (s.ownerOf s.cur), done := [] }] }
          let w : State := { u with sets := u.sets.set b.desc.toNat e1 }
          .ok ((if e.pending.isEmpty then w.pushSlots b.desc b.record else w).wx d (BitVec.ofNat 64 V)).finish)

/-- The contexts whose commit of a set waited issue it again (R332). -/
def State.wakeCommits (s : State) (d : VAddr) : State :=
  s.waiters.foldl (fun t (c, w) => if w == .reissue (.commit d) then t.wakeRetry c else t) s

/-- Address of the line that slot `k` of a record lists. -/
def State.slotLine (s : State) (r k : Nat) : Nat := s.fwRead (r + 128 + 256 * k) 8 % 2 ^ 56 / 128 * 128

/-- Slot `k` noted as installed with the set's oldest bundle: the agent's own count, since software may write a record's slots while
the device holds it (R328). -/
def BundleSet.install (e : BundleSet) (k : Nat) : BundleSet :=
  match e.pending with
  | c :: r => { e with pending := { c with done := k :: c.done } :: r }
  | [] => e

/-- Slot `k` of a committed record installed at its line's home (R333), every copy of which has been taken back. -/
def State.installSlot (s : State) (d : VAddr) (c : Committed) (k : Nat) : State :=
  let r := c.record.toNat
  let line := s.slotLine r k
  let t0 := (s.fwWrite (r + 136 + 256 * k) 8 (s.fwRead (r + 136 + 256 * k) 8 ||| 1)).fwWrite (r + 28) 4 (c.done.length + 1)
  let t : State := { t0 with sets := t0.sets.set d.toNat ((t0.bset d).install k) }
  match s.fwLoc line with
  | none => t
  | some l =>
    let old := s.st.get l 128
    let u := t.writeHome l (s.slotMerge r k old)
    let v : BvLine := { cur := { desc := d, version := c.version, count := s.recLines r, record := c.record },
                        prev := (s.bvLine l line).cur, prevData := old }
    { u with bv := u.bv.set line v }

/-- The bundle's lines are all installed: its record is `INSTALLED`, and the next version's installation begins or the set may
leave service (R333, R327). -/
def State.bundleInstalled (s : State) (d : VAddr) (c : Committed) : State :=
  let e := s.bset d
  let t : State := { s.fwWrite c.record.toNat 1 3 with
    sets := s.sets.set d.toNat { e with installed := c.version, pending := e.pending.tail } }
  match (t.bset d).pending with
  | n :: _ => (t.pushSlots d n.record).wakeCommits d
  | [] => (t.wakeCommits d).leaveSet d

/-- Every line of a bundle is installed (R333). -/
def State.allInstalled (s : State) (c : Committed) : Bool :=
  (List.range (s.recLines c.record.toNat)).all (fun k => c.done.contains k)

/-- Every cached copy of a line taken back for its installation (R333); in error, the state in which a holder is waited for. -/
def State.readyLine (s : State) (line : Nat) : Except State State :=
  match s.fwLoc line with
  | some l => s.claimHome true line l
  | none => .ok s

/-- A slot of the version that installs next (R333): it waits for the copies of its line. -/
def State.slotInstall (s : State) (d : VAddr) (k : Nat) : State :=
  match (s.bset d).pending with
  | [] => s
  | c :: _ =>
    let r := c.record.toNat
    if k < s.recLines r && !c.done.contains k then
      match s.readyLine (s.slotLine r k) with
      | .error u => u
      | .ok u =>
        let t := u.installSlot d c k
        if t.allInstalled { c with done := k :: c.done } then t.bundleInstalled d c else t
    else if s.allInstalled c then s.bundleInstalled d c else s

/-- `BUNDLE_SLOT_INSTALL` (R333). -/
def execBundleSlotInstall (s : State) : Host.Outcome State Fault Refusal :=
  match s.opd with
  | .bundleSlot d k => .next (s.slotInstall d k)
  | _ => .next s

/-! ## The end of a firing (R339) -/

/-- A context's open bundle and snapshot dropped, and its committed bundles its own no longer (R339, R331). -/
def State.dropBundle (s : State) (c : CtxId) : State :=
  let x := s.ctx c
  let t := s.setCtx c { x.closeSnap with bundle := none }
  let t1 : State := { t with sets := t.sets.map (fun (k, e) =>
    (k, { e with pending := e.pending.map (fun p => if p.who == some (s.ownerOf c) then { p with who := none } else p) })) }
  let t2 := match x.bundle with
    | some b => (t1.fwWrite b.record.toNat 1 0).leaveSet b.desc
    | none => t1
  match x.snap with
  | some o => t2.leaveSet o.desc
  | none => t2

/-- The open bundle and snapshot of a saved firing that is killed dropped (R339), once it is out of the table. -/
def State.dropSavedBundle (s : State) (x : Saved) : State :=
  let off (p : Committed) : Committed := if p.who == some x.owner then { p with who := none } else p
  let t1 : State := { s with sets := s.sets.map (fun (k, e) => (k, { e with pending := e.pending.map off })) }
  let t2 := match x.bundle with
    | some b => (t1.fwWrite b.record.toNat 1 0).leaveSet b.desc
    | none => t1
  match x.snap with
  | some o => t2.leaveSet o.desc
  | none => t2

end Sys2Proof.Machine
end

