-- ==== Sys2Proof/Machine/Keep.lean ====
section
/-! DEFINITION. The Keep and the matrix engine (spec/11_matrix.md): operation registers, operations, tiles, conversion, and
inference requests. -/

namespace Sys2Proof.Machine

/-! ## Pod scratch -/

/-- The bytes at an offset of a pod's scratch. A byte past 4 MiB is none of the scratch: its value is free. -/
def State.psGet (s : State) (pod off n : Nat) : List Byte :=
  (List.range n).map (fun k =>
    if off + k < 2 ^ 22 then s.st.podScratch.read (pod * 2 ^ 22 + off + k) else Config.byte s.free (off + k))

/-- The state with bytes written at an offset of a pod's scratch. -/
def State.psPut (s : State) (pod off : Nat) (bs : List Byte) : State :=
  { s with st := { s.st with podScratch := s.st.podScratch.writeN (pod * 2 ^ 22 + off) bs } }

/-! ## Operation registers (R290 to R292) -/

/-- Bits of a register that are not reserved and that a write sets (R290, R292). -/
def mxMask (n : Nat) : Nat :=
  match n with
  | 0x02 => 0x1F1F1F
  | 0x03 => 0x7F7FFFFF
  | 0x07 => 0x7
  | 0x08 => 2 ^ 56 - 1
  | 0x0A => 2 ^ 22 - 1 + 0xFFFF * 2 ^ 32
  | 0x0B => 2 ^ 64 - 1
  | 0x0D => 2 ^ 56 - 1
  | 0x0E => 2 ^ 48 - 1
  | 0x0F => 2 ^ 32 - 1
  | _ => if n < 0x10 then 2 ^ 22 - 1 else if 0x80 ≤ n then 0x7FFF7FF else 0

/-- A register of R290: 0x40, 0x41, 0x48 to 0x4F and 0x50 are read only. -/
def mxReadOnly (n : Nat) : Bool := n == 0x40 || n == 0x41 || (decide (0x48 ≤ n) && decide (n ≤ 0x50))

/-- The number names a register of R290. -/
def mxNamed (n : Nat) : Bool := decide (n < 0x10) || mxReadOnly n || (decide (0x80 ≤ n) && decide (n < 0xC0))

/-- A weight set's fields (R292). -/
structure WSet where
  v : Bool
  icode : Nat
  ocode : Nat
  k : Nat
  n : Nat
  owner : BitVec 12
  deriving DecidableEq, Repr

/-- The fields of a weight set register. -/
def wsetOf (w : Word) : WSet :=
  { v := w.getLsbD 0, icode := bitsOf w.toNat 1 5, ocode := bitsOf w.toNat 6 5, k := bitsOf w.toNat 12 8, n := bitsOf w.toNat 20 7,
    owner := w.extractLsb' 48 12 }

/-- A weight set. -/
def Pod.wsetAt (p : Pod) (w : Nat) : WSet := wsetOf (p.wset.get 0 w)

/-- A valid set's fields lie in their limits (R292). -/
def WSet.ok (w : WSet) : Bool :=
  (w.icode == 1 || w.icode == 9 || w.icode == 10) &&
  (w.ocode == 5 || w.ocode == 9 || w.ocode == 10 || w.ocode == 11) &&
  decide (1 ≤ w.k) && decide (w.k ≤ 128) && decide (1 ≤ w.n) && decide (w.n ≤ 64) &&
  decide (w.n * (fatSize w.ocode).getD 1 ≤ 128)

/-- `MXSTAT` (R290). -/
def Pod.mxStat (p : Pod) : Word :=
  BitVec.ofNat 64 (p.running.isSome.toNat + 2 * p.armed.isSome.toNat + 2 ^ 32 * p.last.toNat)

/-- `MXQUEUE` (R290). -/
def Pod.mxQueue (p : Pod) : Word := BitVec.ofNat 64 (p.queue.length + 2 ^ 16 * p.batches.length)

/-- The value of a register as `MXGET` reads it (R290, R291). -/
def Pod.mxRead (p : Pod) (n : Nat) : Word :=
  if n < 0x10 then p.shadow.get 0 n
  else if n = 0x40 then p.mxStat
  else if n = 0x41 then p.next.setWidth 64
  else if n = 0x50 then p.mxQueue
  else if n < 0x80 then (p.amax.get 0 (n - 0x48)).setWidth 64
  else p.wset.get 0 (n - 0x80)

/-! ## Inference requests: queue and slots (R307 to R311) -/

/-- Requests of a context that its pod's Keep holds, queued or batched (R311). -/
def State.reqsOf (s : State) (c : CtxId) : Nat :=
  let p := s.pod (podOf c)
  ((p.queue ++ p.batches.flatMap (·.reqs)).filter (fun r => r.who == c)).length

/-- A firing has stopped: its requests are alive no longer (R311). -/
def State.voidReqs (s : State) (c : CtxId) : State :=
  let p := s.pod (podOf c)
  let off (r : MxReq) : MxReq := if r.who == c then { r with alive := false } else r
  s.setPod (podOf c) { p with queue := p.queue.map off, batches := p.batches.map (fun b => { b with reqs := b.reqs.map off }) }

/-- Number of a byte in the staging stores at which a reply slot begins (R308). -/
def slotByte (c : CtxId) (slot : Nat) : Nat := stagingOf c * 4096 + 0xC00 + 128 * slot

/-- What `MXRWAIT` returns for a landed slot (R308). -/
def slotWord (status count : Byte) : Word := BitVec.ofNat 64 (status.toNat + 256 * count.toNat)

/-- A request whose requester is alive and whose slot is pending (R310). -/
def State.reqLive (s : State) (r : MxReq) : Bool := r.alive && (s.ctx r.who).replySlots.get .free r.slot == .pending

/-- A reply or abort landing in its slot (R308, R310, R311): its bytes and zeros after them, then `LANDED`; a context that
waits on it goes on, and one that is void is discarded. -/
def State.land (s : State) (r : MxReq) (status : Byte) (bs : List Byte) : State :=
  if s.reqLive r then
    let count := BitVec.ofNat 8 bs.length
    let area := s.st.staging.writeN (slotByte r.who r.slot) (bs ++ List.replicate (128 - bs.length) 0)
    let t : State := { s with st := { s.st with staging := area } }
    let x := t.ctx r.who
    match x.wait with
    | some (.mxreply k rd len) =>
      if k = r.slot && x.st == .wait then
        (t.setCtx r.who { x with replySlots := x.replySlots.set r.slot .free }).wakeWith r.who rd len (slotWord status count)
      else t.setCtx r.who { x with replySlots := x.replySlots.set r.slot (.landed status count) }
    | _ => t.setCtx r.who { x with replySlots := x.replySlots.set r.slot (.landed status count) }
  else s

/-- A request completed `ABORTED` (R311). -/
def State.abortReq (s : State) (r : MxReq) : State := s.land r 4 []

/-- The Keep contexts of a pod that wait in `MXTAKE` look again. They do not test the set's `V` again (R309). -/
def State.wakeTakes (s : State) (pod : Nat) : State :=
  s.waiters.foldl (fun t (c, w) =>
    if w == .reissue (.mxTake pod) then t.setCtx c { t.ctx c with st := .run } else t) s

/-- A request enqueued, and its slot pending (R307). -/
def State.enqueueReq (s : State) (c : CtxId) (wset slot : Nat) (input : List Byte) : State :=
  let p := s.pod (podOf c)
  let t := s.setPod (podOf c) { p with queue := p.queue ++ [{ who := c, slot := slot, wset := wset, input := input, alive := true }] }
  (t.setCtx c { t.ctx c with replySlots := (t.ctx c).replySlots.set slot .pending }).wakeTakes (podOf c)

/-- Contexts parked in `MXREQ` enqueue while the queue of their pod has room (R307). -/
def State.admitReqs (s : State) (pod : Nat) : State :=
  s.waiters.foldl (fun t (c, w) =>
    match w with
    | .mxqueue wset slot input rd len =>
      if podOf c = pod && decide ((t.pod pod).queue.length < 256) then (t.enqueueReq c wset slot input).wakeWith c rd len 0 else t
    | _ => t) s

/-- The queued requests that `p` selects completed `ABORTED` (R288, R292). -/
def State.abortQueued (s : State) (pod : Nat) (sel : MxReq → Bool) : State :=
  let q := (s.pod pod).queue
  let t := s.setPod pod { s.pod pod with queue := q.filter (fun r => !sel r) }
  ((q.filter sel).foldl (fun u r => u.abortReq r) t).admitReqs pod

/-! ## `MXSET` and `MXGET` -/

/-- A weight set register written (R292). -/
def State.wsetWrite (s : State) (w : Nat) (v : Word) : Except Stop State :=
  let pod := podOf s.cur
  let img := BitVec.ofNat 64 (v.toNat &&& mxMask 0x80) ||| ((s.pod pod).domain.setWidth 64 <<< 48)
  if v.getLsbD 0 && !(wsetOf img).ok then illegal 7 6 0
  else
    let t := if ((s.pod pod).wsetAt w).v then s.abortQueued pod (fun r => r.wset == w) else s
    .ok (t.setPod pod { t.pod pod with wset := (t.pod pod).wset.set w img })

/-- `MXSET` of register `n` (R291, R292). -/
def State.mxWrite (s : State) (n : Nat) (v : Word) : Except Stop State :=
  let pod := podOf s.cur
  let p := s.pod pod
  if !mxNamed n || mxReadOnly n then illegal 7 6 0
  else if 0x80 ≤ n then (s.wsetWrite (n - 0x80) v).map State.finish
  else if p.armed.isSome then .ok (s.park (.reissue (.mxArmed pod)))
  else .ok (s.setPod pod { p with shadow := p.shadow.set n (BitVec.ofNat 64 (v.toNat &&& mxMask n)) }).finish

/-- `MXSET` (R291). -/
def execMxset (d : XReg) (n : BitVec 8) (s : State) : Host.Outcome State Fault Refusal :=
  act s (do
    s.permit 6 0 0
    s.mxWrite n.toNat (s.rx d))

/-- `WSET_WRITE` (R292): `MXSET` of a weight set register. -/
def execWsetWrite (s : State) : Host.Outcome State Fault Refusal :=
  match s.opd with
  | .wset w d =>
    act s (do
      s.permit 6 0 0
      s.mxWrite (0x80 + w.toNat) (s.rx d))
  | _ => .next s

/-- `MXGET` (R291). -/
def execMxget (d : XReg) (n : BitVec 8) (s : State) : Host.Outcome State Fault Refusal :=
  act s (do
    s.permit 6 1 0
    if !mxNamed n.toNat then illegal 7 6 1
    .ok (s.wx d ((s.pod (podOf s.cur)).mxRead n.toNat)).finish)

/-! ## The fields of an operation (R290) -/

/-- An operation's fields, by their names in R290. -/
structure MxArgs where
  opa : Nat
  opb : Nat
  acode : Nat
  bcode : Nat
  zt : Nat
  acc : Bool
  sparse : Bool
  k : Nat
  m : Nat
  n : Nat
  lda : Nat
  ldb : Nat
  meta_ : Nat
  fsrc : Nat
  fdst : Nat
  bytes : Nat
  rows : Nat
  sstr : Int
  dstr : Nat
  h : Nat
  w : Nat
  c : Nat
  nimg : Nat
  kh : Nat
  kw : Nat
  sh : Nat
  sw : Nat
  dh : Nat
  dw : Nat
  pt : Nat
  pl : Nat
  rowz : Nat
  deriving DecidableEq, Repr

/-- The fields that a set of registers holds. -/
def mxArgs (r : SMap Word) : MxArgs :=
  let g (n lo len : Nat) : Nat := bitsOf (r.get 0 n).toNat lo len
  { opa := g 0 0 22, opb := g 1 0 22, acode := g 2 0 5, bcode := g 2 8 5, zt := g 2 16 3, acc := g 2 19 1 == 1,
    sparse := g 2 20 1 == 1, k := g 3 0 16, m := g 3 16 7, n := g 3 24 7, lda := g 4 0 22, ldb := g 5 0 22, meta_ := g 6 0 22,
    fsrc := g 8 0 56, fdst := g 9 0 22, bytes := g 10 0 22, rows := g 10 32 16, sstr := (r.get 0 11).toInt, dstr := g 12 0 22,
    h := g 13 0 16, w := g 13 16 16, c := g 13 32 16, nimg := g 13 48 8, kh := g 14 0 8, kw := g 14 8 8, sh := g 14 16 4,
    sw := g 14 20 4, dh := g 14 24 4, dw := g 14 28 4, pt := g 14 32 8, pl := g 14 40 8, rowz := g 15 0 32 }

/-- Bytes of an array of `n` elements of a code, blocks of 2^`lb` (R154). -/
def arrBytes (code lb n : Nat) : Nat :=
  if n = 0 then 0
  else match fatMx code with
    | some f => ((mxOffsets lb (n - 1) f.width).2 + f.width + 7) / 8
    | none => n * (fatSize code).getD 1

/-- Elements of A that a row of an `MMA` holds: half of them under `SPARSE` (R299). -/
def MxArgs.aLen (g : MxArgs) : Nat := if g.sparse then g.k / 2 else g.k
/-- log2 of the block length of A's arrays: 16 elements under `SPARSE` (R299), else 32. -/
def MxArgs.aLb (g : MxArgs) : Nat := if g.sparse then 4 else 5

/-- Ranges of pod scratch, as offset and length, at a row stride. -/
def rowRanges (off stride n len : Nat) : List (Nat × Nat) := (List.range n).map (fun i => (off + i * stride, len))

/-- Output height and width of an `UNFOLD` (R298). -/
def MxArgs.oh (g : MxArgs) : Int :=
  ((g.h : Int) + (g.pt : Int) - (g.dh : Int) * ((g.kh : Int) - 1) - 1) / (g.sh : Int) + 1
def MxArgs.ow (g : MxArgs) : Int :=
  ((g.w : Int) + (g.pl : Int) - (g.dw : Int) * ((g.kw : Int) - 1) - 1) / (g.sw : Int) + 1

/-- The activation tensor of an `UNFOLD` (R298). -/
def MxArgs.tensor (g : MxArgs) : List (Nat × Nat) :=
  let px := g.nimg * g.h * g.w
  if px = 0 then [] else [(g.opa, (px - 1) * g.lda + arrBytes g.acode 5 g.c)]

/-- The pod scratch that an operation of a kind reads or writes. -/
def MxArgs.ranges (g : MxArgs) (kind : Nat) : List (Nat × Nat) :=
  match kind with
  | 0 => rowRanges g.fdst g.dstr g.rows g.bytes
  | 1 => rowRanges g.opa g.lda g.m (arrBytes g.acode g.aLb g.aLen) ++ rowRanges g.opb g.ldb g.n (arrBytes g.bcode 5 g.k) ++
      (if g.sparse then [(g.meta_, (g.m * g.k + 7) / 8)] else [])
  | _ => g.tensor ++ rowRanges g.opb g.ldb g.n (arrBytes g.bcode 5 g.k)

/-! ## The order of accesses to scratch and tiles (R300) -/

/-- Two lists of ranges overlap. -/
def overlaps (a b : List (Nat × Nat)) : Bool :=
  a.any (fun x => b.any (fun y => decide (x.1 < y.1 + y.2) && decide (y.1 < x.1 + x.2)))

/-- An operation, with its fields, touches a tile or scratch that an instruction is about to access. -/
def mxTouches (op : MxOp) (g : MxArgs) (tile : Option Nat) (l : List (Nat × Nat)) : Bool :=
  (op.kind != 0 && tile == some g.zt) || overlaps (g.ranges op.kind) l

/-- An armed or running operation touches the tile or the scratch: the access waits for it (R300). -/
def Pod.mxBusy (p : Pod) (tile : Option Nat) (l : List (Nat × Nat)) : Bool :=
  (match p.running with
   | some op => mxTouches op (mxArgs p.active) tile l
   | none => false) ||
  (match p.armed with
   | some op => mxTouches op (mxArgs p.shadow) tile l
   | none => false)

/-- The executing Keep context waits for earlier accesses to a tile and to scratch (R300). -/
def State.mxOrder (s : State) (tile : Option Nat) (l : List (Nat × Nat)) : Except Stop Unit :=
  if (s.pod (podOf s.cur)).mxBusy tile l then .error (.hold s) else .ok ()

/-! ## Starting and ending operations (R293, R294, R301, R302) -/

/-- The master that a pod's matrix command stream is (R392, kind 4). -/
def mxMaster (pod : Nat) : Master := { unit := pod, side := false, slot := 0, kind := 4 }

/-- A record of the stream waits for room in the buffer of its die (R391). -/
def State.mxHeld (s : State) (pod : Nat) : Bool := (s.die (pod / 12)).fbHeld.any (fun r => r.master == mxMaster pod)

/-- The contexts that wait for the armed set to be copied in issue again (R291, R293). -/
def State.wakeArmed (s : State) (pod : Nat) : State :=
  s.waiters.foldl (fun t (c, w) => if w == .reissue (.mxArmed pod) then t.wakeRetry c else t) s

/-- The happening that an operation of a kind is. -/
def mxInstr (kind : Nat) : Instr :=
  match kind with
  | 0 => .fill
  | 1 => .mma
  | _ => .unfold

/-- The armed set is copied in and its operation starts, where none is active and the stream is not stopped (R293, R301). -/
def State.mxStart (s : State) (pod : Nat) : State :=
  let p := s.pod pod
  match p.running, p.armed with
  | none, some op =>
    if p.mxFrozen || s.mxHeld pod then s
    else ((s.setPod pod { p with active := p.shadow, running := some op, armed := none }).wakeArmed pod).push (mxInstr op.kind) (.unit pod)
  | _, _ => s

/-- `MXGO` (R293). -/
def execMxgo (d a b : XReg) (s : State) : Host.Outcome State Fault Refusal :=
  act s (do
    s.permit 6 2 0
    let pod := podOf s.cur
    let p := s.pod pod
    if 2 < (s.rx a).toNat then illegal 7 6 2
    if p.armed.isSome then .ok (s.park (.reissue (.mxArmed pod)))
    else
      let op : MxOp := { kind := (s.rx a).toNat, flag := s.rx b, ticket := p.next, by_ := s.cur.slot, pdid := p.domain, done := none }
      let t := s.setPod pod { p with armed := some op, next := p.next + 1 }
      .ok ((t.wx d (p.next.setWidth 64)).finish.mxStart pod))

/-- The status word of an operation (R294). -/
def mxStatus (code : Nat) (fl : Raised) (bad : Nat) : Word := collStatus code fl bad

/-- The flag address of an operation is misaligned (R294). -/
def MxOp.misaligned (op : MxOp) : Bool := op.flag.toNat % 8 != 0

/-- The operation's domain holds `E` and `W` over its flag (R294, R301). -/
def State.flagDenied (s : State) (op : MxOp) : Option (BitVec 4 × Nat) :=
  if op.flag = 0 then none else s.lacks op.pdid rEW (vaOf op.flag) 8

/-- An operation that has not been carried out writes its flag (R294): aligned, and with the rights held. -/
def State.flagAllowed (s : State) (op : MxOp) : Bool := !op.misaligned && (s.flagDenied op).isNone

/-- The running operation has been carried out with a status word, and ends next. -/
def State.mxDone (s : State) (pod : Nat) (op : MxOp) (v : Word) (writes : Bool) : State :=
  (s.setPod pod { s.pod pod with running := some { op with done := some (v, writes) } }).push .mxOperationEnd (.unit pod)

/-- Context `k` of a Keep. -/
def keepCtx (pod k : Nat) : CtxId := { keep := true, unit := pod, side := false, slot := k }

/-- The Keep context that armed an operation. -/
def mxCtx (pod : Nat) (op : MxOp) : CtxId := keepCtx pod op.by_

/-- The line of an operation's flag made ready (R263); in error, the state in which it waits. -/
def State.takeFlag (s : State) (pod : Nat) (op : MxOp) (writes : Bool) : Except State State :=
  if op.flag = 0 || !writes then .ok s
  else s.takeEach (engReq op.pdid (pod / 12)) (fun t => t.claimEngine (pod / 12) true) [vaOf op.flag]

/-- An operation's flag written (R294). -/
def State.mxFlag (s : State) (pod : Nat) (op : MxOp) (v : Word) : State :=
  if op.flag = 0 then s
  else match s.locate (engReq op.pdid (pod / 12)) 0 (vaOf op.flag) with
    | .ok (_, l) =>
      let t := s.putFlag (some (mxCtx pod op)) pMatrix l v
      t.viaEngine (engReq op.pdid (pod / 12)) (pod / 12) (mxeKey pod) true [vaOf op.flag]
    | .error _ => s

/-- The contexts of a Keep that wait for a ticket receive its status word (R302). -/
def State.wakeSync (s : State) (pod : Nat) (ticket : BitVec 32) (v : Word) : State :=
  s.waiters.foldl (fun t (c, w) =>
    match w with
    | .mxsync k tk rd len => if k = pod && tk == ticket then t.wakeWith c rd len v else t
    | _ => t) s

/-- An operation that has ended: its flag, and its status word kept among the last sixteen (R294, R302). -/
def State.mxEnded (s : State) (pod : Nat) (op : MxOp) (v : Word) (writes : Bool) : State :=
  let t := if writes then s.mxFlag pod op v else s
  (t.setPod pod { t.pod pod with ended := ((op.ticket, v) :: (t.pod pod).ended).take 16, last := op.ticket }).wakeSync pod op.ticket v

/-- `MX_OPERATION_END` (R293, R294): the running operation ends, once its flag can be written, and the armed one may start. -/
def State.mxOpEnd (s : State) (pod : Nat) : State :=
  match (s.pod pod).running with
  | some op =>
    match op.done with
    | some (v, writes) =>
      match s.takeFlag pod op writes with
      | .error u => u
      | .ok t => ((t.setPod pod { t.pod pod with running := none }).mxEnded pod op v writes).mxStart pod
    | none => s
  | none => s

/-- `MX_OPERATION_END` (R294). -/
def execMxOperationEnd (s : State) : Host.Outcome State Fault Refusal :=
  match s.opd with
  | .unit pod => .next (s.mxOpEnd pod)
  | _ => .next s

/-- The armed operation ends `KILLED` without having started (R288, R301). -/
def State.mxKillArmed (s : State) (pod : Nat) : State :=
  match (s.pod pod).armed with
  | some op =>
    ((s.setPod pod { s.pod pod with armed := none }).mxEnded pod op (mxStatus 2 Raised.none 0) (s.flagAllowed op)).wakeArmed pod
  | none => s

/-- `MXSYNC` (R302). -/
def execMxsync (d a : XReg) (s : State) : Host.Outcome State Fault Refusal :=
  act s (do
    s.permit 6 2 1
    let pod := podOf s.cur
    let p := s.pod pod
    let tk : BitVec 32 := if s.rx a = 0 then p.next - 1 else (s.rx a).setWidth 32
    let is (o : Option MxOp) : Bool := (o.map (·.ticket)) == some tk
    if 2 ^ 32 ≤ (s.rx a).toNat then .ok (s.wx d 0xFE).finish
    else match p.ended.find? (fun e => e.1 == tk) with
      | some e => .ok (s.wx d e.2).finish
      | none =>
        if is p.running || is p.armed then .ok (s.park (.mxsync pod tk d s.ilen))
        else .ok (s.wx d 0xFE).finish)

/-! ## Checks at the start (R294, R301) -/

/-- The code pair is one of R296. -/
def mxPair (a b : Nat) : Bool :=
  let mx (c : Nat) : Bool := decide (12 ≤ c) && decide (c ≤ 16)
  (mx a && mx b) || (a == b && (a == 17 || a == 1 || a == 9 || a == 10))

/-- The mode of tile that a code pair gives (R296): 1 `FP32`, 2 `RNS48`. -/
def mxMode (acode : Nat) : Nat := if acode = 17 || acode = 1 then 2 else 1

/-- The scratch ranges run past 4 MiB. -/
def pastScratch (l : List (Nat × Nat)) : Bool := l.any (fun r => decide (2 ^ 22 < r.1 + r.2))

/-- `BADOP` of a `FILL` (R294). -/
def MxArgs.badFill (g : MxArgs) : Bool :=
  g.bytes % 16 != 0 || g.bytes == 0 || g.rows == 0 || g.sstr % 16 != 0 || g.dstr % 16 != 0 || pastScratch (g.ranges 0)

/-- `BADOP` of the fields that `MMA` and `UNFOLD` share (R294). -/
def MxArgs.badMma (g : MxArgs) (kind : Nat) : Bool :=
  g.opa % 64 != 0 || g.opb % 64 != 0 || !mxPair g.acode g.bcode || g.k % 32 != 0 || g.k == 0 || g.m == 0 || decide (64 < g.m) ||
    g.n == 0 || decide (64 < g.n) || g.lda % 32 != 0 || g.ldb % 32 != 0 || pastScratch (g.ranges kind)

/-- `BADOP` of the fields of `UNFOLD` alone (R294, R298). -/
def MxArgs.badUnfold (g : MxArgs) : Bool :=
  g.sparse || g.c % 32 != 0 || g.k != g.kh * g.kw * g.c || g.nimg == 0 || g.kh == 0 || g.kw == 0 || g.sh == 0 || g.sw == 0 ||
    g.dh == 0 || g.dw == 0 || decide (g.oh ≤ 0) || decide (g.ow ≤ 0) ||
    decide ((g.nimg : Int) * g.oh * g.ow < (g.rowz : Int) + (g.m : Int))

/-- `BADOP` (R294). -/
def mxBad (op : MxOp) (g : MxArgs) : Bool :=
  op.misaligned ||
  (match op.kind with
   | 0 => g.badFill
   | 1 => g.badMma 1
   | _ => g.badMma 2 || g.badUnfold)

/-- A tile of a pod. -/
def Pod.tile (p : Pod) (z : Nat) : Tile := p.tiles.get Tile.reset z

/-- `MODE` (R294). -/
def Pod.mxModeBad (p : Pod) (op : MxOp) (g : MxArgs) : Bool :=
  let t := p.tile g.zt
  op.kind != 0 && g.acc && (t.mode != mxMode g.acode || t.m != g.m || t.n != g.n)

/-- Source address of a piece of a `FILL` (R295). -/
def MxArgs.fillFrom (g : MxArgs) (row : Nat) : Nat := (((g.fsrc : Int) + (row : Int) * g.sstr) % (2 ^ 56 : Int)).toNat

/-- The first denial of a `FILL`'s source, from row `r` on, `n` rows (R301). -/
def State.fillDenied (s : State) (pdid : BitVec 12) (g : MxArgs) (r n : Nat) : Option (BitVec 4 × Nat) :=
  match n with
  | 0 => none
  | k + 1 =>
    match s.rangeDenied pdid rER (g.fillFrom r) g.bytes with
    | some e => some e
    | none => s.fillDenied pdid g (r + 1) k

/-- The denial of an operation (R301). -/
def State.mxDenied (s : State) (op : MxOp) (g : MxArgs) : Option (BitVec 4 × Nat) :=
  match (if op.kind = 0 then s.fillDenied op.pdid g 0 g.rows else none) with
  | some e => some e
  | none => s.flagDenied op

/-- A record of a pod's matrix stream (R390). -/
def State.mxRecord (s : State) (pod : Nat) (code : BitVec 8) (info : BitVec 16) (faddr : Word) (pdid : BitVec 12) : State :=
  (s.offerRecord (pod / 12)
    { code := code, info := info, master := mxMaster pod, faddr := faddr, fpc := 0, fid := 0, launchId := 0, pdid := pdid,
      cycle := (s.die (pod / 12)).dcyc }).raiseVector pdid.toNat 0

/-- The stream frozen by a denial (R301). -/
def State.mxFreeze (s : State) (pod : Nat) (op : MxOp) (e : BitVec 4 × Nat) : State :=
  (s.setPod pod { s.pod pod with mxFrozen := true }).mxRecord pod cProtViol (e.1.setWidth 16) (BitVec.ofNat 64 e.2) op.pdid

/-! ## `FILL` (R295) -/

/-- What a fill has done: the state, the lowest address that failed, the rows begun before this one, and whether it has read a
flagged region. -/
structure FillRun where
  s : State
  bad : Option Nat
  done : List (Nat × Nat)
  poison : Bool

/-- The bytes that a piece leaves in scratch: in a byte that an earlier row has written, either value (R295). -/
def fillMerge (free off : Nat) (old new : List Byte) (done : List (Nat × Nat)) : List Byte :=
  match old, new with
  | o :: os, n :: ns =>
    (if overlaps done [(off, 1)] && Config.pick free (16 * off + 5) then o else n) :: fillMerge free (off + 1) os ns done
  | _, ns => ns

/-- A piece copied; after a failure it may be copied or not. -/
def FillRun.piece (r : FillRun) (q : Req) (pod by_ src dst : Nat) : FillRun :=
  match r.s.spanLocs q (pagePieces src 16) with
  | .error a => { r with bad := some (min a (r.bad.getD a)) }
  | .ok l =>
    if r.bad.isSome && Config.pick r.s.free (16 * src + 6) then r
    else
      let w := (r.s.ctx (keepCtx pod by_)).paths
      let bs := fillMerge r.s.free dst (r.s.psGet pod dst 16) (r.s.st.spanGet r.s.free pMatrix w l) r.done
      { r with s := (r.s.spanSaw (some (keepCtx pod by_)) pMatrix l).psPut pod dst bs, poison := r.poison || r.s.flaggedIn src 16 }

/-- A row copied, piece by piece. -/
def FillRun.row (r : FillRun) (q : Req) (pod by_ : Nat) (g : MxArgs) (i : Nat) : FillRun :=
  let o := (List.range (g.bytes / 16)).foldl
    (fun t k => t.piece q pod by_ (g.fillFrom i + 16 * k) (g.fdst + i * g.dstr + 16 * k)) r
  { o with done := (g.fdst + i * g.dstr, g.bytes) :: o.done }

/-- The lines that a fill reads made ready (R369): the matrix engine holds them as an in-die agent. -/
def State.takeFill (s : State) (pod : Nat) (op : MxOp) (g : MxArgs) : Except State State :=
  let r := engReq op.pdid (pod / 12)
  let l := (List.range g.rows).flatMap (fun i => lineList (g.fillFrom i) g.bytes)
  match s.takeEach r (fun t => t.claimFor (pod / 12) (.mxe pod) false) l with
  | .error u => .error u
  | .ok t => .ok (t.viaEngine r r.die (mxeKey pod) false l)

/-- A fill performed: its state and status word. -/
def State.fillAll (s : State) (pod : Nat) (op : MxOp) (g : MxArgs) : State × Word :=
  let r0 : FillRun := { s := s, bad := none, done := [], poison := false }
  let r := (List.range g.rows).foldl (fun t i => t.row (engReq op.pdid (pod / 12)) pod op.by_ g i) r0
  let t := if r.poison then
      r.s.mxRecord pod cPoisonless ((Config.word s.free 16).setWidth 16) (Config.word s.free 17) op.pdid
    else r.s
  (t, match r.bad with
    | some a => mxStatus 1 Raised.none a
    | none => mxStatus 0 Raised.none 0)

/-! ## `MMA` and `UNFOLD` (R296 to R299) -/

/-- The `w` bits at bit address `b` of a memory. -/
def memBits (m : Memory) (b w : Nat) : Nat := ((m.read (b / 8)).toNat + 256 * (m.read (b / 8 + 1)).toNat) / 2 ^ (b % 8) % 2 ^ w

/-- Element `n` of an array of a code at an address, blocks of 2^`lb` (R154). -/
def arrElem (m : Memory) (at_ code lb n : Nat) : Nat :=
  match fatMx code with
  | some f => memBits m (8 * at_ + (mxOffsets lb n f.width).2) f.width
  | none => ofBytes (m.readN (at_ + n * (fatSize code).getD 1) ((fatSize code).getD 1))

/-- The scale code of element `n`; that of 1 for a code that has no scales. -/
def arrScale (m : Memory) (at_ code lb n : Nat) : Nat :=
  match fatMx code with
  | some f => (m.read (at_ + (mxOffsets lb n f.width).1)).toNat
  | none => 127

/-- The value of an element, without its scale. -/
def codeVal (code v : Nat) : FV :=
  match fatMx code with
  | some f => f.elem v
  | none => if code = 10 then bf16.val v else fp16.val v

/-- A block of a row of A: its scale code, and its present positions with their elements. -/
structure ABlock where
  scale : Nat
  els : List (Nat × Nat)
  deriving DecidableEq, Repr

/-- The metadata of group `gr` of row `i` (R299). -/
def MxArgs.pair (g : MxArgs) (m : Memory) (base i gr : Nat) : Nat × Nat :=
  let e := i * (g.k / 4) + gr
  let v := memBits m (8 * (base + g.meta_ + e / 2) + 4 * (e % 2)) 4
  (v % 4, v / 4)

/-- The present positions of a group and their elements (R299): a group out of order contributes nothing. -/
def MxArgs.sparseGroup (g : MxArgs) (m : Memory) (base i gr : Nat) : List (Nat × Nat) :=
  let p := g.pair m base i gr
  let row := base + g.opa + i * g.lda
  if p.1 < p.2 then [(4 * gr + p.1, arrElem m row g.acode 4 (2 * gr)), (4 * gr + p.2, arrElem m row g.acode 4 (2 * gr + 1))] else []

/-- Address of the pixel of an unfolded block, with its first channel; `none` where it is padded (R298). -/
def MxArgs.pixel (g : MxArgs) (base i k : Nat) : Option (Nat × Nat) :=
  let oh := g.oh.toNat
  let ow := g.ow.toNat
  let r := g.rowz + i
  let y : Int := ((r / ow % oh * g.sh + k / (g.kw * g.c) * g.dh : Nat) : Int) - (g.pt : Int)
  let x : Int := ((r % ow * g.sw + k / g.c % g.kw * g.dw : Nat) : Int) - (g.pl : Int)
  if y < 0 || (g.h : Int) ≤ y || x < 0 || (g.w : Int) ≤ x then none
  else some (base + g.opa + ((r / (oh * ow) * g.h + y.toNat) * g.w + x.toNat) * g.lda, k % g.c)

/-- Block `b` of row `i` of A; `none` where it is padded. -/
def MxArgs.aBlock (g : MxArgs) (kind : Nat) (m : Memory) (base i b : Nat) : Option ABlock :=
  if kind = 2 then
    (g.pixel base i (32 * b)).map (fun p =>
      { scale := arrScale m p.1 g.acode 5 p.2,
        els := (List.range 32).map (fun k => (32 * b + k, arrElem m p.1 g.acode 5 (p.2 + k))) })
  else
    let row := base + g.opa + i * g.lda
    if g.sparse then
      some { scale := arrScale m row g.acode 4 (16 * b),
             els := (List.range 8).flatMap (fun q => g.sparseGroup m base i (8 * b + q)) }
    else
      some { scale := arrScale m row g.acode 5 (32 * b),
             els := (List.range 32).map (fun k => (32 * b + k, arrElem m row g.acode 5 (32 * b + k))) }

/-- An element of a tile after a block in `FP32` mode (R296): the block's exact sum scaled, rounded, and added. -/
def mmaFp (z : Nat) (prods : List Exact) (scale : Option Int) : NRes :=
  let x := exactSum .rne prods
  let y : Exact :=
    match scale with
    | some k => ⟨x.x.scale k, x.fl⟩
    | none => ⟨.nan false, x.fl⟩
  let r := y.round fp32 .rne false
  let o := fAdd fp32 .rne (fp32.val z) (fp32.val r.v)
  ⟨o.v, r.fl.or o.fl⟩

/-- What an `MMA` has done: the tile, and the flags. -/
structure MmaRun where
  t : Tile
  fl : Raised

/-- A row's or column's scale code; 0xFF unset. -/
def scaleCode (m : SMap Byte) (i : Nat) : Nat := (m.get 0xFF i).toNat

/-- `CheckScales` (R297). -/
def Tile.checkScales (t : Tile) (i j ea eb : Nat) : Tile :=
  let t1 := if scaleCode t.rows i = 255 then { t with rows := t.rows.set i (BitVec.ofNat 8 ea) } else t
  let t2 := if scaleCode t1.cols j = 255 then { t1 with cols := t1.cols.set j (BitVec.ofNat 8 eb) } else t1
  if ea != scaleCode t2.rows i || eb != scaleCode t2.cols j || ea == 255 || eb == 255 then
    { t2 with el := t2.el.set (64 * i + j) (BitVec.ofNat 64 rnsBad) }
  else t2

/-- Block `b` of element (`i`, `j`) (R296). -/
def MmaRun.block (r : MmaRun) (g : MxArgs) (m : Memory) (base : Nat) (a : ABlock) (i j b : Nat) : MmaRun :=
  let col := base + g.opb + j * g.ldb
  let eb := arrScale m col g.bcode 5 (32 * b)
  let e := 64 * i + j
  if mxMode g.acode = 1 then
    let prods := a.els.map (fun p => exactMul (codeVal g.acode p.2) (codeVal g.bcode (arrElem m col g.bcode 5 p.1)))
    let sc : Option Int := if a.scale = 255 || eb = 255 then none else some ((a.scale : Int) - 127 + ((eb : Int) - 127))
    let o := mmaFp ((r.t.el.get 0 e).toNat % 2 ^ 32) prods sc
    { t := { r.t with el := r.t.el.set e (BitVec.ofNat 64 o.v) }, fl := r.fl.or o.fl }
  else
    let t := if g.acode = 17 then r.t.checkScales i j a.scale eb else r.t
    let z := a.els.foldl (fun z p => rnsAdd z (rnsOfInt (signedNat 8 p.2 * signedNat 8 (arrElem m col g.bcode 5 p.1))))
      (t.el.get 0 e).toNat
    { r with t := { t with el := t.el.set e (BitVec.ofNat 64 z) } }

/-- Element (`i`, `j`): its blocks in ascending order. -/
def MmaRun.elem (r : MmaRun) (g : MxArgs) (kind : Nat) (m : Memory) (base i j : Nat) : MmaRun :=
  (List.range (g.k / 32)).foldl (fun t b =>
    match g.aBlock kind m base i b with
    | some a => t.block g m base a i j b
    | none => t) r

/-- `NV` of a group whose positions are out of order (R299). -/
def MxArgs.groupFlags (g : MxArgs) (m : Memory) (base : Nat) : Raised :=
  if g.sparse && (List.range g.m).any (fun i => (List.range (g.k / 4)).any (fun q =>
      decide ((g.pair m base i q).2 ≤ (g.pair m base i q).1))) then fNV else Raised.none

/-- The multiplication (R296 to R299): its tile and flags. An `RNS48` count saturates; that of an `FP32` tile has the 64 bits of its
image (R303). -/
def mmaRun (g : MxArgs) (kind : Nat) (m : Memory) (base : Nat) (t : Tile) : MmaRun :=
  let t0 := if g.acc then t else { Tile.reset with mode := mxMode g.acode, m := g.m, n := g.n }
  let r0 : MmaRun := { t := t0, fl := if kind = 1 then g.groupFlags m base else Raised.none }
  let r : MmaRun := (List.range g.m).foldl (fun r i => (List.range g.n).foldl (fun u j => MmaRun.elem u g kind m base i j) r) r0
  let n := r.t.count + g.k
  { r with t := { r.t with count := if r.t.mode = 2 then min (2 ^ 33) n else n % 2 ^ 64 } }

/-- A multiplication performed: its state and status word. -/
def State.mmaAll (s : State) (pod : Nat) (op : MxOp) (g : MxArgs) : State × Word :=
  let p := s.pod pod
  let r := mmaRun g op.kind s.st.podScratch (pod * 2 ^ 22) (p.tile g.zt)
  (s.setPod pod { p with tiles := p.tiles.set g.zt r.t }, mxStatus 0 r.fl 0)

/-- The running operation of a pod, if it is of a kind and not carried out: checked, then performed (R294), once the lines that it
reads have been recalled. -/
def State.mxRun (s : State) (pod kind : Nat) : State :=
  match (s.pod pod).running with
  | none => s
  | some op =>
    let g := mxArgs (s.pod pod).active
    if op.kind != kind || op.done.isSome then s
    else if mxBad op g then s.mxDone pod op (mxStatus 5 Raised.none 0) (s.flagAllowed op)
    else if (s.pod pod).mxModeBad op g then s.mxDone pod op (mxStatus 6 Raised.none 0) (s.flagAllowed op)
    else match s.mxDenied op g with
      | some e => (s.mxFreeze pod op e).mxDone pod op (mxStatus 3 Raised.none 0) false
      | none =>
        match (if kind = 0 then s.takeFill pod op g else .ok s) with
        | .error u => u
        | .ok t =>
          let o := if kind = 0 then t.fillAll pod op g else t.mmaAll pod op g
          o.1.mxDone pod op o.2 true

/-- `FILL` (R295). -/
def execFill (s : State) : Host.Outcome State Fault Refusal :=
  match s.opd with
  | .unit pod => .next (s.mxRun pod 0)
  | _ => .next s

/-- `MMA` (R296). -/
def execMma (s : State) : Host.Outcome State Fault Refusal :=
  match s.opd with
  | .unit pod => .next (s.mxRun pod 1)
  | _ => .next s

/-- `UNFOLD` (R298). -/
def execUnfold (s : State) : Host.Outcome State Fault Refusal :=
  match s.opd with
  | .unit pod => .next (s.mxRun pod 2)
  | _ => .next s

/-- The running operation of a pod run to its end, which it comes to before the Keep passes to another domain (R287, R288; DEDUCED, log
entry 62); one that waits for a holder of a line is still running. -/
def State.mxFinish (s : State) (pod : Nat) : State :=
  match (s.pod pod).running with
  | some op => (s.mxRun pod op.kind).mxOpEnd pod
  | none => s

/-! ## Tiles in memory (R303) -/

/-- Bytes of a tile image. -/
def tileBytes : Nat := 33024

/-- Element (`i`, `j`) as an image holds it: 0 outside M × N. -/
def Tile.shown (t : Tile) (i j : Nat) : Nat := if i < t.m && j < t.n then (t.el.get 0 (64 * i + j)).toNat else 0

/-- The image of a tile (R303). -/
def Tile.image (t : Tile) : List Byte :=
  toBytes 8 (t.mode + 256 * t.m + 65536 * t.n) ++ toBytes 8 t.count ++ List.replicate 48 0 ++
    (List.range 64).map (t.rows.get 0xFF) ++ (List.range 64).map (t.cols.get 0xFF) ++ List.replicate 64 0 ++
    (List.range 64).flatMap (fun i => (List.range 64).flatMap (fun j => toBytes 8 (t.shown i j)))

/-- The image is one that `ZLD` loads (R303). -/
def imageOk (l : List Byte) : Bool :=
  let b (k : Nat) : Nat := (l.getD k 0).toNat
  ((l.drop 3).take 5).all (· == 0) && ((l.drop 16).take 48).all (· == 0) && ((l.drop 192).take 64).all (· == 0) &&
    decide (b 0 ≤ 2) && (b 0 == 0 || (decide (1 ≤ b 1) && decide (b 1 ≤ 64) && decide (1 ≤ b 2) && decide (b 2 ≤ 64)))

/-- A table of the bytes of a list from index `k` on. -/
def byteTable (l : List Byte) (k : Nat) : SMap Byte :=
  match l with
  | [] => []
  | b :: r => (k, b) :: byteTable r (k + 1)

/-- A table of the words of a list of bytes from index `k` on, `n` words, cut to `w` bits. -/
def wordTable (l : List Byte) (w k n : Nat) : SMap Word :=
  match n with
  | 0 => []
  | j + 1 => (k, BitVec.ofNat 64 (ofBytes (l.take 8) % 2 ^ w)) :: wordTable (l.drop 8) w (k + 1) j

/-- The tile that an image holds (R303): an `FP32` element uses its low 32 bits (R296). -/
def tileOf (l : List Byte) : Tile :=
  let b (k : Nat) : Nat := (l.getD k 0).toNat
  { mode := b 0, m := b 1, n := b 2, count := ofBytes ((l.drop 8).take 8), rows := byteTable ((l.drop 64).take 64) 0,
    cols := byteTable ((l.drop 128).take 64) 0, el := wordTable (l.drop 256) (if b 0 = 1 then 32 else 64) 0 4096 }

/-- The rights check, then the translation, of a tile image (R303): the state with the PLB and TLB entries brought in. -/
def State.confirmTile (s : State) (need : BitVec 5) (ea : Word) : Except Stop State :=
  let l := granules (vaOf ea) tileBytes
  if vaOf ea % 128 != 0 then .error (.open_ cMisalign (some ea))
  else match l.findSome? (fun a =>
      match s.locate s.req need a with
      | .error (.right m x) => some (Stop.freeze m (BitVec.ofNat 64 x))
      | _ => none) with
    | some e => .error e
    | none => s.confirmEach need l

/-- The bytes of `n` lines from an address on. -/
def State.readLines (s : State) (va n : Nat) : Except Stop (State × List Byte) :=
  match n with
  | 0 => .ok (s, [])
  | k + 1 => do
    let (t, l) ← orStop cDataXlate (s.locate s.req 0 va)
    let (u, bs) ← t.readOn pMatrix l va 128
    let (v, r) ← u.readLines (va + 128) k
    .ok (v, bs ++ r)

/-- Bytes stored, line by line from an address on, `n` lines. -/
def State.storeLines (s : State) (va : Nat) (bs : List Byte) (n : Nat) : Except Stop State :=
  match n with
  | 0 => .ok s
  | k + 1 => do
    let (t, l) ← orStop cDataXlate (s.locate s.req 0 va)
    let u ← t.storeOn pMatrix l va (bs.take 128)
    u.storeLines (va + 128) (bs.drop 128) k

/-- The executing Keep's tile replaced. -/
def State.setTile (s : State) (z : Nat) (t : Tile) : State :=
  let p := s.pod (podOf s.cur)
  s.setPod (podOf s.cur) { p with tiles := p.tiles.set z t }

/-- `ZLD` (R303). -/
def execZld (z : ZReg) (a : XReg) (s : State) : Host.Outcome State Fault Refusal :=
  act s (do
    s.permit 6 5 0
    let ea := s.rx a
    s.mxOrder (some z.toNat) []
    let t ← s.confirmTile rER ea
    let (u, bs) ← t.readLines (vaOf ea) (tileBytes / 128)
    if !imageOk bs then .error (.open_ cTileImage none)
    .ok (u.setTile z.toNat (tileOf bs)).finish)

/-- `ZST` (R303). -/
def execZst (z : ZReg) (a : XReg) (s : State) : Host.Outcome State Fault Refusal :=
  act s (do
    s.permit 6 5 1
    let ea := s.rx a
    s.mxOrder (some z.toNat) []
    let t ← s.confirmTile rEW ea
    let img := ((s.pod (podOf s.cur)).tile z.toNat).image
    let u ← t.storeLines (vaOf ea) img (tileBytes / 128)
    .ok u.finish)

/-- `ZZERO` (R303). -/
def execZzero (z : ZReg) (a b : XReg) (s : State) : Host.Outcome State Fault Refusal :=
  act s (do
    s.permit 6 5 2
    let md := (s.rx a).toNat
    let mn := (s.rx b).toNat
    let m := bitsOf mn 0 7
    let n := bitsOf mn 8 7
    if (md != 1 && md != 2) || m == 0 || 64 < m || n == 0 || 64 < n || bitsOf mn 7 1 != 0 || bitsOf mn 15 49 != 0 then illegal 7 6 5
    s.mxOrder (some z.toNat) []
    .ok (s.setTile z.toNat { Tile.reset with mode := md, m := m, n := n }).finish)

/-! ## `MXCVT` and `MXAMAX` (R304 to R306) -/

/-- The operand fields of `MXCVT` (R304). -/
structure CvtForm where
  off : Nat
  code : Nat
  e : Int
  mode : Nat
  amx : Bool
  reg : Nat
  stride : Nat
  deriving DecidableEq, Repr

/-- The fields in x[ra] and x[rb]. -/
def cvtForm (a b : Nat) : CvtForm :=
  { off := a, code := bitsOf b 0 5, e := signedNat 8 (bitsOf b 8 8), mode := bitsOf b 16 3, amx := bitOf b 19, reg := bitsOf b 20 3,
    stride := bitsOf b 32 16 }

/-- The operands break a limit of R304 that does not depend on the tile. -/
def cvtBad (a b : Nat) : Bool :=
  let c := cvtForm a b
  decide (2 ^ 22 ≤ a) || a % 64 != 0 || bitsOf b 5 3 != 0 || bitsOf b 23 9 != 0 || decide (2 ^ 48 ≤ b) || c.stride % 16 != 0 ||
    decide (5 < c.mode) || !(c.code == 5 || (decide (9 ≤ c.code) && decide (c.code ≤ 16)))

/-- A destination code of R304 is an MX code. -/
def CvtForm.mx (c : CvtForm) : Bool := decide (12 ≤ c.code)

/-- The rows that `MXCVT` writes. -/
def CvtForm.ranges (c : CvtForm) (t : Tile) : List (Nat × Nat) := rowRanges c.off c.stride t.m (arrBytes c.code 5 t.n)

/-- `kscale` (R304). -/
def Tile.kscale (t : Tile) (i j : Nat) : Int :=
  let r := scaleCode t.rows i
  let c := scaleCode t.cols j
  if r = 255 || c = 255 then 0 else (r : Int) - 127 + ((c : Int) - 127) - 12

/-- The exact value of element (`i`, `j`) with the flags of its conversion to it (R304). -/
def Tile.value (t : Tile) (i j : Nat) (e : Int) : Exact :=
  let z := (t.el.get 0 (64 * i + j)).toNat
  if t.mode = 1 then ⟨(fp32.val (z % 2 ^ 32)).scale e, Raised.none⟩
  else
    let big := if 2 ^ 32 < t.count then fRNGE else Raised.none
    if rnsValid z then ⟨(intFV (rnsToInt z)).scale (t.kscale i j + e), big⟩ else ⟨.nan false, fRNGE.or big⟩

/-- The destination of one value, packed (R304). -/
def cvtOne (code : Nat) (md : RMode) (x : FV) : NRes :=
  match code with
  | 9 => fToF fp16 md false x
  | 10 => fToF bf16 md false x
  | 11 => fToF fp32 md false x
  | _ => fToInt md x 32 true

/-- Bytes written at an offset of pod scratch. -/
structure Patch where
  off : Nat
  bs : List Byte
  deriving DecidableEq, Repr

/-- A row of an MX destination: each run of 32 values, its scale byte and its elements (R304). -/
def cvtMxRow (f : MxFmt) (md : RMode) (ovnan : Bool) (at_ : Nat) (l : List FV) (b n : Nat) : List Patch × Raised :=
  match n with
  | 0 => ([], Raised.none)
  | k + 1 =>
    let r := mxBlock f md ovnan (l.take 32)
    let o := cvtMxRow f md ovnan at_ (l.drop 32) (b + 1) k
    (⟨at_ + b, [BitVec.ofNat 8 r.scale]⟩ ::
      ⟨at_ + 32 + 4 * f.width * b, toBytes (4 * f.width) (r.els.foldr (fun v acc => v + 2 ^ f.width * acc) 0)⟩ :: o.1, r.fl.or o.2)

/-- Row `i` converted: what it writes, and its flags (R304). -/
def Tile.cvtRow (t : Tile) (c : CvtForm) (md : RMode) (ovnan : Bool) (i : Nat) : List Patch × Raised :=
  let vals := (List.range t.n).map (fun j => t.value i j c.e)
  let fl := vals.foldl (fun f x => f.or x.fl) Raised.none
  let at_ := c.off + i * c.stride
  match (if c.mx then fatMx c.code else none) with
  | some f =>
    let o := cvtMxRow f md ovnan at_ (vals.map (·.x)) 0 (t.n / 32)
    (o.1, fl.or o.2)
  | none =>
    let r := vals.map (fun x => cvtOne c.code md x.x)
    ([⟨at_, r.flatMap (fun o => toBytes ((fatSize c.code).getD 4) o.v)⟩], r.foldl (fun f o => f.or o.fl) fl)

/-- The absolute value. -/
def FV.abs (x : FV) : FV :=
  match x with
  | .nan s => .nan s
  | .inf _ => .inf false
  | .fin _ m e => .fin false m e

/-- An amax register after a value (R305). -/
def amaxStep (old : BitVec 32) (x : FV) : BitVec 32 :=
  if x.isNan || nan32 old.toNat then 0x7FC00000
  else
    let v := (roundTo fp32 .rne false x.abs).v
    if old.toNat < v then BitVec.ofNat 32 v else old

/-- The amax register after every value of a tile (R305). -/
def Tile.amaxAll (t : Tile) (e : Int) (old : BitVec 32) : BitVec 32 :=
  (List.range t.m).foldl (fun a i => (List.range t.n).foldl (fun a j => amaxStep a (t.value i j e).x) a) old

/-- The rounding mode of `MXCVT` (R304). -/
def CvtForm.rmode (c : CvtForm) (rnd : BitVec 4) : RMode := RMode.ofCode (if c.mode = 0 then rnd.toNat % 8 else c.mode - 1)

/-- `MXCVT` (R304, R305). DESIGN CHOICE: where rows overlap in scratch, the bytes of the later row remain (log entry 131). -/
def execMxcvt (z : ZReg) (a b : XReg) (s : State) : Host.Outcome State Fault Refusal :=
  act s (do
    s.permit 6 3 0
    let c := cvtForm (s.rx a).toNat (s.rx b).toNat
    if cvtBad (s.rx a).toNat (s.rx b).toNat then illegal 7 6 3
    s.mxOrder (some z.toNat) []
    let pod := podOf s.cur
    let t := (s.pod pod).tile z.toNat
    if t.mode = 0 || (c.mx && t.n != 32 && t.n != 64) || pastScratch (c.ranges t) then illegal 7 6 3
    s.mxOrder none (c.ranges t)
    let rows := (List.range t.m).map (t.cvtRow c (c.rmode s.me.rnd) (s.me.rnd.getLsbD 3))
    let u := rows.foldl (fun u r => r.1.foldl (fun u p => u.psPut pod p.off p.bs) u) s
    let fl := rows.foldl (fun f r => f.or r.2) Raised.none
    let p := u.pod pod
    let v := if c.amx then u.setPod pod { p with amax := p.amax.set c.reg (t.amaxAll c.e (p.amax.get 0 c.reg)) } else u
    .ok (v.raise fl).finish)

/-- `MXAMAX` (R305, R306). -/
def execMxamax (d a : XReg) (s : State) : Host.Outcome State Fault Refusal :=
  act s (do
    s.permit 6 4 0
    let n := (s.rx a).toNat
    if 7 < n then illegal 7 6 4
    let pod := podOf s.cur
    let p := s.pod pod
    .ok ((s.setPod pod { p with amax := p.amax.set n 0 }).wx d ((p.amax.get 0 n).setWidth 64)).finish)

/-! ## `MXREQ` and `MXRWAIT` (R307, R308) -/

/-- `n` elements of `sz` bytes read as scalar loads from a pointer, from element `k` on (R307). -/
def State.readPacked (s : State) (p : Word) (sz k n : Nat) : Except Stop (State × List Byte) :=
  match n with
  | 0 => .ok (s, [])
  | m + 1 => do
    let ea ← fatAddS p (sz * k : Nat)
    s.checkScalar ea sz false
    let (t, v) ← s.loadScalar ea sz
    let (u, r) ← t.readPacked p sz (k + 1) m
    .ok (u, toBytes sz v ++ r)

/-- `MXREQ` (R307). -/
def execMxreq (d a b : XReg) (s : State) : Host.Outcome State Fault Refusal :=
  act s (do
    s.permit 5 4 0
    let q := (s.rx a).toNat
    if bitsOf q 6 2 != 0 || 2 ^ 11 ≤ q then illegal 7 5 4
    let w := bitsOf q 0 6
    let slot := bitsOf q 8 3
    let p := s.pod (podOf s.cur)
    let S := p.wsetAt w
    if !S.v || S.owner != s.me.pdid then .ok (s.wx d 2).finish
    else if s.me.replySlots.get .free slot != .free then .ok (s.wx d 3).finish
    else
      let (t, bs) ← s.readPacked (s.rx b) ((fatSize S.icode).getD 1) 0 S.k
      if 256 ≤ p.queue.length then .ok (t.park (.mxqueue w slot bs d t.ilen))
      else .ok ((t.wx d 0).finish.enqueueReq s.cur w slot bs))

/-- `MXRWAIT` (R308). -/
def execMxrwait (d a : XReg) (s : State) : Host.Outcome State Fault Refusal :=
  act s (do
    s.permit 5 4 1
    let n := (s.rx a).toNat
    if 7 < n then illegal 7 5 4
    match s.me.replySlots.get .free n with
    | .free => .ok (s.wx d 0xFE).finish
    | .pending => .ok (s.park (.mxreply n d s.ilen))
    | .landed st k =>
      .ok ((s.withMe { s.me with replySlots := s.me.replySlots.set n .free }).wx d (slotWord st k)).finish)

/-! ## `MXTAKE` and `MXREPLY` (R309, R310) -/

/-- The lowest free batch identifier (R309). -/
def Pod.freeBid (p : Pod) : Nat := ((List.range 16).find? (fun k => p.batches.all (fun b => b.bid != k))).getD 16

/-- The row of a request in a batch: its input, then zeros (R309). -/
def MxReq.row (r : MxReq) : List Byte := r.input ++ List.replicate (256 - r.input.length) 0

/-- The rows of requests written to scratch from an offset on (R309). -/
def State.putRows (s : State) (pod off : Nat) (l : List MxReq) : State :=
  match l with
  | [] => s
  | r :: rest => (s.psPut pod off r.row).putRows pod (off + 256) rest

/-- The executing context waits no longer. -/
def State.clearWait (s : State) : State := s.withMe { s.me with wait := none }

/-- `MXTAKE` (R309). A context that has waited in it does not test the set's `V` again. -/
def execMxtake (d a b : XReg) (s : State) : Host.Outcome State Fault Refusal :=
  act s (do
    s.permit 6 6 0
    let q := (s.rx a).toNat
    let off := (s.rx b).toNat
    let w := bitsOf q 0 6
    let m := bitsOf q 8 7
    if bitsOf q 6 2 != 0 || 2 ^ 16 ≤ q || m == 0 || 64 < m || off % 64 != 0 || 2 ^ 22 < off + 256 * m then illegal 7 6 6
    let pod := podOf s.cur
    let p := s.pod pod
    let waited := s.me.wait == some (.reissue (.mxTake pod))
    let mine := p.queue.filter (fun r => r.wset == w)
    let l := mine.take m
    if !(p.wsetAt w).v && !waited then .ok (s.wx d 0).finish
    else if l.isEmpty || 16 ≤ p.batches.length then
      (if bitOf q 15 then .ok (s.wx d 0).finish else .ok (s.park (.reissue (.mxTake pod))))
    else
      s.mxOrder none [(off, 256 * l.length)]
      let bid := p.freeBid
      let batch : Batch := { bid := bid, keepSlot := s.cur.slot, wset := p.wset.get 0 w, reqs := l }
      let t := s.setPod pod { p with queue := l.foldl (fun q r => q.erase r) p.queue, batches := p.batches ++ [batch] }
      .ok (((t.putRows pod off l).clearWait.wx d (BitVec.ofNat 64 (l.length + 256 * bid))).finish.admitReqs pod))

/-- The rows of a batch delivered, from row `k` on (R310): the state, and the number delivered to live slots. -/
def State.deliver (s : State) (pod off n k : Nat) (l : List MxReq) : State × Nat :=
  match l with
  | [] => (s, 0)
  | r :: rest =>
    let live := (s.reqLive r).toNat
    let o := (s.land r 0 (s.psGet pod (off + 128 * k) n)).deliver pod off n (k + 1) rest
    (o.1, live + o.2)

/-- `MXREPLY` (R310). -/
def execMxreply (d a b : XReg) (s : State) : Host.Outcome State Fault Refusal :=
  act s (do
    s.permit 6 6 1
    let off := (s.rx b).toNat
    if 15 < (s.rx a).toNat || 2 ^ 22 ≤ off then illegal 7 6 6
    let pod := podOf s.cur
    let p := s.pod pod
    match p.batches.find? (fun x => x.bid == (s.rx a).toNat) with
    | none => .ok (s.wx d 0xFE).finish
    | some x =>
      let S := wsetOf x.wset
      let n := min 128 (S.n * (fatSize S.ocode).getD 1)
      s.mxOrder none (rowRanges off 128 x.reqs.length n)
      let t := s.setPod pod { p with batches := p.batches.filter (fun y => y.bid != x.bid) }
      let o := t.deliver pod off n 0 x.reqs
      .ok ((o.1.wx d (BitVec.ofNat 64 o.2)).finish.wakeTakes pod))

/-! ## Keep contexts that end (R288) -/

/-- The batches that a Keep context took and has not replied to complete `ABORTED` (R288). -/
def State.abortBatches (s : State) (c : CtxId) : State :=
  let p := s.pod c.unit
  let mine := p.batches.filter (fun b => b.keepSlot == c.slot)
  let t := s.setPod c.unit { p with batches := p.batches.filter (fun b => b.keepSlot != c.slot) }
  ((mine.flatMap (·.reqs)).foldl (fun u r => u.abortReq r) t).wakeTakes c.unit

/-- A tenant Keep context armed the operation. -/
def armedBy (o : Option MxOp) (c : CtxId) : Bool :=
  match o with
  | some op => op.by_ == c.slot
  | none => false

/-- Operations that a Keep context armed have yet to end (R288). -/
def State.mxOwed (s : State) (c : CtxId) : Bool := armedBy (s.pod c.unit).running c || armedBy (s.pod c.unit).armed c

/-- Every tenant Keep context of a pod is `IDLE`. -/
def State.keepIdle (s : State) (pod : Nat) : Bool :=
  (List.range 3).all (fun k => (s.ctx { keep := true, unit := pod, side := false, slot := k }).st == .idle)

/-- With the last tenant Keep context `IDLE`, every weight set becomes invalid and the queued requests complete `ABORTED`, those
that contexts parked in `MXREQ` then enqueue among them (R288). -/
def State.keepQuiet (s : State) (pod : Nat) : State :=
  if s.keepIdle pod then
    let p := s.pod pod
    let t := s.setPod pod { p with wset := p.wset.map (fun e => (e.1, e.2 &&& ~~~1)) }
    (t.abortQueued pod (fun _ => true)).abortQueued pod (fun _ => true)
  else s

/-- A Keep context that becomes `IDLE` (R288). -/
def State.keepGone (s : State) (c : CtxId) : State :=
  (s.setCtx c { s.ctx c with st := .idle, wait := none, haz := [] }).keepQuiet c.unit

/-- `END` of a Keep context (R288): its batches are aborted, and it drains until its operations have ended. -/
def State.keepEnd (s : State) (c : CtxId) : State :=
  let t := (s.setCtx c { s.ctx c with st := .drain, wait := none, haz := [] }).abortBatches c
  if t.mxOwed c then t else t.keepGone c

/-- A Keep context in `DRAIN` whose operations have all ended becomes `IDLE` (R288). -/
def State.keepRetire (s : State) (c : CtxId) : State :=
  if (s.ctx c).st == .drain && !s.mxOwed c then s.keepGone c else s

/-- What a killed Keep context has armed and not started is discarded, and its batches are aborted (R288). -/
def State.keepDrop (s : State) (c : CtxId) : State :=
  let t := if armedBy (s.pod c.unit).armed c then s.mxKillArmed c.unit else s
  t.abortBatches c

/-- A kill of a tenant Keep context (R288): it is `IDLE`. -/
def State.keepKill (s : State) (c : CtxId) : State := (s.keepDrop c).keepGone c

end Sys2Proof.Machine
end

