-- ==== Sys2Proof/Machine/Message.lean ====
section
/-! DEFINITION. Messages, handlers and migration (spec/13_synchronisation.md R343 to R352). -/

namespace Sys2Proof.Machine

/-! ## Waits of the sending side -/

/-- The contexts of a side that wait for a send-queue entry or a credit issue their `SEND` again (R345). -/
def State.wakeSenders (s : State) (core : Nat) (side : Bool) : State :=
  s.waiters.foldl (fun t (c, w) =>
    if !c.keep && c.unit == core && c.side == side && w == .reissue .sendFull then t.wakeRetry c else t) s

/-- A reply credit returns to a side, and the request numbered `q` is owed no longer (R346). -/
def State.creditBack (s : State) (core : Nat) (side : Bool) (q : BitVec 16) : State :=
  let x := s.side core side
  (s.setSide core side { x with replyCredits := x.replyCredits + 1, owed := x.owed.filter (fun o => o.seq != q) }).wakeSenders core side

/-- Replies that a context is still owed (R346, R351, R402). -/
def State.owedTo (s : State) (c : CtxId) : Nat :=
  if c.keep then 0 else ((s.side c.unit c.side).owed.filter (fun o => o.who == some (s.ownerOf c))).length

/-! ## Headers -/

/-- Fields of a request header (R345). -/
structure Header where
  tag : BitVec 8
  n : Nat
  side : Bool
  core : Nat
  pkg : BitVec 8
  rtag : BitVec 8
  deriving DecidableEq, Repr

/-- The request header in a word (R345). -/
def headerOf (h : Word) : Header :=
  { tag := h.setWidth 8, n := bitsOf h.toNat 8 4, side := h.getLsbD 12, core := bitsOf h.toNat 13 10,
    pkg := h.extractLsb' 24 8, rtag := h.extractLsb' 32 8 }

/-- The header and the payload's registers break a limit of R345. -/
def headerBad (h : Word) (b : XReg) : Bool :=
  h.getLsbD 23 || bitsOf h.toNat 40 24 != 0 || decide (767 < (headerOf h).core) || decide (8 < (headerOf h).n) ||
    decide (32 < b.toNat + (headerOf h).n)

/-- The words of `n` registers from register `b` on, as the executing context reads them. -/
def State.payload (s : State) (b : XReg) (n : Nat) : List Word :=
  (List.range n).map (fun k => s.rx (b + BitVec.ofNat 5 k))

/-! ## `SEND` -/

/-- `CAUSE.INFO` of `SENDFULL`: the words of the chain in [26:24] (R350). -/
def sendFullInfo (n : Nat) : BitVec 16 := BitVec.ofNat 16 (256 * n)

/-- `SENDFULL` in a message context (R350): the routine at `MSGTRAP` is entered, or without one it is a fault. -/
def State.sendFull (s : State) (h : Word) : Except Stop State :=
  let r := (s.core s.cur.unit).msgtrap
  if r = 0 then .error (.trap cSendFull (sendFullInfo s.ilen) h)
  else
    .ok ((s.withMe { s.me with causeCode := cSendFull, causeInfo := sendFullInfo s.ilen, fpc := s.me.pc, faddr := h }).goto r)

/-- The package is in the load-store domain: this one, or a peer that can be reached (R345). -/
def State.hasPkg (s : State) (p : BitVec 8) : Bool := !s.namesHost p && (p == s.pkg || s.peers.contains p)

/-- The request that the executing context sends (R345). -/
def State.request (s : State) (h : Word) (b : XReg) : Message :=
  let f := headerOf h
  { net := false, tag := f.tag, rtag := f.rtag, seq := s.mySide.seq, pdid := s.me.pdid, abort := false,
    srcPkg := s.pkg, srcCore := s.cur.unit, srcSide := s.cur.side, dstPkg := f.pkg, dstCore := f.core, dstSide := f.side,
    payload := s.payload b f.n }

/-- The state after the executing context's request has entered the send queue (R345). -/
def State.enqueueSend (s : State) (m : Message) : State :=
  let x := s.mySide
  (s.setMySide { x with
    sendq := x.sendq ++ [m], replyCredits := x.replyCredits - 1, seq := x.seq + 1,
    owed := x.owed ++ [{ seq := m.seq, who := some (s.ownerOf s.cur), pdid := s.me.pdid, fpc := s.me.pc }] }).push .messageAccept (.message m)

/-- A message crosses a die or Berper link. -/
def msgCrosses (m : Message) : Bool := m.dstPkg != m.srcPkg || m.dstCore / 96 != m.srcCore / 96

/-- `SEND` (R345, R346, R350). -/
def execSend (d a b : XReg) (s : State) : Host.Outcome State Fault Refusal :=
  act s (do
    s.permit 4 0 0
    let h := s.rx a
    if headerBad h b then illegal 7 4 0
    if s.me.sendFrozen then
      (if kindOf s.cur = .message then .error (.freeze 0 0) else .ok (s.park (.reissue .sendFrozen)))
    else if !s.hasPkg (headerOf h).pkg then .error (.open_ cMsgDest (some h))
    else if 8 ≤ s.mySide.sendq.length || s.mySide.replyCredits = 0 then
      (if kindOf s.cur = .message then s.sendFull h else .ok (s.park (.reissue .sendFull)))
    else
      let m := s.request h b
      let t := s.resync.enqueueSend m
      let v := m.seq.setWidth 64
      .ok ((if msgCrosses m then t.linked v else t).wx d v).finish)

/-! ## Acceptance (R346) -/

/-- A tag table entry (R344); `ok` when it is `VALID` and its reserved fields are 0. -/
structure TagEntry where
  ok : Bool
  entry : VAddr
  pdid : BitVec 12
  prio : Nat
  deriving DecidableEq, Repr

/-- The tag table entry of a core for a tag (R344). -/
def State.tagEntry (s : State) (core : Nat) (tag : BitVec 8) : TagEntry :=
  let v := s.fwRead ((s.core core).tagbase.toNat + 16 * tag.toNat) 16
  { ok := bitsOf v 76 4 == 0 && bitsOf v 82 6 == 0 && bitsOf v 88 8 == 1 && bitsOf v 96 32 == 0,
    entry := BitVec.ofNat 56 (v / 2 * 2), pdid := BitVec.ofNat 12 (bitsOf v 64 12), prio := bitsOf v 80 2 }

/-- A reply to a request: the device's own, with `ABORT` set and the requester's `PDID` (R346, R349), or a handler's. -/
def replyTo (m : Message) (abort : Bool) (pdid : BitVec 12) (payload : List Word) : Message :=
  { net := true, tag := m.rtag, rtag := 0, seq := m.seq, pdid := pdid, abort := abort, srcPkg := m.dstPkg,
    srcCore := m.dstCore, srcSide := m.dstSide, dstPkg := m.srcPkg, dstCore := m.srcCore, dstSide := m.srcSide,
    payload := payload }

/-- The device's `ABORT` reply to a request. -/
def State.abortReply (s : State) (m : Message) : State :=
  let r := replyTo m true m.pdid []
  s.push .messageAccept (.message r)

/-- The send stream of the context that sent a request of this package is frozen (R346), with its record (R390, kind 3), and
vector 0 of the sender's domain raised. DESIGN CHOICE: while an earlier record of the stream is held, it stands for this freeze too (log
entry 110). -/
def State.freezeSender (s : State) (m : Message) : State :=
  if m.srcPkg != s.pkg then s
  else
    let v (t : State) := t.raiseVector m.pdid.toNat 0
    match (s.side m.srcCore m.srcSide).owed.find? (fun o => o.seq == m.seq) with
    | some { who := some w, pdid := p, fpc := fpc, .. } =>
      match s.holderOf w with
      | some c =>
        let x := s.ctx c
        let d := dieOf c
        let t := s.setCtx c { x with sendFrozen := true }
        v (if s.streamHeld c 3 then t else t.offerRecord d
          { code := cProtViol, info := 0, master := { masterOf c with kind := 3 }, faddr := Config.word s.free 8, fpc := fpc,
            fid := x.fid, launchId := x.launchId, pdid := p, cycle := (s.die d).dcyc })
      | none => v (s.freezeSaved w false)
    | _ => v s

/-- A reply that fails its check: its credit returns, and vector 0 of the requester's domain is raised (R346). -/
def State.failReply (s : State) (m : Message) : State :=
  match (s.side m.dstCore m.dstSide).owed.find? (fun o => o.seq == m.seq) with
  | some o => (s.creditBack m.dstCore m.dstSide m.seq).raiseVector o.pdid.toNat 0
  | none => s

/-- A message that a side accepts as an arrival (R346, R347). -/
def State.takeIn (s : State) (m : Message) (e : TagEntry) : State :=
  let c := s.core m.dstCore
  let x := s.side m.dstCore m.dstSide
  let off := !c.tagen.getLsbD m.tag.toNat
  let t := s.setSide m.dstCore m.dstSide { x with
    accepted := x.accepted + 1,
    arrivals := x.arrivals ++ [{ msg := m, held := off, order := x.accepted, entry := e.entry, pdid := e.pdid, prio := e.prio }] }
  if off then t.setCore m.dstCore { c with tagpend := c.tagpend ||| BitVec.ofNat 256 (2 ^ m.tag.toNat) } else t

/-- The acceptance check (R346): the entry is valid, and its `PDID` is the message's. A message of `PDID` 0 passes it. -/
def TagEntry.takes (e : TagEntry) (m : Message) : Bool := m.pdid == 0 || (e.ok && m.pdid == e.pdid)

/-- A message checked at its acceptance (R346). -/
def State.check (s : State) (m : Message) : State :=
  let e := s.tagEntry m.dstCore m.tag
  if e.takes m then s.takeIn m e
  else if m.net then s.failReply m
  else (s.freezeSender m).abortReply m

/-- The send-queue entry of a request leaves (R346). -/
def State.leaveSendq (s : State) (m : Message) : State :=
  if m.net || m.srcPkg != s.pkg then s
  else
    let x := s.side m.srcCore m.srcSide
    (s.setSide m.srcCore m.srcSide { x with sendq := x.sendq.erase m }).wakeSenders m.srcCore m.srcSide

/-- The handler that a side's message context runs. -/
def State.handlerOf (s : State) (core : Nat) (side : Bool) : Option Handler :=
  (s.ctx { keep := false, unit := core, side := side, slot := 8 }).handler

/-- Request entries of a side that are in use: its request arrivals, and the request whose handler runs (R346). -/
def State.requestsHeld (s : State) (core : Nat) (side : Bool) : Nat :=
  ((s.side core side).arrivals.filter (fun a => !a.msg.net)).length +
    (match s.handlerOf core side with
     | some h => (!h.msg.net).toNat
     | none => 0)

/-- A request of this package may reach its destination: of the requests of its side to that side that have not reached it, it
is the oldest (R346). -/
def State.inOrder (s : State) (m : Message) : Bool :=
  m.srcPkg != s.pkg ||
    ((s.side m.srcCore m.srcSide).sendq.filter (fun r =>
      r.dstPkg == m.dstPkg && r.dstCore == m.dstCore && r.dstSide == m.dstSide &&
        !(s.side m.dstCore m.dstSide).waiting.contains r)).head? == some m

/-- A request reaches its destination side in another package (R346), which has no entry free for it yet, accepts it, or fails it: which
one is free (log entry 3). It holds its send-queue entry until it is accepted or failed. -/
def State.reachAway (s : State) (m : Message) : State :=
  if Config.pick s.free 10 then s
  else if Config.pick s.free 26 then ((s.leaveSendq m).freezeSender m).abortReply m
  else s.leaveSendq m

/-- A request reaches its destination side (R346). -/
def State.reachRequest (s : State) (m : Message) : State :=
  if !s.inOrder m then s
  else if m.dstPkg != s.pkg then (if m.srcPkg != s.pkg then s else s.reachAway m)
  else if 32 ≤ s.requestsHeld m.dstCore m.dstSide then
    let x := s.side m.dstCore m.dstSide
    s.setSide m.dstCore m.dstSide { x with waiting := x.waiting ++ [m] }
  else (s.leaveSendq m).check m

/-- A die in `STOP` that a message reaches returns to `P3` (R409). -/
def State.wakeDie (s : State) (d : Nat) : State := if (s.die d).power = 4 then s.push .stopWake (.unit d) else s

/-- A message reaches its destination (R346). -/
def State.reach (s : State) (m : Message) : State :=
  let t := if m.dstPkg = s.pkg then s.wakeDie (m.dstCore / 96) else s
  if m.net then (if m.dstPkg = s.pkg then t.check m else t) else t.reachRequest m

/-- `MESSAGE_ACCEPT` (R346). -/
def execMessageAccept (s : State) : Host.Outcome State Fault Refusal :=
  match s.opd with
  | .message m => .next (s.reach m)
  | _ => .next s

/-- A request entry of a side has been freed: the waiting request that reached it first is accepted (R346), and so is the next
while there is room. -/
def State.admitWaiting (s : State) (core : Nat) (side : Bool) (fuel : Nat) : State :=
  match fuel with
  | 0 => s
  | k + 1 =>
    let x := s.side core side
    match x.waiting with
    | [] => s
    | m :: r =>
      if 32 ≤ s.requestsHeld core side then s
      else (((s.setSide core side { x with waiting := r }).leaveSendq m).check m).admitWaiting core side k

/-! ## Handlers (R347, R348) -/

/-- The arrival word of a message (R347). -/
def msgWord (m : Message) : Word :=
  BitVec.ofNat 64 (m.tag.toNat + 2 ^ 8 * m.payload.length + 2 ^ 12 * m.srcSide.toNat + 2 ^ 13 * m.srcCore +
    2 ^ 23 * m.net.toNat + 2 ^ 24 * m.srcPkg.toNat + 2 ^ 32 * m.rtag.toNat + 2 ^ 40 * m.seq.toNat + 2 ^ 63 * m.abort.toNat)

/-- The order in which a message context takes arrivals (R347): lowest `PRIO`, replies before requests, earliest accepted. -/
def Arrival.before (a b : Arrival) : Bool :=
  if a.prio != b.prio then decide (a.prio < b.prio)
  else if a.msg.net != b.msg.net then a.msg.net
  else decide (a.order < b.order)

/-- The first arrival of a list in that order. -/
def firstArrival (l : List Arrival) : Option Arrival :=
  match l with
  | [] => none
  | a :: r => some (r.foldl (fun m b => if b.before m then b else m) a)

/-- The arrival that a side's message context takes next: the first of those that are not held. -/
def Side.nextArrival (x : Side) : Option Arrival := firstArrival (x.arrivals.filter (fun a => !a.held))

/-- The `x` registers of a starting handler (R348). -/
def handlerRegs (old : Vector Word 32) (keep : Bool) (m : Message) : Vector Word 32 :=
  Vector.ofFn (fun i : Fin 32 =>
    if i.val = 0 then 0
    else if i.val = 1 then msgWord m
    else if i.val ≤ 9 then m.payload.getD (i.val - 2) 0
    else if i.val = 10 then m.pdid.setWidth 64
    else if keep then old[i] else 0)

/-- An empty return stack (R174, R395). -/
def RetStack.empty : RetStack := { hw := Vector.replicate 16 0, depth := 0, spilled := 0 }

/-- `SPILLBASE` of the message context of a side (R343, R174). -/
def State.msgSpill (s : State) (core : Nat) (side : Bool) : VAddr :=
  (s.core core).fwspill + BitVec.ofNat 56 (4096 * side.toNat)

/-- A message context that starts the handler of an arrival (R348). -/
def Ctx.startHandler (x : Ctx) (a : Arrival) (spill : VAddr) : Ctx :=
  { x with st := .run, pc := a.entry, pdid := a.pdid, x := handlerRegs x.x (x.lastHandlerPdid == some a.pdid) a.msg, flags := 0,
           rnd := 0, rs := RetStack.empty, spillBase := spill, haz := [], missack := false, wait := none,
           handler := some { msg := a.msg, replied := false }, lastHandlerPdid := some a.pdid }

/-- `HANDLER_START` (R347, R348) on a side. -/
def State.handlerStart (s : State) (core : Nat) (side : Bool) : State :=
  let c : CtxId := { keep := false, unit := core, side := side, slot := 8 }
  let x := s.side core side
  if (s.ctx c).st != .idle then s
  else match x.nextArrival with
    | none => s
    | some a =>
      (s.setSide core side { x with arrivals := x.arrivals.erase a }).setCtx c
        (((s.ctx c).startHandler a (s.msgSpill core side)).fetchFrom s.st)

/-- `HANDLER_START` (R347, R348). -/
def execHandlerStart (s : State) : Host.Outcome State Fault Refusal :=
  match s.opd with
  | .side core side => .next (s.handlerStart core side)
  | _ => .next s

/-! ## `REPLY` and `HRET` (R349) -/

/-- `REPLY` (R349). -/
def execReply (a b : XReg) (s : State) : Host.Outcome State Fault Refusal :=
  act s (do
    s.permit 4 0 1
    let h := (s.rx a).toNat
    let n := bitsOf h 8 4
    if bitsOf h 0 8 != 0 || bitsOf h 12 52 != 0 || 8 < n || 32 < b.toNat + n then illegal 7 4 0
    match s.me.handler with
    | some { msg := m, replied := false } =>
      if m.net then .error (.open_ cReplyCount none)
      else
        let r := replyTo m false s.me.pdid (s.payload b n)
        let t := (s.withMe { s.me with handler := some { msg := m, replied := true } }).push .messageAccept (.message r)
        .ok (if msgCrosses r then t.linked 0 else t).finish
    | _ => .error (.open_ cReplyCount none))

/-- A side's handler has ended: a reply's credit returns, and a request's entry is freed (R346). -/
def State.handlerEnded (s : State) (core : Nat) (side : Bool) (h : Handler) : State :=
  if h.msg.net then s.creditBack core side h.msg.seq else s.admitWaiting core side 32

/-- The message context of a side is `IDLE` with no handler. -/
def State.idleMsg (s : State) (c : CtxId) : State :=
  s.setCtx c { s.ctx c with st := .idle, handler := none, wait := none, haz := [] }

/-- `HRET` (R349). -/
def execHret (s : State) : Host.Outcome State Fault Refusal :=
  act s (do
    s.permit 4 0 2
    match s.me.handler with
    | some h =>
      if !h.msg.net && !h.replied then .error (.open_ cReplyCount none)
      .ok ((s.finish.idleMsg s.cur).handlerEnded s.cur.unit s.cur.side h)
    | none => .ok (s.finish.idleMsg s.cur))

/-- A message context's handler abandoned by a kill (R349, R397): the device answers a request not replied to with an `ABORT`
reply. -/
def State.abandonHandler (s : State) (c : CtxId) : State :=
  match (s.ctx c).handler with
  | some h =>
    let t := s.idleMsg c
    (if !h.msg.net && !h.replied then t.abortReply h.msg else t).handlerEnded c.unit c.side h
  | none => s.idleMsg c

/-! ## Migration (R351, R352) -/

/-- A packet reference as a word (the reference of R352 and R398 is opaque). -/
def refWord (p : PktRef) : Nat := p.num.toNat + 2 ^ 32 * p.q + 2 ^ 48 * p.pkg.toNat

/-- The packet reference of a word. -/
def refOf (v : Nat) : PktRef := { pkg := BitVec.ofNat 8 (bitsOf v 48 8), q := bitsOf v 32 16, num := BitVec.ofNat 32 v }

/-- The first 88 bytes of a migration record, the rest of which is 0 (R352). -/
def migImage (r : MigRec) : Nat :=
  ofBytes (toBytes 8 r.pc.toNat ++ r.x18.flatMap (fun w => toBytes 8 w.toNat) ++ toBytes 8 r.fid.toNat ++ toBytes 8 (refWord r.pkt))

/-- A migration record read from its image. -/
def migOf (v : Nat) : MigRec :=
  { pc := evenVa (BitVec.ofNat 56 (bitsOf v 0 64)), x18 := (List.range 8).map (fun k => BitVec.ofNat 64 (bitsOf v (64 * (k + 1)) 64)),
    fid := BitVec.ofNat 64 (bitsOf v 576 64), pkt := refOf (bitsOf v 640 64) }

/-- The slot of the overflow area that the next record takes (R352). -/
def Core.nextSlot (c : Core) : Nat :=
  match c.migOv.getLast? with
  | none => 0
  | some (k, _) => if k + 1 < c.spawnlim.toNat - c.migq.toNat then k + 1 else 0

/-- A core's acceptance of a migrating firing (R352); `none` where it refuses. -/
def State.migArrive (s : State) (core : Nat) (r : MigRec) : Option State :=
  let c := s.core core
  let now := (s.die (core / 96)).dcyc.toNat
  if c.spawnlim.toNat < c.migCount + 1 then none
  else if c.migHw.length < c.migq.toNat then
    some (s.setCore core { c with migCount := c.migCount + 1, migHw := c.migHw ++ [(r, now)] })
  else
    some ((s.setCore core { c with migCount := c.migCount + 1, migOv := c.migOv ++ [(c.nextSlot, now)] }).fwWrite
      (c.migovf.toNat + 128 * c.nextSlot) 128 (migImage r))

/-- The hardware queue refilled from the overflow area, oldest record first (R352). -/
def State.migRefill (s : State) (core : Nat) (fuel : Nat) : State :=
  match fuel with
  | 0 => s
  | n + 1 =>
    let c := s.core core
    match c.migOv with
    | [] => s
    | (k, at_) :: r =>
      if c.migHw.length < c.migq.toNat then
        (s.setCore core { c with migOv := r, migHw := c.migHw ++ [(migOf (s.fwRead (c.migovf.toNat + 128 * k) 88), at_)] }).migRefill core n
      else s

/-- `MIGRATION_ARRIVAL` (R352): a firing that another package sends arrives at a core, which accepts or refuses it. -/
def execMigrationArrival (s : State) : Host.Outcome State Fault Refusal :=
  match s.opd with
  | .migration core r => .next ((s.migArrive core r).getD s)
  | _ => .next s

/-- The firing may migrate (R351). -/
def Ctx.mayMigrate (x : Ctx) : Bool :=
  (match x.firing with
   | some f => !f.graph && !f.gang
   | none => false) &&
  x.vec.vregs == 0 && x.rs.depth == 0 && x.rs.spilled == 0 && x.bundle.isNone && x.snap.isNone && x.slots.isEmpty &&
    x.replySlots.all (fun (_, r) => r != .pending)

/-- The record of the executing firing as it leaves for its next instruction (R351). -/
def State.migRec (s : State) (f : Firing) : MigRec :=
  { pc := s.nextPc, x18 := (List.range 8).map (fun k => xGet s.me.x (BitVec.ofNat 5 (k + 1))), fid := f.fid, pkt := f.pkt }

/-- The executing context after its firing has left it: it drains (R351). -/
def State.migrated (s : State) : State := s.withMe { s.me with st := .drain, firing := none, haz := [] }

/-- `MIGRATE` (R351, R352). Whether another package refuses the firing is a free choice (log entry 4). -/
def execMigrate (d a : XReg) (s : State) : Host.Outcome State Fault Refusal :=
  act s (do
    s.permit 4 0 3
    let A := s.rx a
    let pk := BitVec.ofNat 8 (vaOf A / 2 ^ 48)
    if !(s.rights s.req (segOf (vaOf A))).getLsbD 0 then .error (.freeze 1 ((A.setWidth 56).setWidth 64))
    match s.me.firing with
    | none => .error (.open_ cMigrateState (some A))
    | some f =>
      if !s.me.mayMigrate then .error (.open_ cMigrateState (some A))
      if s.owedTo s.cur != 0 || s.copiesOf (s.ownerOf s.cur) != 0 || s.collsJoined (s.ownerOf s.cur) != 0 then .error (.hold s)
      let t := ((s.fillPlb s.req (segOf (vaOf A))).resync).wx d 0
      if !s.hasPkg pk then .error (.open_ cPeerLost (some A))
      else if pk = s.pkg then
        match t.migArrive (ownerCore (vaOf A)) (t.migRec f) with
        | some u => .ok u.migrated
        | none => .ok (t.wx d 1).finish
      else if Config.pick s.free 7 then .ok t.migrated
      else .ok (t.wx d 1).finish)

end Sys2Proof.Machine
end

