-- ==== Sys2Proof/Machine/Place.lean ====
section
/-! DEFINITION. Where firings go and how they start: budgets and contexts (spec/01_work_and_launch.md R43 to R57,
spec/03_core.md R82, R85), the choice of a context and gangs (spec/02_placement.md R63 to R73), and the walker's and
migration's bindings. -/

namespace Sys2Proof.Machine

/-! ## The level hierarchy (R43) -/

/-- User contexts that a unit of a level holds. -/
def unitWidth (n : Nat) : Nat :=
  match n with
  | 2 => 1536
  | 3 => 128
  | 4 => 16
  | 5 => 8
  | 6 => 1
  | _ => 12288

/-- Number of a user context in ascending order of (core, side, context). -/
def ctxNum (c : CtxId) : Nat := 8 * sideKey c.unit c.side + c.slot

/-- The user context of a number. -/
def ctxOfNum (n : Nat) : CtxId := { keep := false, unit := n / 16, side := n / 8 % 2 == 1, slot := n % 8 }

/-- Number of the unit of level `n` that holds a user context, numbered over the package. -/
def unitOf (n : Nat) (c : CtxId) : Nat := ctxNum c / unitWidth n

/-- The user contexts of a unit of level `n`, in ascending order. -/
def ctxsIn (n u : Nat) : List CtxId := (List.range (unitWidth n)).map (fun k => ctxOfNum (u * unitWidth n + k))

/-- The units of level `n` + 1 within a unit of level `n`. -/
def subUnits (n u : Nat) : List Nat :=
  let k := unitWidth n / unitWidth (n + 1)
  (List.range k).map (fun j => u * k + j)

/-- The index registers `x1` to `x8` of a context (R43, R55), for the levels that `used` names. -/
def State.levelRegs (s : State) (used : Nat → Bool) (c : CtxId) : List Word :=
  let v : List Nat := [0, s.pkg.toNat, dieOf c, c.unit / 8 % 12, c.unit % 8, c.side.toNat, c.slot, 0]
  (List.range 8).map (fun k => if used k then BitVec.ofNat 64 (v.getD k 0) else 0)

/-! ## Which contexts fit (R53, R54, R73, R82, R85) -/

/-- Level `k` is used by a card. -/
def Card.used (c : Card) (k : Nat) : Bool := (c.levels.getD k (false, false)).1
/-- `EXTENT[k]` of a card. -/
def Card.extent (c : Card) (k : Nat) : Nat := c.extents.getD k 0
/-- The level at which a card declares a gang, if it does (R45). -/
def Card.gangLevel (c : Card) : Option Nat := (List.range 8).find? (fun k => (c.levels.getD k (false, false)).2)

/-- An open packet. -/
def State.packet (s : State) (r : PktRef) : Option Packet := s.packets.find? (fun p => p.ref == r)
/-- The state with an open packet replaced. -/
def State.setPacket (s : State) (p : Packet) : State :=
  { s with packets := s.packets.map (fun x => if x.ref == p.ref then p else x) }

/-- The card of an open nest packet. -/
def State.cardOf (s : State) (r : PktRef) : Option Card :=
  match s.packet r with
  | some p =>
    (match p.work with
     | .nest card _ => some card
     | _ => none)
  | none => none

/-- A gang queue: a die's, or the package's. -/
def State.gangq (s : State) (q : Option Nat) : GangQueue :=
  match q with
  | some d => (s.die d).gangq
  | none => s.engine.gangq

/-- The state with a gang queue replaced. -/
def State.setGangq (s : State) (q : Option Nat) (g : GangQueue) : State :=
  match q with
  | some d => s.setDie d { s.die d with gangq := g }
  | none => { s with engine := { s.engine with gangq := g } }

/-- The head gang of a queue with its card. -/
def State.headGang (s : State) (q : Option Nat) : Option (Gang × Card) :=
  match (s.gangq q).gangs with
  | [] => none
  | g :: _ => (s.cardOf g.pkt).map (fun c => (g, c))

/-- The head gang of a queue reserves a context (R73). -/
def State.reservedBy (s : State) (q : Option Nat) (c : CtxId) : Bool :=
  match s.headGang q, (s.gangq q).reserving with
  | some (_, card), some u => unitOf (card.gangLevel.getD 0) c == u
  | _, _ => false

/-- A context is reserved for a head gang other than that of queue `own`. DESIGN CHOICE: one that lies in the candidate regions of both the
package's and its die's head gang serves neither while both are reserved (log entry 126). -/
def State.reserved (s : State) (own : Option (Option Nat)) (c : CtxId) : Bool :=
  [none, some (dieOf c)].any (fun q => own != some q && s.reservedBy q c)

/-- User contexts of a domain that hold a firing (R54). -/
def State.boundCount (s : State) (pdid : BitVec 12) : Nat :=
  (s.allCtx.filter (fun (c, x) => kindOf c == .user && x.st != .idle && x.pdid == pdid)).length

/-- The domain's count allows `n` bindings more (R54). -/
def State.domainRoom (s : State) (pdid : BitVec 12) (n : Nat) : Bool :=
  let m := (s.domain pdid.toNat).ctxmax
  m == 0 || decide (s.boundCount pdid + n ≤ m)

/-- Granules of a budget (R82). -/
def granulesOf (vregs vclass : Nat) : Nat := vregs * 2 ^ vclass

/-- Granules that the user contexts of a core hold (R82). -/
def State.poolUsed (s : State) (core : Nat) : Nat :=
  (s.allCtx.filter (fun (c, x) => kindOf c == .user && c.unit == core && x.st != .idle)).foldl
    (fun n (_, x) => n + granulesOf x.vec.vregs x.vec.vclass) 0

/-- A core's pool has room for `n` granules. -/
def State.poolRoom (s : State) (core n : Nat) : Bool := decide (s.poolUsed core + n ≤ 1536)

/-- A budget fits a side's lanes, and those of a pending partition (R53, R85). -/
def State.lanesFit (s : State) (core : Nat) (side : Bool) (vregs vclass : Nat) : Bool :=
  fitsLanes vregs vclass (lanesOf (s.core core).lpart side) &&
  (match (s.core core).lpartPend with
   | some (v, _) => fitsLanes vregs vclass (lanesOf v side)
   | none => true)

/-- A firing's domain and budget. -/
structure Budget where
  pdid : BitVec 12
  vregs : Nat
  vclass : Nat
  deriving DecidableEq, Repr

/-- A context is idle and, but for a reservation, may be offered work (R311, R409). -/
def State.idleAt (s : State) (c : CtxId) : Bool := !(s.die (dieOf c)).stopPend && (s.ctx c).st == .idle && s.reqsOf c == 0

/-- A context is idle and may be offered work (R311, R409). -/
def State.idleFor (s : State) (own : Option (Option Nat)) (c : CtxId) : Bool := s.idleAt c && !s.reserved own c

/-! ## The bindings of a cycle (R64, R70) -/

/-- The dispatcher of a context's pod has bound nothing in this cycle (R70). -/
def State.podOpen (s : State) (c : CtxId) : Bool := !s.cycle.pods.contains (podOf c)

/-- The dispatchers of contexts' pods have bound in this cycle. -/
def State.markBound (s : State) (l : List CtxId) : State := { s with cycle := { s.cycle with pods := l.map podOf ++ s.cycle.pods } }

/-- A die is awake: it is not in `STOP` (R409). -/
def State.dieAwake (s : State) (d : Nat) : Bool := (s.die d).power != 4


/-- A context's side, its core's pool and the domain have room for a budget (R53, R54). -/
def State.fitsAt (s : State) (b : Budget) (c : CtxId) : Bool :=
  s.lanesFit c.unit c.side b.vregs b.vclass && s.poolRoom c.unit (granulesOf b.vregs b.vclass) && s.domainRoom b.pdid 1

/-- A context fits a budget (R53), for the gang at the head of queue `own` if there is one. -/
def State.fits (s : State) (b : Budget) (own : Option (Option Nat)) (c : CtxId) : Bool := s.idleFor own c && s.fitsAt b c

/-- The contexts that hold firings of a packet. -/
def State.firingsOf (s : State) (r : PktRef) : List CtxId :=
  (s.allCtx.filter (fun (c, x) => kindOf c == .user && x.st != .idle && (x.firing.map (·.pkt)) == some r)).map (·.1)

/-- A list without its repeats. -/
def distinct (l : List Nat) : List Nat := l.foldl (fun m a => if m.contains a then m else m ++ [a]) []

/-- A packet's extents at the levels of a list allow a firing in a context (R44). -/
def State.extentsAllow (s : State) (r : PktRef) (card : Card) (lvls : List Nat) (c : CtxId) : Bool :=
  let held := s.firingsOf r
  lvls.all (fun k =>
    !card.used k || card.extent k == 0 ||
      (let us := distinct ((held.filter (fun h => unitOf (k - 1) h == unitOf (k - 1) c)).map (unitOf k))
       us.contains (unitOf k c) || decide (us.length < card.extent k)))

/-! ## The choice of a context (R64) -/

/-- The contexts of the unit that holds the most of them; of equal units, the lowest-numbered. -/
def mostBy (n : Nat) (l : List CtxId) : List CtxId :=
  let counts : SMap Nat := l.foldl (fun m c => m.set (unitOf n c) (m.get 0 (unitOf n c) + 1)) []
  let best := counts.foldl (fun (b : Nat × Nat) e => if b.2 < e.2 then e else b) (0, 0)
  l.filter (fun c => unitOf n c == best.1)

/-- The context chosen among those of a list in ascending order: pod, core, side, then the lowest (R64). -/
def chooseCtx (l : List CtxId) : Option CtxId := (mostBy 5 (mostBy 4 (mostBy 3 l))).head?

/-! ## Binding and starting (R55 to R57) -/

/-- `SPILLBASE` of a user context under a domain (R28). -/
def State.spillOf (s : State) (pdid : BitVec 12) (c : CtxId) : VAddr :=
  let d := s.domain pdid.toNat
  d.spillarea + BitVec.ofNat 56 (stagingOf c * 2 ^ d.log2spill)

/-- The address of a staging area as its firing sees it (R245). -/
def State.stagingVa (s : State) : Word := BitVec.ofNat 64 (s.pkg.toNat * 2 ^ 48 + 0xFFFFFFFFF000)

/-- The firing identifier (R56). -/
def firingId (pdid : BitVec 12) (q : Nat) (num : BitVec 32) (ordinal : Nat) : Word :=
  BitVec.ofNat 64 (pdid.toNat * 2 ^ 52 + q % 2 ^ 12 * 2 ^ 40 + num.toNat % 2 ^ 16 * 2 ^ 24 + ordinal % 2 ^ 24)

/-- A firing bound into a context, which starts once its start state is written (R55, R77). -/
def State.bindCtx (s : State) (c : CtxId) (b : Budget) (f : Firing) (st : Start) : State :=
  (s.setCtx c { Ctx.reset with
    st := .binding, pdid := b.pdid, vec := { Ctx.reset.vec with vregs := b.vregs, vclass := b.vclass }, firing := some f,
    start := some st, spillBase := s.spillOf b.pdid c }).push .firingStart (.ctx c)

/-- A register file from the words of a list; `x0` reads 0. -/
def regsOf (l : List Word) : Vector Word 32 := Vector.ofFn (fun i : Fin 32 => if i.val = 0 then 0 else l.getD i.val 0)

/-- A staging area with new contents: its bytes, then zeros (R57). -/
def State.fillStaging (s : State) (c : CtxId) (bs : List Byte) : State :=
  let a := stagingOf c * 4096
  { s with st := { s.st with staging := (s.st.staging.clear a (a + 4096)).writeN a bs } }

/-- The start state written: the context runs, or stands as its save did (R55, R77). -/
def State.startFiring (s : State) (c : CtxId) : State :=
  let x := s.ctx c
  match x.st, x.start with
  | .binding, some st =>
    match st.restored with
    | some r => s.setCtx c { x.fetchFrom s.st with st := r, start := none }
    | none =>
      let t := s.fillStaging c st.staging
      t.setCtx c { x.fetchFrom t.st with st := .run, pc := st.entry, x := regsOf st.x, start := none }
  | _, _ => s

/-- `FIRING_START` (R55). -/
def execFiringStart (s : State) : Host.Outcome State Fault Refusal :=
  match s.opd with
  | .ctx c => .next (s.startFiring c)
  | _ => .next s

/-! ## Enumeration (R65) -/

/-- Digits of an ordinal in the bases of a list, the first base fastest. -/
def mixedDigits (bases : List Nat) (o : Nat) : List Nat :=
  match bases with
  | [] => []
  | b :: r => o % b :: mixedDigits r (o / b)

/-- Points of a Morton block of side 2^`k` at (`i0`, `i1`) that lie within the trip counts. -/
def mortonCount (k t0 t1 i0 i1 : Nat) : Nat := min (2 ^ k) (t0 - i0) * min (2 ^ k) (t1 - i1)

/-- The pair of the `p`-th visited point of a Morton block of side 2^`k` (R65): i1 takes the even bits, i0 the odd ones. -/
def mortonAt (k t0 t1 i0 i1 p : Nat) : Nat × Nat :=
  match k with
  | 0 => (i0, i1)
  | j + 1 =>
    let h := 2 ^ j
    let n0 := mortonCount j t0 t1 i0 i1
    let n1 := mortonCount j t0 t1 i0 (i1 + h)
    let n2 := mortonCount j t0 t1 (i0 + h) i1
    if p < n0 then mortonAt j t0 t1 i0 i1 p
    else if p < n0 + n1 then mortonAt j t0 t1 i0 (i1 + h) (p - n0)
    else if p < n0 + n1 + n2 then mortonAt j t0 t1 (i0 + h) i1 (p - n0 - n1)
    else mortonAt j t0 t1 (i0 + h) (i1 + h) (p - n0 - n1 - n2)

/-- The trip indices of an ordinal (R65); a flat card counts as one dimension. -/
def Card.indices (c : Card) (o : Nat) : List Nat :=
  let trips := c.trips.take c.ndim
  if c.ndim = 0 then [o]
  else if c.order = 1 then mixedDigits trips o
  else if c.order = 2 then
    let rest := trips.drop 2
    let r := rest.foldl (· * ·) 1
    let t0 := trips.getD 0 1
    let t1 := trips.getD 1 1
    let p := mortonAt (ceilLog2 (max t0 t1)) t0 t1 0 0 (o / r)
    p.1 :: p.2 :: (mixedDigits rest.reverse (o % r)).reverse
  else (mixedDigits trips.reverse o).reverse

/-- Iterations of a card (R42). -/
def Card.total (c : Card) : Nat := if c.ndim = 0 then c.count else (c.trips.take c.ndim).foldl (· * ·) 1

/-- The index block of a chunk (R57). -/
def Card.indexBlock (c : Card) (k : Chunk) : List Byte :=
  if k.len = 0 then List.replicate 32 0
  else (List.range 8).flatMap (fun d => toBytes 4 ((c.indices k.first).getD d 0 % 2 ^ 32))

/-! ## Chunks (R63, R64) -/

/-- A packet's budget under a card. -/
def Card.budget (c : Card) (pdid : BitVec 12) : Budget := { pdid := pdid, vregs := c.vregs, vclass := c.vclass }

/-- `x0` to `x31` of a nest firing (R55). -/
def State.nestRegs (s : State) (c : CtxId) (p : Packet) (card : Card) (k : Chunk) (fid : Word) : List Word :=
  (0 : Word) :: s.levelRegs card.used c ++ [p.args, BitVec.ofNat 64 k.len, fid, 0, 0, BitVec.ofNat 64 k.first, s.stagingVa] ++
    (List.range 8).map (fun j => card.args.getD j 0) ++ [BitVec.ofNat 64 k.rank, BitVec.ofNat 64 k.gangSize]

/-- A chunk bound to a context (R64, R71). -/
def State.bindChunk (s : State) (p : Packet) (card : Card) (k : Chunk) (c : CtxId) : State :=
  let fid := firingId p.pdid p.ref.q p.ref.num k.ordinal
  let f : Firing := { graph := false, fid := fid, launchId := p.launchId, pkt := p.ref, gang := card.gangLevel.isSome, outq := [],
                      allow := [], outAt := 0, killed := false }
  s.bindCtx c (card.budget p.pdid) f
    { entry := card.entry, x := s.nestRegs c p card k fid, staging := card.indexBlock k, restored := none }

/-- The queue of a packet lets its chunks and firings start: it is not `STOPPED` (R32). -/
def State.mayStart (s : State) (r : PktRef) : Bool := (s.queue r.q).state != .stopped

/-- Effective class of a queue (R60, R62): with `PQEAGE` 0 every ready queue is in class 0. -/
def State.effClass (s : State) (q : Nat) : Nat := if s.engine.ageStep = 0 then 0 else (s.queue q).eff

/-- The context that the walker of a die takes for a chunk (R64). DESIGN CHOICE: of the pods whose dispatcher has bound nothing in the cycle
(R70), the one that R64 would choose takes it; it does not wait for a pod that has (log entry 111). -/
def State.chunkCtx (s : State) (d : Nat) (p : Packet) (card : Card) : Option CtxId :=
  chooseCtx ((ctxsIn 2 d).filter (fun c =>
    s.podOpen c && s.fits (card.budget p.pdid) none c && s.extentsAllow p.ref card [1, 2, 3, 4, 5, 6] c))

/-- Effective class of a queue as it was at the start of the cycle (R70); a queue that was not listed then had none but its own. -/
def State.classNow (s : State) (q : Nat) : Nat := s.cycle.classes.get (s.effClass q) q

/-- A chunk that may be bound now, with its packet, card and context. -/
structure ChunkCand where
  k : Chunk
  p : Packet
  card : Card
  c : CtxId

/-- The chunks of a die's buffer that may be bound now, in dealing order. -/
def State.chunkCands (s : State) (d : Nat) : List ChunkCand :=
  (s.die d).chunks.filterMap (fun k =>
    match s.packet k.pkt, s.cardOf k.pkt with
    | some p, some card =>
      if s.mayStart k.pkt then (s.chunkCtx d p card).map (fun c => { k := k, p := p, card := card, c := c }) else none
    | _, _ => none)

/-- Of the candidates, the first of the lowest effective class (R64, R70). -/
def State.bestChunk (s : State) (l : List ChunkCand) : Option ChunkCand :=
  match l with
  | [] => none
  | x :: r => some (r.foldl (fun m y => if s.classNow y.p.ref.q < s.classNow m.p.ref.q then y else m) x)

/-- `CHUNK_BIND` (R64): the walker of a die binds a chunk, one in a cycle of the die. -/
def State.chunkBind (s : State) (d : Nat) : State :=
  if !s.dieAwake d || s.cycle.walked.contains d then s
  else match s.bestChunk (s.chunkCands d) with
    | some x =>
      let t := (s.setDie d { s.die d with chunks := (s.die d).chunks.erase x.k }).markBound [x.c]
      State.bindChunk { t with cycle := { t.cycle with walked := d :: t.cycle.walked } } x.p x.card x.k x.c
    | none => s

/-- `CHUNK_BIND` (R64). -/
def execChunkBind (s : State) : Host.Outcome State Fault Refusal :=
  match s.opd with
  | .unit d => .next (s.chunkBind d)
  | _ => .next s

/-! ## Migration arrivals (R352) -/

/-- Domain of a firing identifier (R56). -/
def fidPdid (fid : Word) : BitVec 12 := fid.extractLsb' 52 12

/-- The budget of a migrated firing: no vector registers (R351). -/
def migBudget (fid : Word) : Budget := { pdid := fidPdid fid, vregs := 0, vclass := 0 }

/-- The context of a core that takes its first arrival (R64 steps 3 and 4). -/
def State.migCtx (s : State) (core : Nat) (r : MigRec) : Option CtxId :=
  (mostBy 5 ((ctxsIn 4 core).filter (fun c => s.podOpen c && s.fits (migBudget r.fid) none c))).head?

/-- `LAUNCHID` of an arrival's packet; of another package's it is not known here, and is free (log entry 3). -/
def State.launchOf (s : State) (r : PktRef) : BitVec 32 :=
  match s.packet r with
  | some p => p.launchId
  | none => (Config.word s.free 20).setWidth 32

/-- `MIGRATION_BIND` (R352): the first arrival of a core binds, on a die in `STOP` once it has returned to `P3` (R409). -/
def State.migBind (s : State) (core : Nat) : State :=
  match (s.core core).migHw with
  | [] => s
  | (r, _) :: rest =>
    match s.migCtx core r with
    | none => s
    | some c =>
      if !s.dieAwake (core / 96) then s.wakeDie (core / 96) else
      let f : Firing := { graph := false, fid := r.fid, launchId := s.launchOf r.pkt, pkt := r.pkt, gang := false, outq := [],
                          allow := [], outAt := 0, killed := false }
      let t := (s.setCore core { s.core core with migHw := rest, migCount := (s.core core).migCount - 1 }).migRefill core 1
      (t.markBound [c]).bindCtx c (migBudget r.fid) f
        { entry := r.pc, x := (0 : Word) :: r.x18 ++ [0, 0, r.fid], staging := [], restored := none }

/-- `MIGRATION_BIND` (R352). -/
def execMigrationBind (s : State) : Host.Outcome State Fault Refusal :=
  match s.opd with
  | .unit core => .next (s.migBind core)
  | _ => .next s

/-! ## Gangs (R71 to R73) -/

/-- Units that a gang takes at a level within a unit of the level above (R45): an unused level counts as 1. -/
def Card.gangUnits (c : Card) (k : Nat) : Nat := if c.used k then c.extent k else 1

/-- The gang size (R45). -/
def Card.gangSize (c : Card) : Nat :=
  match c.gangLevel with
  | some g => ((List.range 7).filter (fun j => decide (g < j))).foldl (fun n j => n * c.gangUnits j) 1
  | none => 0

/-- The pool room of the cores that chosen contexts lie on, with the budgets of all of them (R53). -/
def State.poolsHold (s : State) (b : Budget) (l : List CtxId) : Bool :=
  (distinct (l.map (·.unit))).all (fun k => s.poolRoom k ((l.filter (fun c => c.unit == k)).length * granulesOf b.vregs b.vclass))

/-- The contexts that a gang takes in unit `u` of level `n`, `depth` levels above the contexts: at each level the
lowest-numbered sub-units that meet the rest of its extents (R72). Contexts reserved for the head gang of queue `own` are among them. -/
def State.gangPick (s : State) (b : Budget) (card : Card) (own : Option (Option Nat)) (depth n u : Nat) : Option (List CtxId) :=
  match depth with
  | 0 => if s.idleFor own (ctxOfNum u) && s.lanesFit (ctxOfNum u).unit (ctxOfNum u).side b.vregs b.vclass then
      some [ctxOfNum u] else none
  | k + 1 =>
    let subs := (subUnits n u).filterMap (fun v => s.gangPick b card own k (n + 1) v)
    let need := card.gangUnits (n + 1)
    if subs.length < need then none
    else
      let l := (subs.take need).flatten
      if s.poolsHold b l then some l else none

/-- The units of level `g` in the region of a gang queue. -/
def regionUnits (q : Option Nat) (g : Nat) : List Nat :=
  match q with
  | some d => (List.range (1536 / unitWidth g)).map (fun k => d * (1536 / unitWidth g) + k)
  | none => List.range (12288 / unitWidth g)

/-- The levels from 1 to `g`. -/
def upTo (g : Nat) : List Nat := (List.range g).map (· + 1)

/-- The head gang's extents at its own level and above allow a unit (R44). -/
def State.gangAllowed (s : State) (r : PktRef) (card : Card) (g u : Nat) : Bool :=
  s.extentsAllow r card (upTo g) (ctxOfNum (u * unitWidth g))

/-- Contexts of a unit that a gang could take: each fits the budget, its core's pool with it (R53). -/
def State.gangFree (s : State) (b : Budget) (own : Option Nat) (g u : Nat) : Nat :=
  ((ctxsIn g u).filter (fun c => s.idleFor (some own) c && s.lanesFit c.unit c.side b.vregs b.vclass &&
    s.poolRoom c.unit (granulesOf b.vregs b.vclass))).length

/-- A unit in which a gang fits, with its count of such contexts and the contexts that the gang takes. -/
structure GangFit where
  unit : Nat
  free : Nat
  picks : List CtxId
  deriving DecidableEq, Repr

/-- The units in which a gang fits now (R72). -/
def State.gangFits (s : State) (q : Option Nat) (r : PktRef) (card : Card) (b : Budget) : List GangFit :=
  match card.gangLevel with
  | none => []
  | some g =>
    if !s.domainRoom b.pdid card.gangSize then []
    else (regionUnits q g).filterMap (fun u =>
      if s.gangAllowed r card g u then
        (s.gangPick b card (some q) (6 - g) g u).map (fun l => { unit := u, free := s.gangFree b q g u, picks := l })
      else none)

/-- The best fit (R72): the fewest such contexts, ties to the lower number. -/
def bestFit (l : List GangFit) : Option GangFit :=
  match l with
  | [] => none
  | x :: r => some (r.foldl (fun m y => if y.free < m.free then y else m) x)

/-- A gang's chunks bound in order of rank to its contexts. -/
def State.bindMembers (s : State) (p : Packet) (card : Card) (l : List (Chunk × CtxId)) : State :=
  match l with
  | [] => s
  | (k, c) :: r => (s.bindChunk p card k c).bindMembers p card r

/-- `DCYC` of a queue's die, or the switch cycle for the package's. -/
def State.gangClock (s : State) (q : Option Nat) : Nat :=
  match q with
  | some d => (s.die d).dcyc.toNat
  | none => s.sdcyc

/-- No die that a gang's contexts lie on is in `STOP` (R409). -/
def State.awake (s : State) (l : List CtxId) : Bool := l.all (fun c => s.dieAwake (dieOf c))

/-- The dies that a list of contexts lie on wake where they are in `STOP`. -/
def State.wakeAll (s : State) (l : List CtxId) : State := (distinct (l.map dieOf)).foldl (fun t d => t.wakeDie d) s

/-- `GANG_PLACE` (R72): the head gang of a queue is placed where it fits, whole, in a cycle in which the pods of its contexts have bound
nothing (R70) and their dies are awake (R409). -/
def State.gangPlace (s : State) (q : Option Nat) : State :=
  match s.headGang q with
  | none => s
  | some (g, card) =>
    match s.packet g.pkt with
    | none => s
    | some p =>
      if !s.mayStart g.pkt then s
      else match bestFit (s.gangFits q g.pkt card (card.budget p.pdid)) with
        | none => s
        | some f =>
          if !f.picks.all s.podOpen then s
          else if s.awake f.picks then
            ((s.setGangq q { gangs := (s.gangq q).gangs.tail, headSince := s.gangClock q + 1, reserving := none }).markBound
              f.picks).bindMembers p card (g.chunks.zip f.picks)
          else s.wakeAll f.picks

/-- `GANG_PLACE` (R72). -/
def execGangPlace (s : State) : Host.Outcome State Fault Refusal :=
  match s.opd with
  | .place q => .next (s.gangPlace q)
  | _ => .next s

/-- A number put into a list in rising order. -/
def putAsc (a : Nat) (l : List Nat) : List Nat :=
  match l with
  | [] => [a]
  | b :: r => if a ≤ b then a :: b :: r else b :: putAsc a r

/-- The `n` least numbers of a list, added up; `none` where it is shorter. -/
def leastSum (n : Nat) (l : List Nat) : Option Nat :=
  if l.length < n then none else some (((l.foldr putAsc []).take n).foldl (· + ·) 0)

/-- The bound contexts of a list that would have to become idle for `n` granules to fit beside what its core holds: the fewest, those that
hold the most first (R73). -/
def freeMost (excess : Nat) (l : List Nat) : Option Nat :=
  match l with
  | [] => if excess = 0 then some 0 else none
  | g :: r => if excess = 0 then some 0 else (freeMost (excess - g) r).map (· + 1)

/-- A number put into a list in falling order. -/
def putDesc (a : Nat) (l : List Nat) : List Nat :=
  match l with
  | [] => [a]
  | b :: r => if b ≤ a then a :: b :: r else b :: putDesc a r

/-- Granules that the bound user contexts of a core hold, those of some contexts in falling order. -/
def State.heldGranules (s : State) (l : List CtxId) : List Nat :=
  (l.map (fun c => granulesOf (s.ctx c).vec.vregs (s.ctx c).vec.vclass)).foldr putDesc []

/-- The fewest bound contexts of a core that would have to become idle for `n` contexts on each of the sides `l` to take a budget (R73): on
each side those beside its idle contexts, those that hold the most first, and besides as many of the core's as the pool still needs. -/
def State.sidesShort (s : State) (b : Budget) (core n : Nat) (l : List (List CtxId)) : Option Nat :=
  let bound (cs : List CtxId) : List CtxId := cs.filter (fun c => (s.ctx c).st != .idle)
  let need (cs : List CtxId) : Nat := n - (cs.length - (bound cs).length)
  if l.any (fun cs => decide (cs.length < n)) then none
  else
    let first := l.flatMap (fun cs => (s.heldGranules (bound cs)).take (need cs))
    let others := (ctxsIn 4 core).filter (fun c => !l.any (fun cs => cs.contains c))
    let rest := (s.heldGranules (bound others) ++ l.flatMap (fun cs => (s.heldGranules (bound cs)).drop (need cs))).foldr putDesc []
    let excess := s.poolUsed core + l.length * n * granulesOf b.vregs b.vclass - 1536 - first.foldl (· + ·) 0
    (freeMost excess rest).map (· + first.length)

/-- The contexts of a side that a gang may take in time: those of enough lanes that no other gang has reserved (R53, R73). -/
def State.sideMay (s : State) (b : Budget) (own : Option Nat) (u : Nat) : List CtxId :=
  (ctxsIn 5 u).filter (fun c => s.lanesFit c.unit c.side b.vregs b.vclass && !s.reserved (some own) c)

/-- The less of two shortfalls. -/
def lessShort (a b : Option Nat) : Option Nat :=
  match a, b with
  | some m, some n => some (min m n)
  | some m, none => some m
  | none, y => y

/-- The shortfall of a side or core for the extents of a gang below it: over the choices of its sides the least. -/
def State.coreShort (s : State) (b : Budget) (card : Card) (own : Option Nat) (n u : Nat) : Option Nat :=
  let m := card.gangUnits 6
  if n = 5 then s.sidesShort b (u / 2) m [s.sideMay b own u]
  else
    let x := s.sideMay b own (2 * u)
    let y := s.sideMay b own (2 * u + 1)
    if card.gangUnits 5 = 1 then lessShort (s.sidesShort b u m [x]) (s.sidesShort b u m [y])
    else if card.gangUnits 5 = 2 then s.sidesShort b u m [x, y]
    else none

/-- The shortfall of unit `u` of level `n` (R73), `depth` levels above the cores: the least number of bound contexts that would have to
become idle, for the idle contexts and the pool room that a gang needs. -/
def State.shortfall (s : State) (b : Budget) (card : Card) (own : Option Nat) (depth n u : Nat) : Option Nat :=
  match depth with
  | 0 => s.coreShort b card own n u
  | k + 1 => leastSum (card.gangUnits (n + 1)) ((subUnits n u).filterMap (fun v => s.shortfall b card own k (n + 1) v))

/-- The unit of least shortfall, ties to the lower number. -/
def leastShort (l : List (Nat × Nat)) : Option Nat :=
  match l with
  | [] => none
  | x :: r => some (r.foldl (fun m y => if y.2 < m.2 then y else m) x).1

/-- Age limit of a queue's head gang (R62, R74). -/
def State.ageLimit (s : State) (q : Option Nat) : Nat :=
  match q with
  | some d => (s.die d).agelim.toNat
  | none => s.engine.glim.toNat

/-- The head gang of a queue has come to its age limit (R73). -/
def State.aged (s : State) (q : Option Nat) : Bool := decide (s.ageLimit q ≤ s.gangClock q - (s.gangq q).headSince)

/-- `GANG_RESERVING` (R73): a head gang that has come of age without fitting fixes its candidate region. -/
def State.gangReserve (s : State) (q : Option Nat) : State :=
  match s.headGang q with
  | none => s
  | some (g, card) =>
    match s.packet g.pkt, card.gangLevel with
    | some p, some lv =>
      let b := card.budget p.pdid
      if (s.gangq q).reserving.isSome || !s.aged q || !(s.gangFits q g.pkt card b).isEmpty then s
      else
        let l := (regionUnits q lv).filterMap (fun u =>
          if s.gangAllowed g.pkt card lv u then (s.shortfall b card q (4 - lv) lv u).map (fun n => (u, n)) else none)
        s.setGangq q { s.gangq q with reserving := leastShort l }
    | _, _ => s

/-- `GANG_RESERVING` (R73). -/
def execGangReserving (s : State) : Host.Outcome State Fault Refusal :=
  match s.opd with
  | .place q => .next (s.gangReserve q)
  | _ => .next s

end Sys2Proof.Machine
end

