-- ==== Sys2Proof/Machine/Queue.lean ====
section
/-! DEFINITION. Hardware queues and launch packets: packet checks, taking, dealing, actors, port enqueues and completion
(spec/01_work_and_launch.md R30 to R59, spec/02_placement.md R60 to R71, spec/13_synchronisation.md R363). -/

namespace Sys2Proof.Machine

/-! ## Reads by the queue engine (R40) -/

/-- `n` bytes read page by page under a domain with the rights needed; `none` where a translation or a right is missing. -/
def State.engRead (s : State) (q : Req) (need : BitVec 5) (va n fuel : Nat) : Option (List Byte) :=
  match fuel with
  | 0 => some []
  | k + 1 =>
    let m := min n (65536 - va % 65536)
    if m = 0 then some []
    else match s.locate q need (va % 2 ^ 56) with
      | .ok (_, l) => (s.engRead q need (va + m) (n - m) k).map (fun r => s.st.get l m ++ r)
      | .error _ => none

/-- `n` bytes of a structure of a queue's domain, with `R`. -/
def State.structRead (s : State) (pdid : BitVec 12) (va n : Nat) : Option (List Byte) :=
  s.engRead (engReq pdid 0) rR va n (n / 65536 + 2)

/-- Field of `n` bytes at an offset of a structure. -/
def fieldAt (l : List Byte) (off n : Nat) : Nat := ofBytes ((l.drop off).take n)

/-! ## Packets (R38, R40) -/

/-- A launch packet's fields (R38). -/
structure PacketForm where
  type : Nat
  sigop : Nat
  irq : Bool
  barrier : Bool
  rsv : Bool
  work : Nat
  args : Word
  sigaddr : Nat
  sigval : Word
  launchId : BitVec 32
  stataddr : Nat
  deriving DecidableEq, Repr

/-- The fields of a packet's 64 bytes. -/
def packetForm (l : List Byte) : PacketForm :=
  let fl := fieldAt l 1 1
  { type := fieldAt l 0 1, sigop := bitsOf fl 0 2, irq := bitOf fl 2, barrier := bitOf fl 3,
    rsv := bitsOf fl 4 4 != 0 || fieldAt l 2 6 != 0 || fieldAt l 0x2C 4 != 0 || fieldAt l 0x38 8 != 0,
    work := fieldAt l 8 8, args := BitVec.ofNat 64 (fieldAt l 0x10 8), sigaddr := fieldAt l 0x18 8,
    sigval := BitVec.ofNat 64 (fieldAt l 0x20 8), launchId := BitVec.ofNat 32 (fieldAt l 0x28 4), stataddr := fieldAt l 0x30 8 }

/-- `BAD_PACKET` (R40). -/
def PacketForm.bad (p : PacketForm) (irqvec : BitVec 4) : Bool :=
  p.rsv || p.sigop == 3 || (p.sigaddr != 0 && p.sigop == 0) || (p.irq && irqvec == 0) || p.work % 64 != 0 ||
    p.sigaddr % 8 != 0 || p.stataddr % 16 != 0 || (p.type == 3 && p.work != 0)

/-- The rights that a completion signal needs (R40). -/
def PacketForm.sigNeed (p : PacketForm) : BitVec 5 := if p.sigop = 2 then 10 else rW

/-- A domain holds rights over an address (R26). -/
def State.grants (s : State) (pdid : BitVec 12) (need : BitVec 5) (va : Nat) : Bool :=
  s.tableRights pdid (segOf (va % 2 ^ 56)) &&& need == need

/-- `SIG_DENIED` (R40). A signal address of 0 is one like any other; a status address of 0 names none (R58). -/
def State.sigDenied (s : State) (pdid : BitVec 12) (p : PacketForm) : Bool :=
  (p.sigop != 0 && !s.grants pdid p.sigNeed p.sigaddr) || (p.stataddr != 0 && !s.grants pdid rW p.stataddr)

/-! ## Nest job cards (R41, R42, R45) -/

/-- The card in 192 bytes (R41). -/
def cardForm (l : List Byte) : Card :=
  let n := fieldAt l 8 1
  { entry := BitVec.ofNat 56 (fieldAt l 0 8), ndim := n, order := fieldAt l 9 1, vregs := fieldAt l 0xB 1, vclass := fieldAt l 0xC 1,
    count := fieldAt l 0x10 8, minchunk := fieldAt l 0x18 4, trips := (List.range n).map (fun k => fieldAt l (0x20 + 4 * k) 4),
    levels := (List.range 8).map (fun k => (bitOf (fieldAt l (0x40 + k) 1) 0, bitOf (fieldAt l (0x40 + k) 1) 1)),
    extents := (List.range 8).map (fun k => fieldAt l (0x48 + 2 * k) 2),
    args := (List.range (fieldAt l 0xA 1)).map (fun k => BitVec.ofNat 64 (fieldAt l (0x60 + 8 * k) 8)) }

/-- The gang declaration meets R45. -/
def Card.gangOk (c : Card) (ctxmax : Nat) : Bool :=
  let gs := (List.range 8).filter (fun k => (c.levels.getD k (false, false)).2)
  match gs with
  | [] => true
  | [g] =>
    decide (1 ≤ g) && decide (g ≤ 5) && c.used g &&
      ((List.range 7).filter (fun j => decide (g < j))).all (fun j => !c.used j || c.extent j != 0) &&
      decide (c.gangSize ≤ unitWidth g) && (ctxmax == 0 || decide (c.gangSize ≤ ctxmax))
  | _ => false

/-- A reserved field of a card's 192 bytes is nonzero (R41; the chapter's opening has such a card fail its checks). -/
def cardRsv (l : List Byte) : Bool :=
  let n := fieldAt l 8 1
  fieldAt l 0xD 3 != 0 || (n != 0 && fieldAt l 0x10 8 != 0) || fieldAt l 0x1C 4 != 0 || fieldAt l (0x20 + 4 * n) (32 - 4 * n) != 0 ||
    (List.range 8).any (fun k => bitsOf (fieldAt l (0x40 + k) 1) 2 6 != 0) || fieldAt l 0x58 8 != 0 ||
    fieldAt l (0x60 + 8 * fieldAt l 0xA 1) (64 - 8 * fieldAt l 0xA 1) != 0 || fieldAt l 0xA0 32 != 0

/-- The card is valid (R42), with `NDIM` and `NARGS` in their ranges. -/
def Card.ok (c : Card) (ctxmax : Nat) : Bool :=
  decide (c.ndim ≤ 8) && decide (c.args.length ≤ 8) && decide (1 ≤ c.total) && decide (c.total ≤ 2 ^ 48) && decide (c.order ≤ 2) &&
    (c.order != 2 || decide (2 ≤ c.ndim)) && decide (1 ≤ c.minchunk) && decide (c.minchunk ≤ 2 ^ 24) && decide (c.vregs ≤ 32) &&
    decide (c.vclass ≤ 3) && c.entry.toNat % 2 == 0 && c.gangOk ctxmax

/-! ## Graph records (R47 to R51) -/

/-- A task queue's entry (R48), without records. -/
def tqForm (l : List Byte) : TaskQueue :=
  { sorted := fieldAt l 0 1 == 1, cap := 2 ^ fieldAt l 1 1, esize := 8 * 2 ^ fieldAt l 2 1, home := fieldAt l 3 1, entries := [],
    reserved := 0 }

/-- The entry's fields meet their ranges, its reserved field 0 (R48). -/
def tqOk (l : List Byte) : Bool :=
  decide (fieldAt l 0 1 ≤ 1) && decide (4 ≤ fieldAt l 1 1) && decide (fieldAt l 1 1 ≤ 16) && decide (fieldAt l 2 1 ≤ 3) &&
    decide (fieldAt l 3 1 ≤ 7) && fieldAt l 4 4 == 0

/-- Port `k` of a list of ports at an offset: task queue and count (R49). -/
def portAt (l : List Byte) (off k : Nat) : Nat × Nat := (fieldAt l (off + 4 * k) 2, fieldAt l (off + 4 * k + 2) 2)

/-- An actor's entry (R49). -/
def actorForm (l : List Byte) : Actor :=
  { entry := BitVec.ofNat 56 (fieldAt l 0 8), vregs := fieldAt l 0xA 1, vclass := fieldAt l 0xB 1,
    ins := (List.range (fieldAt l 8 1)).map (portAt l 0x10), outs := (List.range (fieldAt l 9 1)).map (portAt l 0x20) }

/-- A reserved field of an actor's 64 bytes is nonzero: port entries at or beyond `NIN` and `NOUT` among them (R49). -/
def actorRsv (l : List Byte) : Bool :=
  fieldAt l 0xC 4 != 0 || fieldAt l (0x10 + 4 * fieldAt l 8 1) (16 - 4 * fieldAt l 8 1) != 0 ||
    fieldAt l (0x20 + 4 * fieldAt l 9 1) (16 - 4 * fieldAt l 9 1) != 0 || fieldAt l 0x30 16 != 0

/-- An actor is valid in a graph (R49, R50). -/
def Actor.ok (a : Actor) (tqs : List TaskQueue) : Bool :=
  let q (k : Nat) : TaskQueue := tqs.getD k (tqForm [])
  let port (lo hi : Nat) (p : Nat × Nat) : Bool :=
    decide (p.1 < tqs.length) && decide (lo ≤ p.2) && decide (p.2 ≤ hi) && decide (p.2 ≤ (q p.1).cap)
  decide (1 ≤ a.ins.length) && decide (a.ins.length ≤ 4) && decide (a.outs.length ≤ 4) && decide (a.vregs ≤ 32) &&
    decide (a.vclass ≤ 3) && a.entry.toNat % 2 == 0 && a.ins.all (port 1 16) && a.outs.all (port 0 256) &&
    decide (a.ins.foldl (fun n p => n + p.2 * (q p.1).esize) 0 ≤ 2048)

/-- A seed entry: its queue, reserved bytes, key and record (R51). -/
structure Seed where
  q : Nat
  rsv : Nat
  key : BitVec 32
  rec_ : List Byte
  deriving DecidableEq, Repr

/-- A seed entry of 72 bytes. -/
def seedForm (l : List Byte) : Seed :=
  { q := fieldAt l 0 2, rsv := fieldAt l 2 2, key := BitVec.ofNat 32 (fieldAt l 4 4), rec_ := (l.drop 8).take 64 }

/-- The entries of `n` bytes of a table. -/
def recordsOf (l : List Byte) (n count : Nat) : List (List Byte) :=
  match count with
  | 0 => []
  | k + 1 => l.take n :: recordsOf (l.drop n) n k

/-- Pinned storage of task queues on a die (R48). -/
def pinnedOn (d : Nat) (tqs : List TaskQueue) : Nat :=
  (tqs.filter (fun q => q.home == d)).foldl (fun n q => n + q.cap * (q.esize + 4)) 0

/-- Pinned storage on one die: 4 MiB (R48). -/
def pinMax : Nat := 4 * 2 ^ 20

/-- The seeds meet R50 and R51. -/
def seedsOk (seeds : List Seed) (tqs : List TaskQueue) : Bool :=
  seeds.all (fun x => decide (x.q < tqs.length) && x.rsv == 0) &&
    (List.range tqs.length).all (fun k => decide ((seeds.filter (fun x => x.q == k)).length ≤ (tqs.getD k (tqForm [])).cap))

/-- A graph's header fields meet R47 and R50 (R40, step 2), its reserved fields 0. -/
def headerOk (l : List Byte) : Bool :=
  let na := fieldAt l 0 2
  let nq := fieldAt l 2 2
  let place := fieldAt l 4 1
  decide (1 ≤ na) && decide (na ≤ 256) && decide (1 ≤ nq) && decide (nq ≤ 1024) && decide (1 ≤ place) && decide (place ≤ 3) &&
    decide (fieldAt l 5 1 ≤ 8) && fieldAt l 8 8 % 64 == 0 && fieldAt l 0x10 8 % 8 == 0 && fieldAt l 0x18 8 % 8 == 0 &&
    decide (1 ≤ fieldAt l 0x20 4) && (place != 2 || fieldAt l 0x28 1 != 0) && (place != 3 || fieldAt l 0x30 16 != 0) &&
    decide (fieldAt l 0x30 16 < 2 ^ 96) && fieldAt l 7 1 == 0 && fieldAt l 0x24 4 == 0 && fieldAt l 0x29 7 == 0

/-- What the contents of a graph's tables must meet (R40, step 4). -/
def tablesOk (tq acts : List (List Byte)) (actors : List Actor) (seeds : List Seed) : Bool :=
  let tqs := tq.map tqForm
  let ins := actors.flatMap (fun a => a.ins.map (·.1))
  tq.all tqOk && acts.all (fun l => !actorRsv l) && actors.all (fun a => a.ok tqs) &&
    decide ((distinct ins).length = ins.length) && seedsOk seeds tqs &&
    (List.range 8).all (fun d => decide (pinnedOn d tqs ≤ pinMax))

/-- A record enqueued in a task queue (R66). -/
def TaskQueue.put (q : TaskQueue) (key : BitVec 32) (bs : List Byte) (cycle : Word) : TaskQueue :=
  { q with entries := q.entries ++ [{ rec_ := bs.take q.esize, key := key, cycle := cycle }] }

/-- The list with its element `k` changed. -/
def updAt {α : Type} (l : List α) (k : Nat) (f : α → α) : List α :=
  match l, k with
  | [], _ => []
  | a :: r, 0 => f a :: r
  | a :: r, n + 1 => a :: updAt r n f

/-- The seeds enqueued in table order (R51). -/
def State.seedQueues (s : State) (tqs : List TaskQueue) (seeds : List Seed) : List TaskQueue :=
  seeds.foldl (fun l x => updAt l x.q (fun q => q.put x.key x.rec_ (s.die q.home).dcyc)) tqs

/-- The graph that a record describes, its seeds enqueued; or the cause of R40. -/
def State.readGraph (s : State) (pdid : BitVec 12) (va : Nat) : Except (BitVec 8) Graph :=
  match s.structRead pdid va 128 with
  | none => .error 5
  | some h =>
    if !headerOk h then .error 7
    else
      let na := fieldAt h 0 2
      let nq := fieldAt h 2 2
      let ns := fieldAt h 0x20 4
      match s.structRead pdid (fieldAt h 8 8) (64 * na), s.structRead pdid (fieldAt h 0x10 8) (8 * nq),
            s.structRead pdid (fieldAt h 0x18 8) (72 * ns) with
      | some a, some q, some sd =>
        let tq := recordsOf q 8 nq
        let acts := recordsOf a 64 na
        let actors := acts.map actorForm
        let seeds := (recordsOf sd 72 ns).map seedForm
        if !tablesOk tq acts actors seeds then .error 7
        else .ok { place := fieldAt h 4 1, dieMask := BitVec.ofNat 8 (fieldAt h 0x28 1),
                   ready := [], podMask := BitVec.ofNat 96 (fieldAt h 0x30 16), used := BitVec.ofNat 8 (fieldAt h 6 1),
                   args := (List.range (fieldAt h 5 1)).map (fun k => BitVec.ofNat 64 (fieldAt h (0x40 + 8 * k) 8)),
                   actors := actors, tqs := s.seedQueues (tq.map tqForm) seeds }
      | _, _, _ => .error 5

/-- The card that a packet names, or the cause of R40. -/
def State.readCard (s : State) (pdid : BitVec 12) (va : Nat) : Except (BitVec 8) Card :=
  match s.structRead pdid va 192 with
  | none => .error 5
  | some l =>
    let c := cardForm l
    if c.ok (s.domain pdid.toNat).ctxmax && !cardRsv l then .ok c else .error 6

/-- The work that a packet names (R40). -/
def State.readWork (s : State) (pdid : BitVec 12) (p : PacketForm) : Except (BitVec 8) Work :=
  match p.type with
  | 1 => (s.readCard pdid p.work).map (fun c => Work.nest c 0)
  | 2 => (s.readGraph pdid p.work).map Work.graph
  | _ => .ok .mark

/-- The packet at the head of a queue, checked in the order of R40: its fields and work, or the cause of the first check that
fails. -/
def State.readPacket (s : State) (q : Nat) : Except (BitVec 8) (PacketForm × Work) :=
  let Q := s.queue q
  let va := Q.ring.toNat + 64 * (Q.head.toNat % 2 ^ Q.log2size)
  match s.structRead Q.pdid va 64 with
  | none => .error 1
  | some l =>
    let p := packetForm l
    if p.type = 0 || 3 < p.type then .error 2
    else if p.bad Q.irqvec then .error 3
    else if s.sigDenied Q.pdid p then .error 4
    else (s.readWork Q.pdid p).map (fun w => (p, w))

/-! ## Taking packets (R37, R60, R61) -/

/-- Open packets of a queue. -/
def State.packetsOf (s : State) (q : Nat) : List Packet := s.packets.filter (fun p => p.ref.q == q)

/-- The queue's domain lets the engine take its packets: it is `LIVE` (R25). -/
def State.domainTakes (s : State) (q : Nat) : Bool := (s.domain (s.queue q).pdid.toNat).state == 1

/-- The pinned storage of a graph fits beside that of the live graphs (R48). -/
def State.pinFits (s : State) (w : Work) : Bool :=
  match w with
  | .graph g =>
    let held := s.packets.flatMap (fun p => match p.work with
      | .graph h => h.tqs
      | _ => [])
    (List.range 8).all (fun d => decide (pinnedOn d held + pinnedOn d g.tqs ≤ pinMax))
  | _ => true

/-- The fields of the packet at the head of a queue, where it can be read. -/
def State.headForm (s : State) (q : Nat) : Option PacketForm :=
  let Q := s.queue q
  (s.structRead Q.pdid (Q.ring.toNat + 64 * (Q.head.toNat % 2 ^ Q.log2size)) 64).map packetForm

/-- The packet at the head of a queue is held back by a barrier (R61). DEDUCED: it is not checked before it may be taken, as the
checks of R40 are those of its taking (log entry 109). -/
def State.barred (s : State) (q : Nat) : Bool :=
  match s.headForm q with
  | some p => (p.barrier || p.type == 3) && s.inflight q
  | none => false

/-- The next packet of a queue may be looked at. -/
def State.hasNext (s : State) (q : Nat) : Bool :=
  (s.queue q).state == .active && (s.queue q).head != (s.queue q).tail && decide (s.packets.length < 256) && s.domainTakes q &&
    !s.barred q

/-- A checked packet need not wait: for a barrier, or for pinned storage (R48, R61). -/
def State.mayTake (s : State) (q : Nat) (p : PacketForm) (w : Work) : Bool :=
  (!(p.barrier || p.type == 3) || !s.inflight q) && s.pinFits w

/-- A queue served (R60): its class and age begin anew, and it is the last served of the class in which it was chosen. -/
def State.served (s : State) (q : Nat) : State :=
  let t := { s with engine := { s.engine with lastServed := s.engine.lastServed.set (s.classNow q) q } }
  t.setQueue q { t.queue q with eff := (t.queue q).prio.toNat, since := t.sdcyc }

/-- A queue in `ERROR` after a packet error (R32). -/
def State.packetError (s : State) (q : Nat) (cause : BitVec 8) : State :=
  (s.setQueue q { s.queue q with prior := (s.queue q).state, state := .error, cause := cause }).raiseQueueVector q

/-- The open packet that a packet becomes. -/
def State.openPacket (s : State) (q : Nat) (p : PacketForm) (w : Work) : Packet :=
  { ref := { pkg := s.pkg, q := q, num := (s.queue q).head }, pdid := (s.queue q).pdid, args := p.args, sigop := p.sigop, irq := p.irq,
    sigaddr := BitVec.ofNat 56 p.sigaddr, sigval := p.sigval, launchId := p.launchId, stataddr := BitVec.ofNat 56 p.stataddr,
    work := w, dealt := (match w with
      | .nest _ _ => false
      | _ => true), firings := 0, retired := 0, killed := 0, killPkt := false }

/-- `PACKET_TAKE` (R61, R37, R40). -/
def State.packetTake (s : State) (q : Nat) : State :=
  if !s.hasNext q then s
  else match s.readPacket q with
    | .error cause => s.packetError q cause
    | .ok (p, w) =>
      if !s.mayTake q p w then s
      else
        let o := s.openPacket q p w
        let t := { s with packets := s.packets ++ [o] }
        ((t.setQueue q { t.queue q with head := (t.queue q).head + 1 }).served q).push .packetComplete (.packet q o.ref.num)

/-- `PACKET_TAKE` (R61). -/
def execPacketTake (s : State) : Host.Outcome State Fault Refusal :=
  match s.opd with
  | .unit q => .next (s.packetTake q)
  | _ => .next s

/-- A tail write that reaches the engine from outside the package (R34, R35): that of a context of another package under a domain that is
not the queue's does nothing; the host's is not checked. -/
def State.tailFrom (s : State) (q : Nat) (t : BitVec 32) (who : Option (BitVec 12)) : State :=
  match who with
  | some p => if p != 0 && p != (s.queue q).pdid then s else s.tailWrite q t
  | none => s.tailWrite q t

/-- An access of the host through BAR 2 (R33): what is no word of a doorbell page is discarded, and a read of it returns 0. -/
def State.bar2 (s : State) (off : Nat) (data : Option Word) : State :=
  let legal := decide (off < 2 ^ 24) && doorbellWord (off % 4096)
  match data with
  | some v => if legal && off % 4096 == 0 then s.tailWrite (off / 4096) (v.setWidth 32) else s
  | none => { s with hostOut := s.hostOut ++ [.read (if legal then s.doorbellRead (off / 4096) (off % 4096) else 0)] }

/-- `TAIL_WRITE` (R34): a write of a queue's tail reaches the engine, from another package or through BAR 2, through which the host also
reads. -/
def execTailWrite (s : State) : Host.Outcome State Fault Refusal :=
  match s.opd with
  | .tail q t who => .next (s.tailFrom q t who)
  | .bar off data => .next (s.bar2 off data)
  | _ => .next s

/-- The queue is ready (R60): it is `ACTIVE` and has packets to take, or an open packet of it has work still to deal. -/
def State.queueReady (s : State) (q : Nat) : Bool :=
  ((s.queue q).state == .active && (s.queue q).head != (s.queue q).tail) || (s.packetsOf q).any (fun p => !p.dealt)

/-- `QUEUE_AGEING` (R60): a ready queue that has waited a step falls by a class. -/
def State.queueAge (s : State) (q : Nat) : State :=
  let Q := s.queue q
  let step := s.engine.ageStep.toNat
  if s.queueReady q && step != 0 && decide (step ≤ s.sdcyc - Q.since) then
    s.setQueue q { Q with eff := Q.eff - 1, since := Q.since + step }
  else s

/-- `QUEUE_AGEING` (R60). -/
def execQueueAgeing (s : State) : Host.Outcome State Fault Refusal :=
  match s.opd with
  | .unit q => .next (s.queueAge q)
  | _ => .next s

/-! ## Dealing (R63, R71) -/

/-- Free pods of a die for a packet (R63). -/
def State.freePods (s : State) (p : Packet) (card : Card) (d : Nat) : Nat :=
  ((List.range 12).filter (fun k => (ctxsIn 3 (12 * d + k)).any (fun c =>
    s.fits (card.budget p.pdid) none c && s.extentsAllow p.ref card [1, 2, 3, 4, 5, 6] c))).length

/-- `ChunkSize` (R63). -/
def chunkSize (remaining f minchunk : Nat) : Nat := min remaining (max minchunk ((remaining + 2 * f - 1) / (2 * f)))

/-- The entry of greatest value, ties to the first. -/
def mostOf (l : List (Nat × Nat)) : Option Nat :=
  match l with
  | [] => none
  | x :: r => some (r.foldl (fun m y => if m.2 < y.2 then y else m) x).1

/-- The die that a chunk goes to, with the free pods of the package (R63). -/
def State.chunkDie (s : State) (p : Packet) (card : Card) : Option (Nat × Nat) :=
  let pods := (List.range 8).map (fun d => (d, s.freePods p card d))
  let f := pods.foldl (fun n x => n + x.2) 0
  (mostOf (pods.filter (fun x => decide (1 ≤ x.2) && decide ((s.die x.1).chunks.length < 16)))).map (fun d => (d, f))

/-- A chunk dealt to a die (R63, R409). -/
def State.dealTo (s : State) (d : Nat) (k : Chunk) : State :=
  (s.setDie d { s.die d with chunks := (s.die d).chunks ++ [k] }).wakeDie d

/-- The next chunk of a nest packet dealt, where a die takes it; `none` where it cannot be dealt now. -/
def State.dealChunk (s : State) (p : Packet) (card : Card) (next : Nat) : Option State :=
  match s.chunkDie p card with
  | none => none
  | some (d, f) =>
    let n := chunkSize (card.total - next) f card.minchunk
    let k : Chunk := { pkt := p.ref, first := next, len := n, ordinal := p.firings, rank := 0, gangSize := 0,
                       since := (s.die d).dcyc.toNat }
    some ((s.dealTo d k).setPacket { p with work := .nest card (next + n), firings := p.firings + 1,
                                            dealt := decide (card.total ≤ next + n) })

/-- The chunks of the gang that begins at iteration `next` (R71). -/
def gangChunks (p : Packet) (card : Card) (next since : Nat) : List Chunk :=
  (List.range card.gangSize).map (fun r =>
    let first := next + r * card.minchunk
    { pkt := p.ref, first := first, len := min card.minchunk (card.total - first), ordinal := p.firings + r, rank := r,
      gangSize := card.gangSize, since := since })

/-- Units of level `g` of a die that could hold a gang now (R71): a gang at the tail of the die's queue, which no reservation is for. -/
def State.gangRoom (s : State) (p : Packet) (card : Card) (g d : Nat) : Nat :=
  if !s.domainRoom p.pdid card.gangSize then 0
  else ((regionUnits (some d) g).filter (fun u => s.gangAllowed p.ref card g u &&
    (s.gangPick (card.budget p.pdid) card none (6 - g) g u).isSome)).length

/-- Idle, fitting contexts of a die (R71), those reserved for head gangs among them. -/
def State.dieFree (s : State) (b : Budget) (d : Nat) : Nat :=
  ((ctxsIn 2 d).filter (fun c => s.idleAt c && s.fitsAt b c)).length

/-- The gang queue that a packet's next gang goes to (R71). -/
def State.gangDie (s : State) (p : Packet) (card : Card) (g : Nat) : Option (Option Nat) :=
  if g ≤ 2 then (if (s.gangq none).gangs.length < 8 then some none else none)
  else
    let room := (List.range 8).filter (fun d => decide ((s.gangq (some d)).gangs.length < 8) && !(s.die d).stopPend)
    let units := room.map (fun d => (d, s.gangRoom p card g d))
    let pick := if units.any (fun x => x.2 != 0) then units else room.map (fun d => (d, s.dieFree (card.budget p.pdid) d))
    (mostOf pick).map some

/-- A gang put into a gang queue: it is head at once where the queue was empty (R73, R409). -/
def State.queueGang (s : State) (q : Option Nat) (g : Gang) : State :=
  let gq := s.gangq q
  let t := s.setGangq q { gq with gangs := gq.gangs ++ [g], headSince := if gq.gangs.isEmpty then s.gangClock q else gq.headSince }
  match q with
  | some d => t.wakeDie d
  | none => t

/-- The next gang of a packet dealt; `none` where it cannot be dealt now. -/
def State.dealGang (s : State) (p : Packet) (card : Card) (g next : Nat) : Option State :=
  match s.gangDie p card g with
  | none => none
  | some q =>
    let n := card.gangSize * card.minchunk
    some ((s.queueGang q { pkt := p.ref, chunks := gangChunks p card next (s.gangClock q) }).setPacket
      { p with work := .nest card (next + n), firings := p.firings + card.gangSize, dealt := decide (card.total ≤ next + n) })

/-- A packet's next chunk or gang dealt: a gang where `gang`. -/
def State.dealOf (s : State) (gang : Bool) (p : Packet) : Option State :=
  match p.work with
  | .nest card next =>
    if p.dealt then none
    else match card.gangLevel with
      | some g => if gang then s.dealGang p card g next else none
      | none => if gang then none else s.dealChunk p card next
  | _ => none

/-- The oldest work of a queue that can be dealt now, dealt. -/
def State.deal (s : State) (gang : Bool) (q : Nat) : Option State :=
  if s.mayStart { pkg := s.pkg, q := q, num := 0 } then (s.packetsOf q).findSome? (s.dealOf gang) else none

/-- `CHUNK_DEAL` (R63). -/
def execChunkDeal (s : State) : Host.Outcome State Fault Refusal :=
  match s.opd with
  | .unit q =>
    .next (match s.deal false q with
      | some t => t.served q
      | none => s)
  | _ => .next s

/-- `GANG_DEAL` (R71). -/
def execGangDeal (s : State) : Host.Outcome State Fault Refusal :=
  match s.opd with
  | .unit q =>
    .next (match s.deal true q with
      | some t => t.served q
      | none => s)
  | _ => .next s

/-! ## Firing actors (R66 to R69) -/

/-- The task queue of a graph. -/
def Graph.tq (g : Graph) (k : Nat) : TaskQueue := g.tqs.getD k (tqForm [])

/-- Room of a task queue (R66). -/
def TaskQueue.room (q : TaskQueue) : Nat := q.cap - q.entries.length - q.reserved

/-- Output claims in order (R66): each sees the reservations of those before it. -/
def claimOuts (tqs : List TaskQueue) (outs : List (Nat × Nat)) : Option (List TaskQueue) :=
  match outs with
  | [] => some tqs
  | (k, n) :: r =>
    if n ≤ (tqs.getD k (tqForm [])).room then claimOuts (updAt tqs k (fun q => { q with reserved := q.reserved + n })) r else none

/-- An input port's queue holds enough entries; entries of this cycle of its die count where `now` (R52, R66). -/
def State.inReady (s : State) (g : Graph) (now : Bool) (p : Nat × Nat) : Bool :=
  let q := g.tq p.1
  decide (p.2 ≤ (q.entries.filter (fun e => now || decide (e.cycle.toNat < (s.die q.home).dcyc.toNat))).length)

/-- The firing rule of an actor (R66). -/
def State.actorReady (s : State) (g : Graph) (now : Bool) (a : Actor) : Bool :=
  a.ins.all (s.inReady g now) && (claimOuts g.tqs a.outs).isSome

/-- The entry that a queue releases next (R69). -/
def TaskQueue.next (q : TaskQueue) : Option TqEntry :=
  if q.sorted then
    match q.entries.take 256 with
    | [] => none
    | x :: r => some (r.foldl (fun m y => if y.key.toNat < m.key.toNat then y else m) x)
  else q.entries.head?

/-- `n` successive releases (R69). -/
def TaskQueue.release (q : TaskQueue) (n : Nat) : List TqEntry × TaskQueue :=
  match n with
  | 0 => ([], q)
  | k + 1 =>
    match q.next with
    | none => ([], q)
    | some e =>
      let o := TaskQueue.release { q with entries := q.entries.erase e } k
      (e :: o.1, o.2)

/-- The records that an actor consumes, port by port, and the task queues without them. -/
def consume (tqs : List TaskQueue) (ins : List (Nat × Nat)) : List TqEntry × List TaskQueue :=
  match ins with
  | [] => ([], tqs)
  | (k, n) :: r =>
    let o := (tqs.getD k (tqForm [])).release n
    let rest := consume (updAt tqs k (fun _ => o.2)) r
    (o.1 ++ rest.1, rest.2)

/-- A context lies in a graph's placement set (R47). -/
def Graph.placed (g : Graph) (c : CtxId) : Bool :=
  match g.place with
  | 2 => g.dieMask.getLsbD (dieOf c)
  | 3 => g.podMask.getLsbD (podOf c)
  | _ => true

/-- The input block and output port table of a graph firing (R57): the staged bytes, and the offset of the table. -/
def graphStaging (es : List TqEntry) (outs : List (Nat × Nat)) : List Byte × Nat :=
  let blk := es.flatMap (·.rec_) ++ es.flatMap (fun e => toBytes 4 e.key.toNat)
  let at_ := (blk.length + 15) / 16 * 16
  (blk ++ List.replicate (at_ - blk.length) 0 ++
    outs.flatMap (fun p => toBytes 2 p.1 ++ toBytes 2 p.2 ++ List.replicate 12 0), at_)

/-- The fitting contexts of a graph firing among those of a list, in pods that have bound nothing in the cycle (R70; DESIGN CHOICE, log entry
66). -/
def State.actorFits (s : State) (p : Packet) (g : Graph) (a : Actor) (l : List CtxId) : List CtxId :=
  l.filter (fun c => g.placed c && s.podOpen c &&
    s.fits { pdid := p.pdid, vregs := a.vregs, vclass := a.vclass } none c)

/-- The tile of a firing (R68): bits [31:12] of the first key consumed from a sorted port 0. -/
def tileOfKey (key : BitVec 32) : Nat := key.toNat / 4096

/-- The core that the affinity table of a die prefers for a packet's tile (R68). -/
def State.affine (s : State) (d : Nat) (r : PktRef) (tile : Nat) : Option Nat :=
  let e := (s.die d).affinity.get { pkt := r, tile := 2 ^ 20, core := 0 } (tile % 1024)
  if e.pkt == r && e.tile == tile then some e.core else none

/-- The context of an actor's firing (R68). -/
def State.actorCtx (s : State) (p : Packet) (g : Graph) (a : Actor) (home : Nat) (tile : Option Nat) : Option CtxId :=
  let near := match tile with
    | some t =>
      (match s.affine home p.ref t with
       | some k => chooseCtx (s.actorFits p g a (ctxsIn 4 k))
       | none => none)
    | none => none
  match near with
  | some c => some c
  | none =>
    match chooseCtx (s.actorFits p g a (ctxsIn 2 home)) with
    | some c => some c
    | none => chooseCtx (s.actorFits p g a ((List.range 8).flatMap (ctxsIn 2)))

/-- `x0` to `x31` of a graph firing (R55). -/
def State.graphRegs (s : State) (c : CtxId) (p : Packet) (g : Graph) (a : Actor) (idx outAt : Nat) (fid : Word) : List Word :=
  (0 : Word) :: s.levelRegs (fun k => g.used.getLsbD k) c ++
    [p.args, BitVec.ofNat 64 (a.ins.foldl (fun n q => n + q.2) 0), fid, s.stagingVa, s.stagingVa + BitVec.ofNat 64 outAt,
     BitVec.ofNat 64 idx, 0] ++ (List.range 8).map (fun j => g.args.getD j 0)

/-- The affinity entry of a firing's tile overwritten (R68). -/
def State.setAffinity (s : State) (d : Nat) (r : PktRef) (tile : Option Nat) (core : Nat) : State :=
  match tile with
  | some t => s.setDie d { s.die d with affinity := (s.die d).affinity.set (t % 1024) { pkt := r, tile := t, core := core } }
  | none => s

/-- An actor fired into a context (R66): its records are consumed and staged, and its output room reserved. -/
def State.fireInto (s : State) (p : Packet) (g : Graph) (a : Actor) (idx : Nat) (c : CtxId) (tile : Option Nat) : State :=
  let o := consume g.tqs a.ins
  let tqs := (claimOuts o.2 a.outs).getD o.2
  let stg := graphStaging o.1 a.outs
  let fid := firingId p.pdid p.ref.q p.ref.num p.firings
  let f : Firing := { graph := true, fid := fid, launchId := p.launchId, pkt := p.ref, gang := false, outq := a.outs.map (·.1),
                      allow := a.outs.map (·.2), outAt := stg.2, killed := false }
  let t := s.setPacket { p with work := .graph { g with tqs := tqs }, firings := p.firings + 1 }
  (t.bindCtx c { pdid := p.pdid, vregs := a.vregs, vclass := a.vclass } f
    { entry := a.entry, x := s.graphRegs c p g a idx stg.2 fid, staging := stg.1, restored := none }).setAffinity
      (g.tq (a.ins.headD (0, 0)).1).home p.ref tile c.unit

/-- `ACTOR_FIRE` (R66 to R68), into a context of a die in `STOP` once that has returned to `P3` (R409). -/
def State.actorFire (s : State) (r : PktRef) (idx : Nat) : State :=
  match s.packet r with
  | none => s
  | some p =>
    match p.work with
    | .graph g =>
      (match g.actors[idx]? with
       | none => s
       | some a =>
         let q0 := g.tq (a.ins.headD (0, 0)).1
         let tile := if q0.sorted then q0.next.map (fun e => tileOfKey e.key) else none
         if p.killPkt || !s.mayStart r || !s.actorReady g false a then s
         else if !s.dieAwake q0.home then s.wakeDie q0.home
         else match s.actorCtx p g a q0.home tile with
           | some c => if s.dieAwake (dieOf c) then (s.markBound [c]).fireInto p g a idx c tile else s.wakeDie (dieOf c)
           | none => s)
    | _ => s

/-- `ACTOR_FIRE` (R66). -/
def execActorFire (s : State) : Host.Outcome State Fault Refusal :=
  match s.opd with
  | .actor q num idx => .next (s.actorFire { pkg := s.pkg, q := q, num := num } idx)
  | _ => .next s

/-! ## `PENQ` (R363) -/

/-- The graph of a firing's packet. -/
def State.graphOf (s : State) (f : Firing) : Option (Packet × Graph) :=
  match s.packet f.pkt with
  | some p =>
    (match p.work with
     | .graph g => some (p, g)
     | _ => none)
  | none => none

/-- One unit of a port's allowance moved from reserved to occupancy with its record (R66). -/
def State.portPut (s : State) (p : Packet) (g : Graph) (k : Nat) (key : BitVec 32) (bs : List Byte) : State :=
  s.setPacket { p with work := .graph { g with
    tqs := updAt g.tqs k (fun q => { q.put key bs (s.die q.home).dcyc with reserved := q.reserved - 1 }) } }

/-- The allowance of a port as its staged table shows it, written from the device's count (R57, R363). -/
def State.stageAllow (s : State) (c : CtxId) (f : Firing) (k : Nat) : State :=
  let a := stagingOf c * 4096 + f.outAt + 16 * k + 2
  { s with st := { s.st with staging := s.st.staging.writeN a (toBytes 2 (f.allow.getD k 0)) } }

/-- A port enqueue of the executing firing that has passed its checks (R363). -/
def State.portSend (s : State) (f : Firing) (p : Packet) (g : Graph) (k : Nat) (key : BitVec 32) (bs : List Byte) : State :=
  let q := f.outq.getD k 0
  let f' := { f with allow := updAt f.allow k (fun n => n - 1) }
  let t := ((s.portPut p g q key bs).withMe { s.me with firing := some f' }).stageAllow s.cur f' k
  if (g.tq q).home = dieOf s.cur then t else t.linked 0

/-- `PENQ` (R363): a release, which waits for every earlier access (R92). -/
def execPenq (d a b : XReg) (s : State) : Host.Outcome State Fault Refusal :=
  act s (do
    s.permit 4 8 0
    let k := (s.rx a).toNat
    match s.me.firing with
    | none => .ok (s.wx d 2).finish
    | some f =>
      if !f.graph || f.outq.length ≤ k then .ok (s.wx d 2).finish
      else if f.allow.getD k 0 = 0 then .ok (s.wx d 1).finish
      else match s.graphOf f with
        | none => .ok (s.resync.wx d 0).finish
        | some (p, g) =>
          let key : BitVec 32 := (s.rx d).setWidth 32
          let (t, bs) ← s.resync.readWords (s.rx b) 0 ((g.tq (f.outq.getD k 0)).esize / 8)
          .ok ((t.portSend f p g k key bs).wx d 0).finish)

/-! ## Completion (R52, R58) -/

/-- Records left in a packet's task queues (R52). -/
def Packet.residue (p : Packet) : Nat :=
  match p.work with
  | .graph g => g.tqs.foldl (fun n q => n + q.entries.length) 0
  | _ => 0

/-- All of a packet's work has ended (R52, R58, R397). -/
def State.packetDone (s : State) (p : Packet) : Bool :=
  p.firings == p.retired + p.killed && !s.kills.contains (.packet p.ref) &&
  (p.killPkt ||
    (match p.work with
     | .nest _ _ => p.dealt
     | .graph g => g.actors.all (fun a => !s.actorReady g true a)
     | .mark => true))

/-- Status byte of a completed packet (R58, R397). -/
def Packet.statusCode (p : Packet) : Nat :=
  if p.killed != 0 || p.killPkt then 1 else if p.residue != 0 then 2 else 0

/-- The status of a packet written (R58). DESIGN CHOICE: one whose address has no translation by then is not (log entry 48). -/
def State.writeStatus (s : State) (p : Packet) : State :=
  let bs := toBytes 4 p.retired ++ toBytes 4 p.killed ++ toBytes 4 p.residue ++ toBytes 4 p.statusCode
  if p.stataddr = 0 then s
  else match s.locate (engReq p.pdid 0) 0 p.stataddr.toNat with
    | .ok (_, l) => s.writeHome l bs
    | .error _ => s

/-- The completion signal (R38, R58). -/
def State.signal (s : State) (p : Packet) : State :=
  if p.sigop = 0 then s
  else match s.locate (engReq p.pdid 0) 0 p.sigaddr.toNat with
    | .ok (_, l) =>
      let old := BitVec.ofNat 64 (ofBytes (s.st.get l 8))
      (s.writeHome l (toBytes 8 (if p.sigop = 2 then old - p.sigval else p.sigval).toNat)).strongBy none l 8
    | .error _ => s

/-- A word that the command processing agent is to write made ready at its home (R354, R385), if it is to write one. -/
def State.packetWord (s : State) (p : Packet) (used : Bool) (va : Nat) : Except State State :=
  if !used then .ok s
  else match s.locate (engReq p.pdid 0) 0 va with
    | .ok (t, l) => t.claimHome true va l
    | .error _ => .ok s

/-- The places of a packet's status and signal made ready; in error, the state in which a holder or the host is waited for. -/
def State.packetReady (s : State) (p : Packet) : Except State State :=
  match s.packetWord p (p.stataddr != 0) p.stataddr.toNat with
  | .error u => .error u
  | .ok u => u.packetWord p (p.sigop != 0) p.sigaddr.toNat

/-- A packet completed (R58): status, signal, vector. -/
def State.endPacket (s : State) (p : Packet) : State :=
  let t : State := { s with packets := s.packets.filter (fun x => x.ref != p.ref) }
  let u := (t.writeStatus p).signal p
  if p.irq then u.raiseVector p.pdid.toNat (u.queue p.ref.q).irqvec.toNat else u

/-- `PACKET_COMPLETE` (R58): once its work has ended and what it is to write is ready. -/
def State.packetComplete (s : State) (r : PktRef) : State :=
  match s.packet r with
  | none => s
  | some p =>
    if !s.packetDone p then s
    else match s.packetReady p with
      | .error u => u
      | .ok u => u.endPacket p

/-- `PACKET_COMPLETE` (R58). -/
def execPacketComplete (s : State) : Host.Outcome State Fault Refusal :=
  match s.opd with
  | .packet q num => .next (s.packetComplete { pkg := s.pkg, q := q, num := num })
  | _ => .next s

end Sys2Proof.Machine
end

