-- ==== Sys2Proof/Machine/Retire.lean ====
section
/-! DEFINITION. The end of firings: `END` (spec/06_scalar.md R179), draining and retirement (spec/15_interruption.md R402), and the
kill of a context (R397, R311, R356). -/

namespace Sys2Proof.Machine

/-! ## `STATUS` of a save area, and held pre-emption requests (R398, R399) -/

/-- `STATUS` of a save area written (R398, R399). -/
def State.areaStatus (s : State) (area : VAddr) (v : Nat) : State := s.fwWrite area.toNat 1 v

/-- The pre-emption requests that wait for a context are told `v`. -/
def State.tellPreempts (s : State) (c : CtxId) (v : Nat) : State :=
  let mine := s.preempts.filter (fun p => p.who == c)
  mine.foldl (fun t p => t.areaStatus p.area v) { s with preempts := s.preempts.filter (fun p => p.who != c) }

/-! ## Draining (R402, R397) -/

/-- No reply slot of the context is `PENDING`. -/
def Ctx.slotsSettled (x : Ctx) : Bool := x.replySlots.all (fun (_, r) => r != .pending)

/-- No VQ entry of a context is left. -/
def State.vqClear (s : State) (c : CtxId) : Bool := (s.side c.unit c.side).vq.all (fun e => e.slot != c.slot)

/-- What both retirement and the end of a kill wait for (R397, R402): the VQ, started engine commands, and joined collectives. -/
def State.drained (s : State) (c : CtxId) : Bool :=
  let o := s.ownerOf c
  s.vqClear c && s.copiesOf o == 0 && s.collsJoined o == 0

/-- What retirement waits for besides (R402): replies of the Keep that have yet to land, the handlers of replies, that neither
stream is frozen, and that no fault of it waits (R391). -/
def State.settled (s : State) (c : CtxId) : Bool :=
  s.reqsOf c == 0 && s.owedTo c == 0 && !(s.ctx c).engFrozen && !(s.ctx c).sendFrozen && (s.ctx c).late.isEmpty

/-- The queue room reserved for a firing's unused allowance released (R57, R66). -/
def State.releaseAllow (s : State) (f : Firing) : State :=
  match s.graphOf f with
  | none => s
  | some (p, g) =>
    let give (l : List TaskQueue) (q : Nat × Nat) : List TaskQueue :=
      updAt l q.1 (fun t => { t with reserved := t.reserved - q.2 })
    s.setPacket { p with work := .graph { g with tqs := (f.outq.zip f.allow).foldl give g.tqs } }

/-- A firing counted in its packet: killed, or retired (R58). -/
def State.countEnd (s : State) (r : PktRef) (killed : Bool) : State :=
  match s.packet r with
  | none => s
  | some p =>
    (s.setPacket { p with retired := p.retired + (!killed).toNat, killed := p.killed + killed.toNat }).push .packetComplete
      (.packet r.q r.num)

/-- A user context as it is once its firing has gone: `IDLE`, with no budget (R77, R82). Its cause registers and `PDID` stay. -/
def Ctx.vacated (x : Ctx) : Ctx :=
  { Ctx.reset with pdid := x.pdid, causeCode := x.causeCode, causeInfo := x.causeInfo, faddr := x.faddr, fpc := x.fpc }

/-- A context enters `IDLE` (R179, R402): it releases its unused allowance, its share of ended collectives and its pool
granules, and its firing is counted. A pre-emption request that waits for it is told that it has retired (R78), and of a killed one that
there is no firing. -/
def State.vacate (s : State) (c : CtxId) : State :=
  let x := s.ctx c
  let r := x.slots.foldl (fun u k => u.freeCopySlot c k.handle) (s.leaveColls (s.ownerOf c))
  let t := r.setCtx c x.vacated
  let u := match x.firing with
    | some f => (t.releaseAllow f).countEnd f.pkt f.killed
    | none => t
  u.tellPreempts c (if x.killed then 3 else 1)

/-- `FIRING_RETIRE` (R402), of a user context, or of a tenant Keep context that drains (R288). -/
def State.retire (s : State) (c : CtxId) : State :=
  if c.keep then s.keepRetire c
  else if (s.ctx c).st == .drain && !(s.ctx c).killed && s.drained c && s.settled c then s.vacate c
  else s

/-- `FIRING_RETIRE` (R402). -/
def execFiringRetire (s : State) : Host.Outcome State Fault Refusal :=
  match s.opd with
  | .ctx c => .next (s.retire c)
  | _ => .next s

/-! ## `END` (R179, R339) -/

/-- A firmware context's requests that have not left its side's send queue, or its collectives that have not ended (R179). -/
def State.fwBusy (s : State) (c : CtxId) : Bool :=
  let x := s.side c.unit c.side
  s.collsJoined (.ctx c) != 0 ||
    (!c.keep && x.sendq.any (fun m => x.owed.any (fun o => o.seq == m.seq && o.who == some (.ctx c))))

/-- `END` of the executing user context: it drains (R179); its open bundle and snapshot are dropped (R339), and replies of the
Keep that are due to it are void (R311). -/
def State.endUser (s : State) : State :=
  let t := s.finish.withMe { s.finish.me with st := .drain, wait := none, haz := [], missack := false }
  ((t.dropBundle s.cur).voidReqs s.cur).push .firingRetire (.ctx s.cur)

/-- `END` of the executing firmware context (R179): it is `IDLE`, gives up its share of ended collectives (R283), and the batches that a
Keep's has taken are aborted (R311). -/
def State.endFw (s : State) : State :=
  let t := ((s.withMe { s.me with st := .idle, wait := none, haz := [] }).dropBundle s.cur).leaveColls (s.ownerOf s.cur)
  if s.cur.keep then t.abortBatches s.cur else t

/-- `END` (R179). -/
def execEndFiring (s : State) : Host.Outcome State Fault Refusal :=
  act s (do
    s.permit 0 26 3
    match kindOf s.cur with
    | .user => .ok s.endUser
    | .keep => .ok (((s.finish.dropBundle s.cur).leaveColls (s.ownerOf s.cur)).keepEnd s.cur)
    | _ => if s.fwBusy s.cur then .error (.hold s) else .ok s.endFw)

/-! ## Kills (R397, R311, R356) -/

/-- The takes of a context withdrawn (R356). -/
def State.withdrawTakes (s : State) (c : CtxId) : State := { s with takes := s.takes.filter (fun e => e.who != c) }

/-- The requests that an owner has sent are owed to it no longer. -/
def Side.disown (x : Side) (o : Owner) : Side :=
  { x with owed := x.owed.map (fun r => if r.who == some o then { r with who := none } else r) }

/-- The requests of an owner on every side are owed to it no longer. -/
def State.disown (s : State) (o : Owner) : State := { s with sides := s.sides.map (fun (k, x) => (k, x.disown o)) }

/-- What a killed context leaves to others (R397, R356, R339, R281): its takes, its open bundle and snapshot, the collectives
that not every rank has joined, and the replies owed to it; its streams end, frozen or not. -/
def State.cutOff (s : State) (c : CtxId) : State :=
  let o := s.ownerOf c
  let t := s.setCtx c { s.ctx c with engFrozen := false, sendFrozen := false, wait := none, haz := [] }
  (((t.withdrawTakes c).dropBundle c).abortColls o).disown o

/-- A user context killed: it issues nothing more, and keeps its state until it is `IDLE` (R77, R397). -/
def Ctx.dead (x : Ctx) : Ctx :=
  { x with start := none, saving := none, late := [], firing := x.firing.map (fun f => { f with killed := true }) }

/-- `KILL` of a user context (R397): a save in progress is abandoned and told so, and unstarted engine commands end `KILLED`. A
pre-emption request that waits for a binding now abandoned finds no firing (R399). -/
def State.killUser (s : State) (c : CtxId) : State :=
  let s0 := if (s.ctx c).st == .binding then s.tellPreempts c 3 else s
  let s1 : State := { s0 with kills := if s0.kills.contains (.ctx c) then s0.kills else s0.kills ++ [.ctx c] }
  let t := match (s.ctx c).saving with
    | some v => s1.areaStatus v.area 7
    | none => s1
  let u := ((t.cutOff c).voidReqs c).killCommands (s.ownerOf c)
  (u.setCtx c (u.ctx c).dead).push .killComplete (.ctx c)

/-- `KILL` of a core or Keep context (R397): a message context abandons its handler, a firmware context is `IDLE`, a Keep
context follows R288. -/
def State.killCtx (s : State) (c : CtxId) : State :=
  match kindOf c with
  | .user => s.killUser c
  | .message => ((s.cutOff c).leaveColls (s.ownerOf c)).abandonHandler c
  | .keep => ((s.cutOff c).leaveColls (s.ownerOf c)).keepKill c
  | _ =>
    let t := (s.cutOff c).leaveColls (s.ownerOf c)
    let u := t.setCtx c { t.ctx c with st := .idle }
    if c.keep then u.keepDrop c else u

end Sys2Proof.Machine
end

