-- ==== Sys2Proof/Machine/Steer.lean ====
section
/-! DEFINITION. Inspecting and steering masters from firmware (spec/15_interruption.md R392, R393, R395 to R397). -/

namespace Sys2Proof.Machine

/-! ## Master selectors (R392) -/

/-- The master that a selector names. -/
def selOf (w : Word) : Master :=
  { unit := bitsOf w.toNat 0 10, side := w.getLsbD 10, slot := bitsOf w.toNat 11 4, kind := bitsOf w.toNat 16 3 }

/-- The selector of a master, bits [31:0]. -/
def selWord (m : Master) : Nat := m.unit + 2 ^ 10 * m.side.toNat + 2 ^ 11 * m.slot + 2 ^ 16 * m.kind

/-- A selector is in its limits for a die. -/
def selOk (die : Nat) (w : Word) : Bool :=
  let m := selOf w
  !w.getLsbD 15 && decide (w.toNat < 2 ^ 19) &&
    (match m.kind with
     | 0 => m.unit / 96 == die && decide (m.slot ≤ 9)
     | 1 => m.unit / 12 == die && !m.side && decide (m.slot ≤ 3)
     | 2 => m.unit / 96 == die && decide (m.slot ≤ 7)
     | 3 => m.unit / 96 == die && decide (m.slot ≤ 9)
     | 4 => m.unit / 12 == die && !m.side && m.slot == 0
     | 5 => m.unit == 0 && !m.side && m.slot == 0
     | _ => false)

/-- The context of a master of kind 0 to 3. -/
def Master.ctx (m : Master) : CtxId := { keep := m.kind == 1, unit := m.unit, side := m.side, slot := m.slot }

/-- The executing context's die. -/
def State.myDie (s : State) : Nat := dieOf s.cur

/-- The selector in a word, for a form that takes the kinds that `ok` admits (R396). -/
def State.selector (s : State) (major : Nat) (w : Word) (ok : Master → Bool) : Except Stop Master :=
  if selOk s.myDie w && ok (selOf w) then .ok (selOf w) else illegal 7 7 major

/-- A master that is a core or Keep context. -/
def Master.isCtx (m : Master) : Bool := decide (m.kind ≤ 1)
/-- A master that is a user context. -/
def Master.isUser (m : Master) : Bool := m.kind == 0 && decide (m.slot ≤ 7)

/-! ## `CTXSTAT`, `CTXRD` and `CTXWR` (R395) -/

/-- Code of a context state (R77). -/
def CtxState.code (x : CtxState) : Nat :=
  match x with
  | .idle => 0
  | .binding => 1
  | .run => 2
  | .wait => 3
  | .drain => 4
  | .faulted => 5
  | .frozen => 6
  | .saving => 7

/-- Code of a kind of context (R395). -/
def Kind.code (k : Kind) : Nat :=
  match k with
  | .user => 0
  | .message => 1
  | .firmware => 2
  | _ => 3

/-- Status word `n` of a context (R395). -/
def State.statWord (s : State) (c : CtxId) (n : Nat) : Word :=
  let x := s.ctx c
  match n with
  | 0 =>
    BitVec.ofNat 64 (x.st.code + 2 ^ 3 * (kindOf c).code + 2 ^ 6 * (s.recordHeld c).toNat + 2 ^ 7 * x.engFrozen.toNat +
      2 ^ 8 * x.sendFrozen.toNat + 2 ^ 16 * x.pdid.toNat + 2 ^ 32 * x.causeCode.toNat)
  | 1 => x.fid
  | 2 => BitVec.ofNat 64 (x.vec.vregs + 2 ^ 8 * x.vec.vclass + 2 ^ 16 * granulesOf x.vec.vregs x.vec.vclass)
  | _ => x.launchId.setWidth 64

/-- `CTXSTAT` (R395). -/
def execCtxstat (d a b : XReg) (s : State) : Host.Outcome State Fault Refusal :=
  act s (do
    s.permit 7 0 2
    let m ← s.selector 0 (s.rx a) Master.isCtx
    if 3 < (s.rx b).toNat then illegal 7 7 0
    .ok (s.wx d (s.statWord m.ctx (s.rx b).toNat)).finish)

/-- A register number that a kind of context has (R395, R80, R101, R284). -/
def ctxRegOk (k : Kind) (n : Nat) : Bool :=
  decide (n ≤ 0x22) || (decide (0x30 ≤ n) && decide (n ≤ 0x3F)) || (decide (0x40 ≤ n) && decide (n ≤ 0x42) && k == .user) ||
    (decide (0x100 ≤ n) && decide (n ≤ 0x10C) && (sysAccess k (n - 0x100)).rd)

/-- Register `n` of a context (R395). -/
def Ctx.regRead (x : Ctx) (n : Nat) : Word :=
  if n < 0x20 then xGet x.x (BitVec.ofNat 5 n)
  else if n = 0x20 then x.pc.setWidth 64
  else if n = 0x21 then BitVec.ofNat 64 x.rs.depth
  else if n = 0x22 then BitVec.ofNat 64 x.rs.spilled
  else if n < 0x40 then ((x.rs.hw.toList.getD (n - 0x30) 0)).setWidth 64
  else if n = 0x40 then x.vec.vl.setWidth 64
  else if n = 0x41 then x.vec.vt.setWidth 64
  else if n = 0x42 then x.vec.vw2.setWidth 64
  else x.sysRead (n - 0x100)

/-- A value is in the range of register `n` (R395, R182, R183, R103). Reserved bits of a system register are not part of it:
a write of them is ignored (R18). -/
def ctxRegFits (n : Nat) (v : Word) : Bool :=
  if n < 0x20 then true
  else if n = 0x20 then decide (v.toNat < 2 ^ 56) && !v.getLsbD 0
  else if n = 0x21 then decide (v.toNat ≤ 16)
  else if n = 0x22 then decide (v.toNat < 2 ^ 32)
  else if n < 0x40 then decide (v.toNat < 2 ^ 56)
  else if n = 0x40 then decide (v.toNat ≤ 8192)
  else if n = 0x41 then decide (v.toNat < 2 ^ 16) && typeValid v.toNat
  else if n = 0x42 then decide (v.toNat < 8)
  else if n = 0x101 then decide (v.toNat % 8 ≤ 4)
  else true

/-- Register `n` of a context written (R395). -/
def Ctx.regWrite (x : Ctx) (n : Nat) (v : Word) : Ctx :=
  if n < 0x20 then { x with x := xSet x.x (BitVec.ofNat 5 n) v }
  else if n = 0x20 then { x with pc := v.setWidth 56 }
  else if n = 0x21 then { x with rs := { x.rs with depth := v.toNat } }
  else if n = 0x22 then { x with rs := { x.rs with spilled := v.toNat } }
  else if n < 0x40 then { x with rs := { x.rs with hw := x.rs.hw.setIfInBounds (n - 0x30) (v.setWidth 56) } }
  else if n = 0x40 then { x with vec := { x.vec with vl := v.setWidth 14 } }
  else if n = 0x41 then { x with vec := { x.vec with vt := v.setWidth 16 } }
  else if n = 0x42 then { x with vec := { x.vec with vw2 := v.setWidth 3 } }
  else if n = 0x100 then { x with flags := v.setWidth 8 }
  else if n = 0x102 then { x with strip := v.setWidth 32, stripDone := v.setWidth 32 }
  else x.sysWrite (n - 0x100) v

/-- The context may be read (R395). -/
def Ctx.readable (x : Ctx) : Bool := x.st == .faulted || x.st == .frozen || x.st == .wait
/-- The context may be written (R395). -/
def Ctx.writable (x : Ctx) : Bool := x.st == .faulted || x.st == .frozen

/-- `SNAP`, `PDID`, `VDIRTY` and `VHWM`, which `CTXWR` does not write (R395). -/
def ctxRegFixed (n : Nat) : Bool := n == 0x103 || n == 0x106 || n == 0x108 || n == 0x109

/-- `CTXRD` (R395). -/
def execCtxrd (d a b : XReg) (s : State) : Host.Outcome State Fault Refusal :=
  act s (do
    s.permit 7 0 0
    let m ← s.selector 0 (s.rx a) Master.isCtx
    let n := (s.rx b).toNat
    if !ctxRegOk (kindOf m.ctx) n then illegal 7 7 0
    if !(s.ctx m.ctx).readable then illegal 8 7 0
    .ok (s.wx d ((s.ctx m.ctx).regRead n)).finish)

/-- `CTXWR` (R395). -/
def execCtxwr (d a b : XReg) (s : State) : Host.Outcome State Fault Refusal :=
  act s (do
    s.permit 7 0 1
    let m ← s.selector 0 (s.rx a) Master.isCtx
    let n := (s.rx b).toNat
    let v := s.rx d
    if !ctxRegOk (kindOf m.ctx) n then illegal 7 7 0
    if !(s.ctx m.ctx).writable || ctxRegFixed n || !ctxRegFits n v then illegal 8 7 0
    .ok (s.setCtx m.ctx ((s.ctx m.ctx).regWrite n v)).finish)

/-! ## `RESUME` and `THAW` (R396) -/

/-- A context resumed: `FPC` takes the address given unless it is 0, and the context runs there; the program counter has no
bit 0 (R80). -/
def Ctx.resumeAt (x : Ctx) (v : Word) : Ctx :=
  let p := if v = 0 then x.fpc else v.setWidth 56
  { x with st := .run, fpc := p, pc := evenVa p, haz := [], wait := none }

/-- Whether a master's state admits a thaw, and the state after it (R396). -/
def State.thaw (s : State) (m : Master) (v : Word) : Option State :=
  match m.kind with
  | 2 =>
    if (s.ctx m.ctx).engFrozen then
      let t := s.setCtx m.ctx { s.ctx m.ctx with engFrozen := false }
      some ((List.range 32).foldl (fun u k =>
        if ((u.die (k / 4)).copyQueue (k % 4)).any (fun q => q.owner == t.ownerOf m.ctx) then
          u.push .copyCommandStart (.engine (k / 4) (k % 4))
        else u) t)
    else none
  | 3 =>
    if (s.ctx m.ctx).sendFrozen then
      let t := s.setCtx m.ctx { s.ctx m.ctx with sendFrozen := false }
      some (if (t.ctx m.ctx).wait == some (.reissue .sendFrozen) then t.wakeRetry m.ctx else t)
    else none
  | 4 =>
    if (s.pod m.unit).mxFrozen then some ((s.setPod m.unit { s.pod m.unit with mxFrozen := false }).mxStart m.unit) else none
  | _ => if (s.ctx m.ctx).st == .frozen then some (s.setCtx m.ctx ((s.ctx m.ctx).resumeAt v)) else none

/-- `RESUME` (R396). -/
def execResume (a b : XReg) (s : State) : Host.Outcome State Fault Refusal :=
  act s (do
    s.permit 7 1 1
    let m ← s.selector 1 (s.rx a) Master.isCtx
    if (s.rx b).getLsbD 0 then illegal 7 7 1
    if (s.ctx m.ctx).st != .faulted then illegal 8 7 1
    .ok (s.setCtx m.ctx ((s.ctx m.ctx).resumeAt (s.rx b))).finish)

/-- `THAW` (R396). -/
def execThaw (a b : XReg) (s : State) : Host.Outcome State Fault Refusal :=
  act s (do
    s.permit 7 1 2
    let m ← s.selector 1 (s.rx a) (fun m => decide (m.kind ≤ 4))
    if (s.rx b).getLsbD 0 || (!m.isCtx && s.rx b != 0) then illegal 7 7 1
    match s.thaw m (s.rx b) with
    | some t => .ok t.finish
    | none => illegal 8 7 1)

/-! ## The saved-firing table (R400) -/

/-- Address of entry `k` of the table. -/
def State.saveEntry (s : State) (k : Nat) : Nat := s.mgmt.savetab.toNat + 16 * k

/-- Entries of the table. -/
def saveEntries : Nat := 16384

/-- The first entry from `k` on, of `n`, whose word 0 passes a test. -/
def State.findEntry (s : State) (p : Nat → Bool) (k n : Nat) : Option Nat :=
  match n with
  | 0 => none
  | m + 1 => if p (s.fwRead (s.saveEntry k) 8) then some k else s.findEntry p (k + 1) m

/-- The entry that names a save area. -/
def State.entryOf (s : State) (area : VAddr) : Option Nat :=
  s.findEntry (fun w => bitOf w 0 && bitsOf w 8 48 == area.toNat / 256) 0 saveEntries

/-- What the device keeps of the firing saved in an area. -/
def State.savedAt (s : State) (area : VAddr) : Option Saved := s.saved.find? (fun x => x.area == area)

/-- The saved firing that the table names by an area (R400), with its entry; one whose kill waits for earlier kills is named no more. -/
def State.savedEntry (s : State) (area : Word) : Option (Saved × Nat) :=
  if area.toNat % 256 != 0 || decide (2 ^ 56 ≤ area.toNat) || s.kills.contains (.saved (area.setWidth 56)) then none
  else match s.savedAt (area.setWidth 56) with
    | none => none
    | some x => (s.entryOf x.area).map (fun k => (x, k))

/-- A firing leaves the saved-firing table: its entry is written whole, with `VALID` 0. -/
def State.dropSaved (s : State) (x : Saved) (k : Nat) : State :=
  let t := (s.fwWrite (s.saveEntry k) 8 0).fwWrite (s.saveEntry k + 8) 8 0
  { t with saved := t.saved.erase x }

/-- A saved firing killed (R397): it leaves the table, its work for others ends, and it is counted killed. -/
def State.killSaved (s : State) (x : Saved) (k : Nat) : State :=
  let o := x.owner
  let t := ((((s.dropSaved x k).dropSavedBundle x).killCommands o).abortColls o).disown o
  ((t.leaveColls o).releaseAllow x.firing).countEnd x.firing.pkt true

/-! ## `KILL` (R397) -/

/-- An engine command stream killed: its unstarted commands end `KILLED`, the frozen one among them. -/
def State.killEngine (s : State) (c : CtxId) : State :=
  (s.setCtx c { s.ctx c with engFrozen := false }).killCommands (s.ownerOf c)

/-- The engine command stream of a context is frozen or holds a command that has not completed. -/
def State.engineLive (s : State) (c : CtxId) : Bool := (s.ctx c).engFrozen || s.copiesOf (s.ownerOf c) != 0

/-- A pod's matrix command stream killed (R301, R397). -/
def State.killMatrix (s : State) (pod : Nat) : State :=
  (s.setPod pod { s.pod pod with mxFrozen := false }).mxKillArmed pod

/-- The matrix command stream is frozen or holds an operation. -/
def Pod.mxLive (p : Pod) : Bool := p.mxFrozen || p.armed.isSome || p.running.isSome

/-- An activation by a killed context is under way no longer. -/
def State.dropActivation (s : State) (c : CtxId) : State :=
  if s.mgmt.activating == some c then { s with mgmt := { s.mgmt with activating := none } } else s

/-- Chunks of a packet that have been dealt and not bound. -/
def chunksOf (l : List Chunk) (r : PktRef) : Nat := (l.filter (fun k => k.pkt == r)).length

/-- A gang queue at clock `now` without the gangs of a packet (R397): where the head goes, another becomes head, with an age that begins
(R73). -/
def GangQueue.without (q : GangQueue) (r : PktRef) (now : Nat) : GangQueue :=
  let l := q.gangs.filter (fun g => g.pkt != r)
  if (q.gangs.head?.map (·.pkt)) == some r then { gangs := l, headSince := now, reserving := none } else { q with gangs := l }

/-- A die without the buffered chunks and gangs of a packet (R397). -/
def Die.dropChunks (d : Die) (r : PktRef) : Die :=
  { d with chunks := d.chunks.filter (fun k => k.pkt != r), gangq := d.gangq.without r d.dcyc.toNat }

/-- Chunks of a packet buffered in the package, those of queued gangs among them. -/
def State.buffered (s : State) (r : PktRef) : Nat :=
  let inGangs (l : List Gang) : Nat := (l.filter (fun g => g.pkt == r)).foldl (fun n g => n + g.chunks.length) 0
  s.dies.foldl (fun n (_, d) => n + chunksOf d.chunks r + inGangs d.gangq.gangs) (inGangs s.engine.gangq.gangs)

/-- A packet's undealt and buffered chunks discarded (R397): the buffered ones are no firings of it. -/
def State.dropWork (s : State) (r : PktRef) : State :=
  let n := s.buffered r
  let t : State := { s with
    dies := s.dies.map (fun (k, d) => (k, d.dropChunks r)),
    engine := { s.engine with gangq := s.engine.gangq.without r s.sdcyc } }
  match t.packet r with
  | some p => t.setPacket { p with killPkt := true, dealt := true, firings := p.firings - n }
  | none => t

/-- A packet's firings that wait to be bound after a migration to a core, removed and counted killed (R397, R352). -/
def State.dropArrivals (s : State) (core : Nat) (r : PktRef) : State :=
  let c := s.core core
  let ours (k : Nat × Nat) : Bool := (migOf (s.fwRead (c.migovf.toNat + 128 * k.1) 88)).pkt == r
  let n := (c.migHw.filter (fun e => e.1.pkt == r)).length + (c.migOv.filter ours).length
  if n = 0 then s
  else
    let t := (s.setCore core { c with migHw := c.migHw.filter (fun e => e.1.pkt != r), migOv := c.migOv.filter (fun k => !ours k),
                                      migCount := c.migCount - n }).migRefill core 16
    (List.range n).foldl (fun u _ => u.countEnd r true) t

/-- What a killed packet has besides bound firings counted killed: its saved firings, and those that wait in migration arrival queues (R397,
R352). A firing bound meanwhile is killed as well. -/
def State.killRest (s : State) (r : PktRef) : State :=
  let t1 := (s.saved.filter (fun x => x.firing.pkt == r)).foldl (fun u x =>
    match u.entryOf x.area with
    | some k => u.killSaved x k
    | none => u) s
  let t2 := (t1.cores.map (·.1)).foldl (fun u k => u.dropArrivals k r) t1
  (((t2.firingsOf r).filter (fun c => !(t2.ctx c).killed)).foldl (fun u c => u.killUser c) t2).push .packetComplete (.packet r.q r.num)

/-! ### The order of kills (R397)

Kills complete in the order issued: one that comes to its end at once waits while an earlier one has not completed. What it kills does no more
meanwhile. -/

/-- A kill carried out, but for that of a user context, which ends by `KILL_COMPLETE`. -/
def State.killPart (s : State) (k : Kill) : State :=
  match k with
  | .ctx c => if (s.ctx c).st == .idle then s else (s.killCtx c).dropActivation c
  | .engine c => s.killEngine c
  | .matrix pod => s.killMatrix pod
  | .saved area =>
    (match s.savedAt area, s.entryOf area with
     | some x, some i => s.killSaved x i
     | _, _ => s)
  | .packet r => s.killRest r

/-- A kill issued: it completes after those before it. -/
def State.killAfter (s : State) (k : Kill) : State := if s.kills.isEmpty then s.killPart k else { s with kills := s.kills ++ [k] }

/-- The kill of a user context. -/
def Kill.isUser (k : Kill) : Bool :=
  match k with
  | .ctx c => kindOf c == .user
  | _ => false

/-- The kills that no earlier one keeps any more, carried out in order up to the next of a user context. -/
def State.nextKills (s : State) (n : Nat) : State :=
  match n with
  | 0 => s
  | m + 1 =>
    match s.kills with
    | k :: r => if k.isUser then s else (State.killPart { s with kills := r } k).nextKills m
    | [] => s

/-- `KILL_COMPLETE` (R397): the context of a killed firing enters `IDLE` once its work has ended and its void replies have landed, and the
kills issued before its own are complete. -/
def State.killDone (s : State) (c : CtxId) : State :=
  if (s.ctx c).killed && s.kills.head? == some (.ctx c) && s.drained c && s.reqsOf c == 0 then
    (State.vacate { s with kills := s.kills.tail } c).nextKills s.kills.length
  else s

/-- `KILL_COMPLETE` (R397). -/
def execKillComplete (s : State) : Host.Outcome State Fault Refusal :=
  match s.opd with
  | .ctx c => .next (s.killDone c)
  | _ => .next s

/-- `KILL` of one master (R397), where its state admits it. -/
def State.kill (s : State) (m : Master) : Option State :=
  match m.kind with
  | 2 => if s.engineLive m.ctx then some (s.killAfter (.engine m.ctx)) else none
  | 4 => if (s.pod m.unit).mxLive then some (s.killAfter (.matrix m.unit)) else none
  | _ =>
    if (s.ctx m.ctx).st == .idle then none
    else if kindOf m.ctx == .user then some (s.killUser m.ctx)
    else some (s.killAfter (.ctx m.ctx))

/-- `KILL` of every firing of a packet (R397): its bound firings are killed, and what else it has after the kills before this one. -/
def State.killPacket (s : State) (r : PktRef) : State :=
  let t := s.dropWork r
  State.killAfter ((t.firingsOf r).foldl (fun u c => u.killUser c) t) (.packet r)

/-- The packet of the firing that a master of kind 0 or 2 holds. -/
def State.packetOfMaster (s : State) (m : Master) : Option PktRef := (s.ctx m.ctx).firing.map (·.pkt)

/-- `KILL` (R397): x[rb] is 0 for the master, 1 for its packet, and for kind 5 a save area. -/
def execKill (a b : XReg) (s : State) : Host.Outcome State Fault Refusal :=
  act s (do
    s.permit 7 1 3
    let m ← s.selector 1 (s.rx a) (fun _ => true)
    let v := s.rx b
    if m.kind = 5 then
      match s.savedEntry v with
      | some (x, _) => .ok (s.killAfter (.saved x.area)).finish
      | none => illegal 8 7 1
    else if v = 0 then
      match s.kill m with
      | some t => .ok t.finish
      | none => illegal 8 7 1
    else if v = 1 && (m.kind == 0 || m.kind == 2) then
      match s.packetOfMaster m with
      | some r => .ok (s.killPacket r).finish
      | none => illegal 8 7 1
    else illegal 7 7 1)

end Sys2Proof.Machine
end

