-- ==== Sys2Proof/Machine/Save.lean ====
section
/-! DEFINITION. Pre-emption and restoring (spec/03_core.md R95, spec/15_interruption.md R398 to R401). -/

namespace Sys2Proof.Machine

/-! ## Save areas (R398) -/

/-- Bytes of firmware memory from an address on, written in pieces of 64 bytes so that none crosses a page. -/
def State.fwPut (s : State) (va : Nat) (bs : List Byte) (fuel : Nat) : State :=
  match fuel with
  | 0 => s
  | k + 1 =>
    let m := min bs.length (64 - va % 64)
    if m = 0 then s else (s.fwWrite va m (ofBytes (bs.take m))).fwPut (va + m) (bs.drop m) k

/-- `n` bytes of firmware memory, in such pieces. -/
def State.fwGet (s : State) (va n fuel : Nat) : List Byte :=
  match fuel with
  | 0 => []
  | k + 1 =>
    let m := min n (64 - va % 64)
    if m = 0 then [] else toBytes m (s.fwRead va m) ++ s.fwGet (va + m) (n - m) k

/-- Bytes at an offset of a save area. -/
structure Part where
  off : Nat
  bs : List Byte
  deriving DecidableEq, Repr

/-- Parts of a save area written. -/
def State.putParts (s : State) (area : VAddr) (l : List Part) : State :=
  l.foldl (fun t p => t.fwPut (area.toNat + p.off) p.bs (p.bs.length / 64 + 2)) s

/-- A word as 8 bytes. -/
def w8 (v : Nat) : List Byte := toBytes 8 v

/-- The address that an optional address is, or 0. -/
def orZero (a : Option VAddr) : Nat := (a.map BitVec.toNat).getD 0

/-- The copy slot table's entry `k` (R398): handle, then promise. -/
def slotImage (l : List CopySlot) (k : Nat) : List Byte :=
  match l.find? (fun x => bitsOf x.handle.toNat 40 6 == k) with
  | some x => w8 x.handle.toNat ++ w8 x.promise.toNat
  | none => List.replicate 16 0

/-- The vector registers saved: those whose `VDIRTY` bit is set, `VHWM` bytes each, from a 64-byte boundary on (R398). -/
def vecParts (v : VecState) (l : List Nat) (off : Nat) : List Part :=
  match l with
  | [] => []
  | n :: r =>
    if v.vdirty.getLsbD n then
      let h := v.vhwm.toNat
      ⟨off, toBytes h ((v.v.toList.getD n 0).toNat % 2 ^ (8 * h))⟩ :: vecParts v r (off + (h + 63) / 64 * 64)
    else vecParts v r off

/-- End of the vector registers in a save area. -/
def vecEnd (v : VecState) : Nat := (vecParts v (List.range 32) 0x3440).foldl (fun m p => max m (p.off + p.bs.length)) 0x3440

/-- The header of a save area but for `STATUS` (R398). -/
def Ctx.saveHeader (x : Ctx) (sstate : Byte) (pkt size : Nat) : List Byte :=
  [sstate] ++ toBytes 2 1 ++ toBytes 1 x.vec.vregs ++ toBytes 1 x.vec.vclass ++ toBytes 2 0 ++ toBytes 4 x.vec.vdirty.toNat ++
    toBytes 2 x.vec.vhwm.toNat ++ toBytes 2 0 ++ w8 x.fid.toNat ++ w8 pkt ++ toBytes 4 size ++ List.replicate 28 0

/-- The scalar state from offset 0x40 to the staging area (R398). -/
def Ctx.saveScalar (x : Ctx) : List Byte :=
  (List.range 32).flatMap (fun k => w8 (xGet x.x (BitVec.ofNat 5 k)).toNat) ++ w8 x.pc.toNat ++
    toBytes 2 x.vec.vl.toNat ++ toBytes 2 x.vec.vt.toNat ++ toBytes 1 x.vec.vw2.toNat ++ toBytes 1 x.rs.depth ++
    toBytes 1 x.missack.toNat ++ [0] ++ toBytes 4 x.rs.spilled ++ toBytes 4 x.strip.toNat ++
    toBytes 1 x.flags.toNat ++ toBytes 1 x.rnd.toNat ++ toBytes 1 x.chksb.toNat ++ [0] ++ toBytes 4 x.travBudget.toNat ++
    w8 x.snapWord.toNat ++ w8 x.causeWord.toNat ++ w8 x.faddr.toNat ++ w8 x.fpc.toNat ++ w8 x.spillBase.toNat ++
    w8 (orZero (x.bundle.map (·.desc))) ++ w8 (orZero (x.bundle.map (·.record))) ++ w8 (orZero (x.snap.map (·.desc))) ++
    w8 (orZero (x.snap.bind (·.record))) ++
    toBytes 1 (x.bundle.isSome.toNat + 2 * x.snap.isSome.toNat + 4 * ((x.snap.map (·.stale)).getD false).toNat) ++
    List.replicate 23 0 ++ x.rs.hw.toList.flatMap (fun v => w8 v.toNat) ++ List.replicate 512 0 ++
    (List.range 64).flatMap (slotImage x.slots)

/-- Address of entry `k` of a context's spill area (R174). -/
def Ctx.spillAt (x : Ctx) (k : Nat) : Nat := (x.spillBase + BitVec.ofNat 56 (8 * k)).toNat

/-- Every spilled entry of a context has a translation under `PDID` 0 (R399). -/
def State.spillsReadable (s : State) (c : CtxId) : Bool :=
  (List.range (s.ctx c).rs.spilled).all (fun k => (s.fwLoc ((s.ctx c).spillAt k)).isSome)

/-- The spilled entries as they are read under `PDID` 0; one without a translation is free (log entry 3). -/
def State.spillImage (s : State) (c : CtxId) : List Byte :=
  (List.range (s.ctx c).rs.spilled).flatMap (fun k =>
    match s.fwLoc ((s.ctx c).spillAt k) with
    | some l => s.st.get l 8
    | none => w8 (Config.word s.free (16 * k + 21)).toNat)

/-- Size of a save (R398): the bytes written from offset 0. -/
def Ctx.saveSize (x : Ctx) : Nat := if x.rs.spilled = 0 then vecEnd x.vec else 0xC000 + 8 * x.rs.spilled

/-- The state of a user context written into a save area, all but `STATUS` (R398). -/
def State.saveImage (s : State) (c : CtxId) (area : VAddr) (sstate : Byte) : State :=
  let x := s.ctx c
  let pkt := (x.firing.map (fun f => refWord f.pkt)).getD 0
  s.putParts area
    ([⟨1, x.saveHeader sstate pkt x.saveSize⟩, ⟨0x40, x.saveScalar⟩,
      ⟨0x840, s.st.staging.readN (stagingOf c * 4096) 4096⟩,
      ⟨0x1840, (x.vec.m.toList.drop 1).flatMap (fun m => toBytes 1024 m.toNat)⟩] ++
     vecParts x.vec (List.range 32) 0x3440 ++ [⟨0xC000, s.spillImage c⟩])

/-! ## The active image's layouts (R406) -/

/-- A firmware image accepts a save layout. -/
def State.acceptsLayout (s : State) (image : Nat) (layout : Nat) : Bool :=
  (List.range (min 8 (s.fwRead (image + 0x10) 2))).any (fun k => s.fwRead (image + 0x12 + 2 * k) 2 == layout)

/-- The active image accepts a save layout. -/
def State.layoutOk (s : State) (layout : Nat) : Bool := s.acceptsLayout s.mgmt.fwimage.toNat layout

/-! ## `PREEMPT` (R399, R95) -/

/-- The lowest free entry of the saved-firing table (R400). -/
def State.freeEntry (s : State) : Option Nat := s.findEntry (fun w => !bitOf w 0) 0 saveEntries

/-- The table has no entry for another save: those under way count. -/
def State.tableFull (s : State) : Bool :=
  decide (saveEntries ≤ s.saved.length + (s.allCtx.filter (fun (_, x) => x.saving.isSome)).length) || s.freeEntry.isNone

/-- The outcome of a pre-emption request on a context as it now is (R399); one that meets a killed context waits until that is `IDLE`. -/
def State.preemptNow (s : State) (c : CtxId) (area : VAddr) : State :=
  let x := s.ctx c
  if x.killed then { s with preempts := s.preempts ++ [{ who := c, area := area }] }
  else match x.st with
  | .idle => s.areaStatus area 3
  | .frozen => s.areaStatus area 2
  | .saving => s.areaStatus area 4
  | .binding => { s with preempts := s.preempts ++ [{ who := c, area := area }] }
  | .drain => { s with preempts := s.preempts ++ [{ who := c, area := area }] }
  | _ =>
    if s.tableFull then s.areaStatus area 5
    else if !s.layoutOk 1 then s.areaStatus area 6
    else
      let before : CtxState := if x.st = .faulted then .faulted else .run
      ((s.setCtx c { x with st := .saving, saving := some { area := area, before := before }, wait := none, haz := [] }).withdrawTakes c).push
        .saveComplete (.ctx c)

/-- The requests held for a context that has left `BINDING`, taken by its new state (R399). -/
def State.heldPreempts (s : State) (c : CtxId) : State :=
  if (s.ctx c).killed then s
  else match (s.ctx c).st with
  | .binding => s
  | .drain => s
  | _ =>
    let mine := s.preempts.filter (fun p => p.who == c)
    mine.foldl (fun t p => t.preemptNow c p.area) { s with preempts := s.preempts.filter (fun p => p.who != c) }

/-- `PREEMPT` (R399). -/
def execPreempt (a b : XReg) (s : State) : Host.Outcome State Fault Refusal :=
  act s (do
    s.permit 7 1 0
    let m ← s.selector 1 (s.rx a) Master.isUser
    let v := s.rx b
    if v.toNat % 256 != 0 then illegal 7 7 1
    .ok (s.finish.preemptNow m.ctx (v.setWidth 56)))

/-- A save abandoned (R399): the context returns to the state before it, and a parked instruction issues again. -/
def State.abandonSave (s : State) (c : CtxId) (v : Saving) : State :=
  (s.areaStatus v.area 8).setCtx c { s.ctx c with st := v.before, saving := none }

/-- Entry `k` of the saved-firing table written for a save (R400). -/
def State.putEntry (s : State) (k : Nat) (area : VAddr) (fid : Word) : State :=
  (s.fwWrite (s.saveEntry k) 8 (1 + area.toNat / 256 * 256)).fwWrite (s.saveEntry k + 8) 8 (bitsOf fid.toNat 40 12 + 2 ^ 16)

/-- A save completed (R95, R399, R400): the area is written, the firing enters the table, and the context is `IDLE`. -/
def State.saveDone (s : State) (c : CtxId) (v : Saving) (k : Nat) : State :=
  let x := s.ctx c
  let t := s.saveImage c v.area (BitVec.ofNat 8 v.before.code)
  let t1 := (t.putEntry k v.area x.fid).areaStatus v.area 0
  let t2 := match x.firing with
    | some f =>
      let e : Saved := { area := v.area, firing := f, engFrozen := x.engFrozen, sendFrozen := x.sendFrozen, replySlots := x.replySlots,
                         bundle := x.bundle, snap := x.snap }
      ({ t1 with saved := t1.saved ++ [e] } : State)
    | none => t1
  t2.setCtx c x.vacated

/-- A context in `SAVING` once its VQ has drained and no reply slot is `PENDING` (R95, R312). -/
def State.saveComplete (s : State) (c : CtxId) : State :=
  match (s.ctx c).st, (s.ctx c).saving with
  | .saving, some v =>
    if !s.vqClear c || !(s.ctx c).slotsSettled || !(s.ctx c).late.isEmpty then s
    else if !s.spillsReadable c then s.abandonSave c v
    else match s.freeEntry with
      | none => s
      | some k => s.saveDone c v k
  | _, _ => s

/-- `SAVE_COMPLETE` (R95, R399). -/
def execSaveComplete (s : State) : Host.Outcome State Fault Refusal :=
  match s.opd with
  | .ctx c => .next (s.saveComplete c)
  | _ => .next s

/-! ## `CTXSAVE` (R401) -/

/-- `SSTATE` of a save that `CTXSAVE` makes (R398): the rules give a frozen context none, so it is free (log entry 3). -/
def State.sstateOf (s : State) (c : CtxId) : Byte := if (s.ctx c).st = .faulted then 5 else Config.byte s.free 22

/-- `CTXSAVE` (R401). -/
def execCtxsave (d a b : XReg) (s : State) : Host.Outcome State Fault Refusal :=
  act s (do
    s.permit 7 2 0
    let m ← s.selector 2 (s.rx a) Master.isUser
    if (s.rx b).toNat % 256 != 0 then illegal 7 7 2
    let area : VAddr := (s.rx b).setWidth 56
    if !(s.ctx m.ctx).writable then .ok (s.wx d 1).finish
    else .ok (((s.saveImage m.ctx area (s.sstateOf m.ctx)).areaStatus area 0).wx d 0).finish)

/-! ## `CTXREST` (R401) -/

/-- Field of `n` bytes at an offset of a save area. -/
def State.areaField (s : State) (area : VAddr) (off n : Nat) : Nat := s.fwRead (area.toNat + off) n

/-- The vector registers of a save area: those of `VDIRTY` have the bytes saved, and every other bit is 0 (R401). -/
def State.areaVecs (s : State) (area : VAddr) (vdirty : BitVec 32) (vhwm : Nat) (l : List Nat) (off : Nat) (v : Vector VReg 32) :
    Vector VReg 32 :=
  match l with
  | [] => v
  | n :: r =>
    if vdirty.getLsbD n then
      s.areaVecs area vdirty vhwm r (off + (vhwm + 63) / 64 * 64)
        (v.setIfInBounds n (BitVec.ofNat 8192 (ofBytes (s.fwGet (area.toNat + off) vhwm (vhwm / 64 + 2)))))
    else s.areaVecs area vdirty vhwm r off v

/-- The vector state in a save area. -/
def State.areaVec (s : State) (area : VAddr) : VecState :=
  let vd := BitVec.ofNat 32 (s.areaField area 8 4)
  let vh := min 1024 (s.areaField area 0xC 2)
  { v := s.areaVecs area vd vh (List.range 32) 0x3440 (Vector.replicate 32 0),
    m := Vector.ofFn (fun i : Fin 8 =>
      if i.val = 0 then 0 else BitVec.ofNat 8192 (ofBytes (s.fwGet (area.toNat + 0x1840 + 1024 * (i.val - 1)) 1024 18))),
    vl := BitVec.ofNat 14 (s.areaField area 0x148 2), vt := BitVec.ofNat 16 (s.areaField area 0x14A 2),
    vw2 := BitVec.ofNat 3 (s.areaField area 0x14C 1), vregs := s.areaField area 4 1, vclass := s.areaField area 5 1,
    vdirty := vd, vhwm := BitVec.ofNat 11 vh }

/-- The copy slots in a save area. -/
def State.areaSlots (s : State) (area : VAddr) : List CopySlot :=
  (List.range 64).filterMap (fun k =>
    let h := s.areaField area (0x440 + 16 * k) 8
    if h = 0 then none else some { handle := BitVec.ofNat 64 h, promise := BitVec.ofNat 64 (s.areaField area (0x448 + 16 * k) 8) })

/-- The context that a save area describes, for the context and domain it is restored to (R401). -/
def State.restoredCtx (s : State) (area : VAddr) (e : Saved) (spill : VAddr) : Ctx :=
  let w (off : Nat) : Word := BitVec.ofNat 64 (s.areaField area off 8)
  let a (off : Nat) : VAddr := BitVec.ofNat 56 (s.areaField area off 8)
  let fl := s.areaField area 0x1A8 1
  let sn := s.areaField area 0x160 8
  let back : CtxState := if s.areaField area 1 1 = 5 then .faulted else .run
  { Ctx.reset with
    st := .binding, x := regsOf ((List.range 32).map (fun k => w (0x40 + 8 * k))), pc := evenVa (a 0x140),
    rs := { hw := Vector.ofFn (fun i : Fin 16 => a (0x1C0 + 8 * i.val)), depth := min 16 (s.areaField area 0x14D 1),
            spilled := s.areaField area 0x150 4 },
    vec := s.areaVec area, flags := BitVec.ofNat 8 (s.areaField area 0x158 1), rnd := BitVec.ofNat 4 (s.areaField area 0x159 1),
    strip := BitVec.ofNat 32 (s.areaField area 0x154 4), stripDone := BitVec.ofNat 32 (s.areaField area 0x154 4),
    snapVersion := BitVec.ofNat 48 sn, snapValid := bitOf sn 63, travBudget := BitVec.ofNat 32 (s.areaField area 0x15C 4),
    spillBase := spill, pdid := fidPdid e.firing.fid, chksb := bitOf (s.areaField area 0x15A 1) 0,
    causeCode := BitVec.ofNat 8 (s.areaField area 0x168 1), causeInfo := BitVec.ofNat 16 (s.areaField area 0x16A 2),
    faddr := w 0x170, fpc := a 0x178, missack := bitOf (s.areaField area 0x14E 1) 0,
    bundle := if bitOf fl 0 then some { desc := a 0x188, record := a 0x190 } else none,
    snap := if bitOf fl 1 then
        some { desc := a 0x198, stale := bitOf fl 2,
               record := (e.snap.bind (·.record)).bind (fun _ => if a 0x1A0 = 0 then none else some (a 0x1A0)) }
      else none,
    slots := s.areaSlots area, replySlots := e.replySlots, engFrozen := e.engFrozen, sendFrozen := e.sendFrozen,
    firing := some e.firing, start := some { entry := 0, x := [], staging := [], restored := some back } }

/-- The spilled entries of a save area have places in a spill area: each is translated, and the domain holds `W` (R401). -/
def State.spillsWritable (s : State) (pdid : BitVec 12) (spill : VAddr) (n : Nat) : Bool :=
  (List.range n).all (fun k =>
    match s.locate (engReq pdid s.myDie) rW (spill + BitVec.ofNat 56 (8 * k)).toNat with
    | .ok _ => true
    | .error _ => false)

/-- The saved entries written to a spill area (R401). -/
def State.writeSpills (s : State) (area : VAddr) (pdid : BitVec 12) (spill : VAddr) (n : Nat) : State :=
  (List.range n).foldl (fun t k =>
    let va := (spill + BitVec.ofNat 56 (8 * k)).toNat
    match t.locate (engReq pdid t.myDie) rW va with
    | .ok (u, l) => u.writeAt u.myDie va l (w8 (t.areaField area (0xC000 + 8 * k) 8))
    | .error _ => t) s

/-- The status of a restore, in the order of R401: 0 where it may be made. -/
def State.restStatus (s : State) (c : CtxId) (e : Option (Saved × Nat)) : Nat :=
  match e with
  | none => 1
  | some (x, k) =>
    let area := x.area
    let vregs := s.areaField area 4 1
    let vclass := s.areaField area 5 1
    let pdid := fidPdid x.firing.fid
    if !s.lanesFit c.unit c.side vregs vclass || !s.poolRoom c.unit (granulesOf vregs vclass) then 2
    else if !s.layoutOk (bitsOf (s.fwRead (s.saveEntry k + 8) 8) 16 16) then 3
    else if (s.ctx c).st != .idle || s.reserved none c then 4
    else if !s.spillsWritable pdid (s.spillOf pdid c) (s.areaField area 0x150 4) then 5
    else if !s.domainRoom pdid 1 then 6
    else 0

/-- A saved firing bound into a context (R401). -/
def State.restore (s : State) (c : CtxId) (x : Saved) (k : Nat) : State :=
  let pdid := fidPdid x.firing.fid
  let spill := s.spillOf pdid c
  let t := (s.writeSpills x.area pdid spill (s.areaField x.area 0x150 4)).dropSaved x k
  let u := t.fillStaging c (s.fwGet (x.area.toNat + 0x840) 4096 66)
  (u.setCtx c (s.restoredCtx x.area x spill)).push .firingStart (.ctx c)

/-- `CTXREST` (R401). -/
def execCtxrest (d a b : XReg) (s : State) : Host.Outcome State Fault Refusal :=
  act s (do
    s.permit 7 2 1
    let m ← s.selector 2 (s.rx a) Master.isUser
    let e := s.savedEntry (s.rx b)
    let v := s.restStatus m.ctx e
    let t := match e with
      | some (x, k) => if v = 0 then s.restore m.ctx x k else s
      | none => s
    .ok (t.wx d (BitVec.ofNat 64 v)).finish)

end Sys2Proof.Machine
end

