-- ==== Sys2Proof/Machine/Firm.lean ====
section
/-! DEFINITION. Fault buffers, invalidation, interrupts raised by firmware, and power (spec/15_interruption.md R391, R394, R403,
R409; spec/01_work_and_launch.md R29). -/

namespace Sys2Proof.Machine

/-! ## Die fault buffers (R390, R391, R394) -/

/-- Place of a master in arrival order (R391): core number, or 768 + its pod within the die; then side; then context. -/
def Master.place (m : Master) : Nat × Nat × Nat :=
  (if m.kind = 1 || m.kind = 4 then 768 + m.unit % 12 else m.unit, m.side.toNat, m.slot)

/-- Arrival order of records (R391). -/
def FaultRec.before (a b : FaultRec) : Bool :=
  let p := a.master.place
  let q := b.master.place
  if a.cycle != b.cycle then decide (a.cycle.toNat < b.cycle.toNat)
  else if p.1 != q.1 then decide (p.1 < q.1)
  else if p.2.1 != q.2.1 then decide (p.2.1 < q.2.1)
  else decide (p.2.2 < q.2.2)

/-- The first record of a list in arrival order. -/
def firstRec (l : List FaultRec) : Option FaultRec :=
  match l with
  | [] => none
  | a :: r => some (r.foldl (fun m b => if b.before m then b else m) a)

/-- The contexts that wait for a record of a die look again (R394). -/
def State.wakeFbpop (s : State) (d : Nat) : State :=
  s.waiters.foldl (fun t (c, w) => if w == .reissue (.fbpop d) then t.wakeRetry c else t) s

/-- `FAULT_RECORD_ACCEPT` (R391): the buffer of a die accepts the first held record in arrival order; one that finds no room is
held, sets `OVF` and raises event 0. A master whose record was held may go on. It falls due once in a cycle of the die. -/
def State.recordAccept (s : State) (d : Nat) : State :=
  let D := s.die d
  match firstRec D.fbHeld with
  | none => s
  | some r =>
    if D.fb.length < fbSize then
      let rest := D.fbHeld.erase r
      let t := (s.setDie d { D with fb := D.fb ++ [r], fbHeld := rest, fbNew := D.fbNew && !rest.isEmpty }).wakeFbpop d
      if r.master.kind = 4 then t.mxStart r.master.unit
      else if r.master.kind = 2 then
        (List.range 4).foldl (fun u e => if (u.die d).copyQueue e == [] then u else u.push .copyCommandStart (.engine d e)) t
      else t
    else if D.fbNew then (s.setDie d { D with fbOvf := true, fbNew := false }).raiseMgmt 0
    else s

/-- `FAULT_RECORD_ACCEPT` (R391). -/
def execFaultRecordAccept (s : State) : Host.Outcome State Fault Refusal :=
  match s.opd with
  | .unit d => .next (s.recordAccept d)
  | _ => .next s

/-- The 64 bytes of a fault record (R390). -/
def FaultRec.image (r : FaultRec) : List Byte :=
  toBytes 1 r.code.toNat ++ toBytes 1 r.master.kind ++ toBytes 2 r.info.toNat ++ toBytes 4 (selWord r.master) ++ w8 r.faddr.toNat ++
    w8 r.fpc.toNat ++ w8 r.fid.toNat ++ toBytes 4 r.launchId.toNat ++ toBytes 2 r.pdid.toNat ++ toBytes 2 0 ++ w8 r.cycle.toNat ++
    List.replicate 16 0

/-- `FBPOP` (R394): the oldest record is taken out and written to the area; a held record may be accepted in the next
cycle. The buffer gives up one record in a cycle (R391): another `FBPOP` of the die is held until the next. -/
def execFbpop (d a : XReg) (s : State) : Host.Outcome State Fault Refusal :=
  act s (do
    s.permit 7 3 0
    let v := s.rx a
    if bitsOf v.toNat 1 5 != 0 || bitsOf v.toNat 56 8 != 0 then illegal 7 7 3
    let D := s.die s.myDie
    match D.fb with
    | [] => .ok (if v.getLsbD 0 then s.park (.reissue (.fbpop s.myDie)) else (s.wx d 1).finish)
    | r :: rest =>
      if s.cycle.popped.contains s.myDie then .error (.hold s)
      let va := v.toNat / 64 * 64
      let (t, l) ← orStop cDataXlate (s.locate s.req rW va)
      let u ← t.storeAt l va r.image
      let w := u.setDie s.myDie { u.die s.myDie with fb := rest }
      .ok (({ w with cycle := { w.cycle with popped := s.myDie :: w.cycle.popped } } : State).wx d 0).finish)

/-- `FBSTAT` (R394). -/
def execFbstat (d a : XReg) (s : State) : Host.Outcome State Fault Refusal :=
  act s (do
    s.permit 7 3 1
    if 1 < (s.rx a).toNat then illegal 7 7 3
    let D := s.die s.myDie
    let v := BitVec.ofNat 64 (D.fb.length + 2 ^ 16 * D.fbOvf.toNat + 2 ^ 32 * (D.fbHeld.length % 2 ^ 10))
    let t := if s.rx a = 1 then s.setDie s.myDie { D with fbOvf := false } else s
    .ok (t.wx d v).finish)

/-! ## Invalidation (R403, R238, R243) -/

/-- `PLBINV` (R403): it parks until it is complete in every unit. -/
def execPlbinv (a b : XReg) (s : State) : Host.Outcome State Fault Refusal :=
  act s (do
    s.permit 7 4 0
    let A := s.rx a
    let B := s.rx b
    let pdid := if A.getLsbD 63 then none else some (A.setWidth 12)
    let seg := if B.getLsbD 0 then none else some (segOf (vaOf B))
    .ok ((s.park (.invalidate (.plb pdid seg) s.ilen)).push .invalidateComplete (.ctx s.cur)))

/-- `TLBINV` (R403): it parks until it is complete in every unit. -/
def execTlbinv (a b : XReg) (s : State) : Host.Outcome State Fault Refusal :=
  act s (do
    s.permit 7 4 1
    let A := (s.rx a).toNat
    let B := (s.rx b).toNat
    if A % 65536 != 0 || B % 65536 != 0 || B == 0 then illegal 7 7 4
    .ok ((s.park (.invalidate (.tlb A B) s.ilen)).push .invalidateComplete (.ctx s.cur)))

/-- A PLB without the entries that an invalidation names. -/
def plbDrop (l : List PlbEntry) (pdid : Option (BitVec 12)) (seg : Option Nat) : List PlbEntry :=
  l.filter (fun e => !((pdid.isNone || pdid == some e.pdid) && (seg.isNone || seg == some e.seg)))

/-- An address lies in a range. -/
def inRangeOf (base size va : Nat) : Bool := decide (base ≤ va) && decide (va < base + size)

/-- A line of a committed bundle that is not installed lies in a range (R333). -/
def State.bundleIn (s : State) (base size : Nat) : Bool :=
  s.sets.any (fun (_, e) => e.pending.any (fun c =>
    (List.range (s.recLines c.record.toNat)).any (fun k =>
      inRangeOf base size (s.fwRead (c.record.toNat + 128 + 256 * k) 8) && s.fwRead (c.record.toNat + 136 + 256 * k) 8 % 2 == 0)))

/-- The TLBs without the pages of a range, which lies in the package's own addresses. -/
def State.dropTlbs (s : State) (base size : Nat) : State :=
  let gone (e : TlbEntry) : Bool := inRangeOf base size (s.pkg.toNat * 2 ^ 48 + e.page * 2 ^ 16)
  { s with dies := s.dies.map (fun (k, d) => (k, { d with tlb := d.tlb.filter (fun e => !gone e) })) }

/-- Every context's words of a range that it has fetched ahead are dropped with the caches that held them (R243). -/
def State.dropAhead (s : State) (base size : Nat) : State :=
  let f (x : Ctx) : Ctx := { x with views := { base := base, size := size, st := s.st } :: x.views }
  { s with me := f s.me, others := s.others.map (fun (k, x) => (k, f x)) }

/-- An invalidation complete: what it names is dropped in every unit. -/
def State.invalidate (s : State) (w : Inval) : State :=
  match w with
  | .plb pdid seg => { s with cores := s.cores.map (fun (k, c) => (k, { c with plb := plbDrop c.plb pdid seg })) }
  | .tlb base size => (((s.dropTlbs base size).dropAhead base size).recallRange base size).serveWaiting

/-- An invalidation may complete: a `TLBINV` waits for committed bundles with lines in its range (R333), and for holders in other
packages (R403). -/
def State.mayInvalidate (s : State) (w : Inval) : Bool :=
  match w with
  | .plb _ _ => true
  | .tlb base size => !s.bundleIn base size && !s.heldAway base size

/-- `INVALIDATE_COMPLETE` (R403). -/
def State.invalidateDone (s : State) (c : CtxId) : State :=
  match (s.ctx c).st, (s.ctx c).wait with
  | .wait, some (.invalidate w len) => if s.mayInvalidate w then (s.invalidate w).wakeOn c len else s
  | _, _ => s

/-- `INVALIDATE_COMPLETE` (R403). -/
def execInvalidateComplete (s : State) : Host.Outcome State Fault Refusal :=
  match s.opd with
  | .ctx c => .next (s.invalidateDone c)
  | _ => .next s

/-! ## Interrupts (R403, R29) -/

/-- `IRQRAISE` (R403). -/
def execIrqraise (a b : XReg) (s : State) : Host.Outcome State Fault Refusal :=
  act s (do
    s.permit 7 5 0
    let A := s.rx a
    let n := (s.rx b).toNat
    if A.getLsbD 63 then
      if bitsOf A.toNat 0 63 != 0 || 63 < n then illegal 7 7 5
      else .ok (s.raiseMgmt n).finish
    else if 2 ^ 12 ≤ A.toNat || 15 < n then illegal 7 7 5
    else .ok (s.raiseVector A.toNat n).finish)

/-- `INTERRUPT_UNMASK` (R29): firmware clears `MASK` of a vector; with `PENDING` set, the device clears it and performs the
write once. -/
def State.unmask (s : State) (pdid vec : Nat) : State :=
  let e := (s.domain pdid).ivtab.toNat + 16 * vec
  let ctl := s.fwRead (e + 12) 4
  let t := s.fwWrite (e + 12) 4 (ctl / 4 * 4)
  if bitOf ctl 1 then
    { t with hostOut := t.hostOut ++ [.write4 (BitVec.ofNat 64 (t.fwRead e 8)) (BitVec.ofNat 32 (t.fwRead (e + 8) 4))] }
  else t

/-- `INTERRUPT_UNMASK` (R29). -/
def execInterruptUnmask (s : State) : Host.Outcome State Fault Refusal :=
  match s.opd with
  | .vector pdid vec => .next (if (s.domain pdid.toNat).state = 0 then s else s.unmask pdid.toNat vec.toNat)
  | _ => .next s

/-! ## Power (R409, R373) -/

/-- Leases of a die, and those that it has asked for, rescaled to a new clock (R373). -/
def State.rescale (s : State) (d old new : Nat) : State :=
  let f (n : Nat) : Nat := if clockOf old = 0 then n else n * clockOf new / clockOf old
  { s with
    leases := s.leases.map (fun h => if h.agent == s.agentOf d then { h with left := f h.left, total := f h.total, usedAt := f h.usedAt } else h),
    cohWait := s.cohWait.map (fun r => if r.agent == s.agentOf d then { r with left := f r.left } else r) }

/-- A die set to a power state. -/
def State.setPower (s : State) (d p : Nat) : State :=
  (s.rescale d (s.die d).power p).setDie d { s.die d with power := p }

/-- A die holds nothing that keeps it from stopping (R409): no bound user or Keep context, no queued chunk, no engine command. -/
def State.mayStop (s : State) (d : Nat) : Bool :=
  let D := s.die d
  D.chunks.isEmpty && D.gangq.gangs.isEmpty && D.engines.all (fun (_, q) => q.isEmpty) &&
    s.allCtx.all (fun (c, x) => dieOf c != d || x.st == .idle || (match kindOf c with
      | .user => false
      | .keep => false
      | _ => true))

/-- The contexts that wait for a die to stop go on. -/
def State.wakeStop (s : State) (d : Nat) : State :=
  s.waiters.foldl (fun t (c, w) =>
    match w with
    | .powerStop k len => if k = d then t.wakeOn c len else t
    | _ => t) s

/-- A pending change to `STOP` made, once the die may stop. DEDUCED: no count is left of its leases (R373), so that it has written back
and released them all (R374; log entry 107). -/
def State.tryStop (s : State) (d : Nat) : State :=
  if (s.die d).stopPend && s.mayStop d then
    let u := s.setPower d 4
    let t := (u.leases.filter (fun h => h.agent == u.agentOf d)).foldl (fun v h => v.giveUp h.agent h.line true) u
    (t.setDie d { t.die d with stopPend := false }).wakeStop d
  else s

/-- `PWRSET` (R409). -/
def execPwrset (a b : XReg) (s : State) : Host.Outcome State Fault Refusal :=
  act s (do
    s.permit 7 6 0
    let d := (s.rx a).toNat
    let p := (s.rx b).toNat
    if 7 < d || 4 < p then illegal 7 7 6
    if p < 4 then .ok (s.setPower d p).finish
    else .ok (((s.setDie d { s.die d with stopPend := true }).park (.powerStop d s.ilen)).tryStop d))

/-- `STOP_WAKE` (R409): a die in `STOP` that placement or a message reaches returns to `P3`. -/
def execStopWake (s : State) : Host.Outcome State Fault Refusal :=
  match s.opd with
  | .unit d => .next (if (s.die d).power = 4 then s.setPower d 3 else s)
  | _ => .next s

/-- The die that the limiter slows: of those in `P0` to `P2` the fastest, ties to the lower number. -/
def State.fastest (s : State) : Option Nat :=
  let l := (List.range 8).filter (fun d => decide ((s.die d).power ≤ 2))
  match l with
  | [] => none
  | x :: r => some (r.foldl (fun m d => if (s.die d).power < (s.die m).power then d else m) x)

/-- `POWER_LIMITER_ACTION` (R409): module power has exceeded `PWRLIM` over 1 ms. -/
def execPowerLimiterAction (s : State) : Host.Outcome State Fault Refusal :=
  .next ((match s.fastest with
    | some d =>
      let x := s.die d
      (s.rescale d x.power (x.power + 1)).setDie d { x with power := x.power + 1 }
    | none => s).raiseMgmt 3)

end Sys2Proof.Machine
end

