-- ==== Sys2Proof/Machine/Sha.lean ====
section
/-! DEFINITION. SHA-256 and the verification of an RSASSA-PKCS1-v1_5 signature, which spec/15_interruption.md R406 names for
firmware images (PRESUMED: the algorithms are those of FIPS 180-4 and of RFC 8017). -/

namespace Sys2Proof.Machine

/-- A 32-bit word of the hash. -/
abbrev Sha32 := BitVec 32

/-- The largest `r` below 2^`bits`, above the bits already settled in `acc`, with `r`^`k` at most `n`. -/
def rootFloor (k n bits acc : Nat) : Nat :=
  match bits with
  | 0 => acc
  | j + 1 => rootFloor k n j (if (acc + 2 ^ j) ^ k ≤ n then acc + 2 ^ j else acc)

/-- The first 32 bits of the fraction of the `k`th root of `p`: FIPS 180-4 draws its constants from such fractions. -/
def rootBits (k p : Nat) : Sha32 := BitVec.ofNat 32 (rootFloor k (p * 2 ^ (32 * k)) 40 0)

/-- The primes below `n`, rising. -/
def primesBelow (n : Nat) : List Nat :=
  (List.range n).filter fun p => decide (2 ≤ p) && (List.range p).all fun d => decide (d < 2) || decide (p % d ≠ 0)

/-- The words added round by round: of the cube roots of the 64 primes below 312. -/
def shaSteps : List Sha32 := (primesBelow 312).map (rootBits 3)

/-- The chaining value as two ladders of four words, each the newest word first: a round puts one word on either ladder. -/
structure Ladders where
  left : List Sha32
  right : List Sha32
  deriving DecidableEq, Repr

/-- The chaining value before the first block: of the square roots of the first eight primes. -/
def Ladders.start : Ladders :=
  let w := (primesBelow 20).map (rootBits 2)
  { left := w.take 4, right := w.drop 4 }

/-- The exclusive or of rotations of a word to the right, by the counts given. -/
def turned (x : Sha32) (counts : List Nat) : Sha32 := counts.foldl (fun y n => y ^^^ x.rotateRight n) 0

/-- One round, with a schedule word and its constant added to one word. -/
def Ladders.climb (v : Ladders) (add : Sha32) : Ladders :=
  match v.left, v.right with
  | [l0, l1, l2, l3], [r0, r1, r2, r3] =>
    let up := add + r3 + turned r0 [25, 11, 6] + (r2 ^^^ (r0 &&& (r1 ^^^ r2)))
    let most := (l0 &&& (l1 ||| l2)) ||| (l1 &&& l2)
    { left := [up + most + turned l0 [22, 13, 2], l0, l1, l2], right := [l3 + up, r0, r1, r2] }
  | _, _ => v

/-- The schedule's word after the sixteen given, the oldest first. -/
def shaNext (w : List Sha32) : Sha32 :=
  let old := w.getD 1 0
  let new := w.getD 14 0
  w.getD 0 0 + w.getD 9 0 + (turned old [18, 7] ^^^ (old >>> 3)) + (turned new [19, 17] ^^^ (new >>> 10))

/-- The rounds of a block: each takes the schedule's oldest word and puts the next one behind the sixteen. -/
def Ladders.rounds (v : Ladders) (w : List Sha32) (steps : List Sha32) : Ladders :=
  match steps with
  | [] => v
  | k :: rest => (v.climb (w.getD 0 0 + k)).rounds (w.tail ++ [shaNext w]) rest

/-- A big-endian number of bytes. -/
def bigEnd (l : List Byte) : Nat := l.foldl (fun n b => n * 256 + b.toNat) 0

/-- The words of a block of 64 bytes. -/
def shaWords (l : List Byte) (n : Nat) : List Sha32 :=
  match n with
  | 0 => []
  | k + 1 => BitVec.ofNat 32 (bigEnd (l.take 4)) :: shaWords (l.drop 4) k

/-- The chaining value after a block. -/
def Ladders.block (v : Ladders) (l : List Byte) : Ladders :=
  let r := v.rounds (shaWords l 16) shaSteps
  { left := v.left.zipWith (· + ·) r.left, right := v.right.zipWith (· + ·) r.right }

/-- The chaining value after `n` blocks. -/
def Ladders.blocks (v : Ladders) (l : List Byte) (n : Nat) : Ladders :=
  match n with
  | 0 => v
  | k + 1 => (v.block (l.take 64)).blocks (l.drop 64) k

/-- A message with its padding. -/
def shaPad (l : List Byte) : List Byte :=
  l ++ [0x80] ++ List.replicate ((119 - l.length % 64) % 64) 0 ++ (toBytes 8 (8 * l.length)).reverse

/-- SHA-256. -/
def sha256 (l : List Byte) : BitVec 256 :=
  let p := shaPad l
  let v := Ladders.start.blocks p (p.length / 64)
  BitVec.ofNat 256 ((v.left ++ v.right).foldl (fun n w => n * 2 ^ 32 + w.toNat) 0)

/-- `b`^`e` mod `n`, over `k` bits of `e`. -/
def powMod (b e n k : Nat) : Nat :=
  match k with
  | 0 => 1 % n
  | j + 1 => (if e % 2 = 1 then b else 1) * powMod (b * b % n) (e / 2) n j % n

/-- The encoded message of a digest for a modulus of 384 bytes: the prefix of a SHA-256 `DigestInfo`, then the digest. -/
def emsa (digest : BitVec 256) : Nat :=
  let info : List Byte := [0x30, 0x31, 0x30, 0x0d, 0x06, 0x09, 0x60, 0x86, 0x48, 0x01, 0x65, 0x03, 0x04, 0x02, 0x01, 0x05, 0x00, 0x04, 0x20]
  bigEnd ([0, 1] ++ List.replicate 330 0xFF ++ [0] ++ info ++ (toBytes 32 digest.toNat).reverse)

/-- A signature verifies over a message. -/
def rsaVerify (modulus exponent sig : Nat) (msg : List Byte) : Bool :=
  decide (0 < modulus) && decide (sig < modulus) && powMod sig exponent modulus 32 == emsa (sha256 msg)

end Sys2Proof.Machine
end

