-- ==== Sys2Proof/Machine/Activate.lean ====
section
/-! DEFINITION. Firmware images, activation and boot (spec/15_interruption.md R405 to R407). -/

namespace Sys2Proof.Machine

/-! ## Images (R406) -/

/-- A firmware image's fields. -/
structure Image where
  magic : Nat
  secver : Nat
  size : Nat
  entry : Nat
  nlayout : Nat
  layouts : List Nat
  rsv : Bool
  modulus : List Byte
  exponent : List Byte
  deriving DecidableEq, Repr

/-- The fields of an image's first 512 bytes. -/
def imageForm (l : List Byte) : Image :=
  let n := fieldAt l 0x10 2
  { magic := fieldAt l 0 4, secver := fieldAt l 4 4, size := fieldAt l 8 4, entry := fieldAt l 0xC 4, nlayout := n,
    layouts := (List.range 8).map (fun k => fieldAt l (0x12 + 2 * k) 2),
    rsv := fieldAt l 0x22 30 != 0 || fieldAt l 0x1C4 60 != 0, modulus := (l.drop 0x40).take 384, exponent := (l.drop 0x1C0).take 4 }

/-- The image's fields are in range and its reserved bytes 0 (status 2). -/
def Image.ok (i : Image) : Bool :=
  i.magic == 0x57464C41 && i.size % 512 == 0 && i.entry % 2 == 0 && decide (i.entry < i.size) && decide (1 ≤ i.nlayout) &&
    decide (i.nlayout ≤ 8) && (i.layouts.drop i.nlayout).all (· == 0) && !i.rsv

/-- The key of an image is trusted (R406). `EXPONENT` is a little-endian field, as R406's other numbers are. -/
def Image.trusted (i : Image) : Bool :=
  let d := sha256 (i.modulus ++ i.exponent)
  (List.range 4).any (fun k => d == Config.fusedKey k && !Config.keyRevoked k)

/-- The signature over the image's bytes 0 to 0x1FF + `SIZE` verifies (R406). -/
def Image.signed (i : Image) (body sig : List Byte) : Bool := rsaVerify (bigEnd i.modulus) (ofBytes i.exponent) (bigEnd sig) body

/-- The status of an image's checks 2 to 4, in order; 0 where it passes them (R406). -/
def imageStatus (i : Image) (body sig : List Byte) : Nat :=
  if !i.ok then 2
  else if !i.trusted || !i.signed body sig then 3
  else if i.secver < Config.secverMin.toNat then 4
  else 0

/-! ## Firmware contexts (R407) -/

/-- Every firmware context of every side and Keep. -/
def fwContexts : List CtxId :=
  (List.range 1536).map (fun k => { keep := false, unit := k / 2, side := k % 2 == 1, slot := 9 }) ++
    (List.range 96).map (fun k => { keep := true, unit := k, side := false, slot := 3 })

/-- `SPILLBASE` of a firmware context (R343). -/
def State.fwSpill (s : State) (c : CtxId) : VAddr :=
  if c.keep then (s.pod c.unit).fwspill else (s.core c.unit).fwspill + BitVec.ofNat 56 (4096 * c.side.toNat + 2048)

/-- A firmware context as it starts (R407): `x1` its master selector, `x2` 1 for boot or 2 for activation. -/
def fwStart (c : CtxId) (entry spill : VAddr) (why : Nat) : Ctx :=
  { Ctx.reset with st := .run, pc := entry, x := regsOf [0, BitVec.ofNat 64 (selWord (masterOf c)), BitVec.ofNat 64 why], spillBase := spill }

/-- Firmware contexts started at an image's entry, but for one. -/
def State.startFw (s : State) (entry : VAddr) (why : Nat) (but : Option CtxId) : State :=
  (fwContexts.filter (fun c => some c != but)).foldl (fun t c =>
    (t.cutOff c).setCtx c ((fwStart c entry (t.fwSpill c) why).fetchFrom t.st)) s

/-! ## `ACTIVATE` (R406) -/

/-- `n` bytes from an address as firmware reads them, in pieces of 64 bytes. -/
def State.readImage (s : State) (r : Req) (va n fuel : Nat) : Except Stop (List Byte) :=
  match fuel with
  | 0 => .ok []
  | k + 1 => do
    let m := min n (64 - va % 64)
    if m = 0 then .ok []
    else
      let (_, l) ← orStop cDataXlate (s.locate r 0 (va % 2 ^ 56))
      let rest ← s.readImage r (va + m) (n - m) k
      .ok (s.st.get l m ++ rest)

/-- The queue and layout of each save: those of the saved-firing table, and those under way, whose pre-emption has been performed and
which will have this device's layout (R398, R406). -/
def State.saves (s : State) : List (Nat × Nat) :=
  (List.range saveEntries).filterMap (fun k =>
    if bitOf (s.fwRead (s.saveEntry k) 8) 0 then
      let w := s.fwRead (s.saveEntry k + 8) 8
      some (bitsOf w 0 12, bitsOf w 16 16)
    else none) ++
  s.allCtx.filterMap (fun (_, x) => if x.saving.isSome then some (bitsOf x.fid.toNat 40 12, 1) else none)

/-- The queues, once each and in ascending order, of saves that hold a layout which an image does not accept (R406). -/
def State.heldQueues (s : State) (i : Image) : List Nat :=
  s.saves.foldl (fun l e => if (i.layouts.take i.nlayout).contains e.2 || l.contains e.1 then l else putAsc e.1 l) []

/-- The list that `LAYOUT_HELD` writes (R406): a count, then the queue numbers. -/
def State.writeHeld (s : State) (list : Nat) (l : List Nat) : State :=
  s.fwPut list (toBytes 2 l.length ++ l.flatMap (toBytes 2)) (l.length / 16 + 3)

/-- The measurement of an image (R407): its SHA-256 digest (R408). Whether the signature is a measured part of it is free (log entry 116). -/
def measure (body sig : List Byte) : BitVec 256 := sha256 (if Config.measuresSig then body ++ sig else body)

/-- The image installed (R406): `FWIMAGE`, measurement slot 3, and every firmware context but the executing one. -/
def State.install (s : State) (image : Nat) (i : Image) (digest : BitVec 256) (but : Option CtxId) : State :=
  let t : State := { s with mgmt := { s.mgmt with fwimage := BitVec.ofNat 56 image, slots := s.mgmt.slots.set 3 digest } }
  t.startFw (BitVec.ofNat 56 (image + 0x200 + i.entry)) 2 but

/-- Checks 2, 3, 4 and 1 of an activation in order, and the installation or the list (R406): the state and the status. -/
def State.activateAt (s : State) (r : Req) (image list : Nat) (but : Option CtxId) : Except Stop (State × Nat) := do
  if image % 512 != 0 || 2 ^ 56 ≤ image then .ok (s, 2)
  else
    let head ← s.readImage r image 512 10
    let i := imageForm head
    if !i.ok then .ok (s, 2)
    else
      let body ← s.readImage r image (0x200 + i.size) (i.size / 64 + 10)
      let sig ← s.readImage r (image + 0x200 + i.size) 384 8
      let st := imageStatus i body sig
      if st != 0 then .ok (s, st)
      else
        let held := s.heldQueues i
        if held.isEmpty then .ok (s.install image i (measure body sig) but, 0) else .ok (s.writeHeld list held, 1)

/-- An activation under way by a context, or by none. -/
def State.setActivating (s : State) (c : Option CtxId) : State := { s with mgmt := { s.mgmt with activating := c } }

/-- `ACTIVATE` (R406): the first issue begins the activation, and the context holds until it is carried out at a later one. One
that meets another's returns `BUSY`. -/
def execActivate (d a b : XReg) (s : State) : Host.Outcome State Fault Refusal :=
  act s (do
    s.permit 7 7 0
    if (s.rx b).toNat % 8 != 0 then illegal 7 7 7
    match s.mgmt.activating with
    | none => .error (.hold (s.setActivating (some s.cur)))
    | some c =>
      if c != s.cur then .ok (s.wx d 5).finish
      else
        match s.activateAt s.req (s.rx a).toNat (vaOf (s.rx b)) (some s.cur) with
        | .error e => .ok ((s.setActivating none).stop e)
        | .ok (t, v) => .ok ((t.setActivating none).wx d (BitVec.ofNat 64 v)).finish)

/-! ## Boot (R407) -/

/-- The image in the boot flash. -/
def State.bootImage (s : State) : Image := imageForm (s.mgmt.flash.readN 0 512)

/-- Boot (R407): the image in the boot flash is checked without the layout check, measured, placed where `Config.bootAt` says,
and started; on a failed check `BOOTSTAT` says so and nothing starts. -/
def State.boot (s : State) : State :=
  let i := s.bootImage
  let body := if i.ok then s.mgmt.flash.readN 0 (0x200 + i.size) else []
  let sig := if i.ok then s.mgmt.flash.readN (0x200 + i.size) 384 else []
  let st := imageStatus i body sig
  if st != 0 then { s with mgmt := { s.mgmt with bootstat := BitVec.ofNat 8 (0x10 + st) } }
  else
    let pa := 512 * Config.bootAt.toNat
    let m := measure body sig
    let slots := (((s.mgmt.slots.set 1 Config.romDigest).set 2 m).set 3 m).set 4 Config.fuseDigest
    let image := s.pkg.toNat * 2 ^ 48 + pa
    let t : State := { s with
      mgmt := { s.mgmt with bootstat := 1, fwimage := BitVec.ofNat 56 image, slots := slots },
      st := { s.st with dram := { s.st.dram with bytes := s.st.dram.bytes.writeN pa (body ++ sig) } } }
    t.startFw (BitVec.ofNat 56 (image + 0x200 + i.entry)) 1 none

end Sys2Proof.Machine
end

