-- ==== Sys2Proof/Machine/Graphics.lean ====
section
/-! DEFINITION. Edge functions, barycentric weights and traversal tests (spec/08_graphics.md R214 to R224). -/

namespace Sys2Proof.Machine

/-- The check of a block of `k` groups (R215). -/
def VForm.block (f : VForm) (v : VecState) (n k : Nat) : Except Stop Unit :=
  f.need (n % v.g == 0 && decide (n + k * v.g ≤ v.vregs))

/-- The requirements that page-3 vector forms share (R214): lanes, and 32-bit elements. -/
def State.gfxBegin (s : State) (f : VForm) : Except Stop Unit := do
  s.vecBegin f
  f.need (s.me.vec.sew == 32)

/-- Element `i` of group `j` of a block. -/
def VecState.blk (v : VecState) (n : VNum) (j i : Nat) : Nat := v.elem (n.toNat + j * v.g) i 32

/-- A destination group of 32-bit elements written, from a list of index and value. -/
def State.putGroup (s : State) (n : Nat) (l : List (Nat × Nat)) : State :=
  s.withVec ((s.me.vec.setElems n 32 l).note n 0 s.me.vec.g s.me.vec.len 32)

/-! ## Packed positions (R217) -/

/-- A position: signed coordinates in 1/16 pixel. -/
structure Pos where
  x : Int
  y : Int
  deriving DecidableEq, Repr

/-- `Px` and `Py`. -/
def posOf (p : Nat) : Pos := ⟨signedNat 16 p, signedNat 16 (p / 2 ^ 16)⟩

/-- Both coordinates are in range. -/
def Pos.inRange (p : Pos) : Bool := decide (-8192 ≤ p.x ∧ p.x ≤ 8191 ∧ -8192 ≤ p.y ∧ p.y ≤ 8191)

/-- `EdgeVal`. -/
def edgeVal (p a b : Pos) : Int := (b.x - a.x) * (p.y - a.y) - (b.y - a.y) * (p.x - a.x)

/-- `TopLeft`. -/
def topLeft (a b : Pos) : Bool := decide (b.y - a.y < 0) || (b.y == a.y && decide (0 < b.x - a.x))

/-- An edge counts a point inside: a positive value, or 0 on a top-left edge. -/
def edgeIn (p a b : Pos) : Bool := decide (0 < edgeVal p a b) || (edgeVal p a b == 0 && topLeft a b)

/-- `Area`. -/
def triArea (v0 v1 v2 : Pos) : Int := edgeVal v2 v0 v1

/-- Vertex `j` of the vertex operand (R215). -/
def VecState.vertex (v : VecState) (b : VNum) (j : Nat) : Pos := posOf (v.elem b.toNat j 32)

/-- A major-0 form over the active elements (R218). -/
def State.edgeForm (s : State) (f : VForm) (d a b : VNum) (k : MReg) (e : Pos → Pos → Pos → Pos → NRes) : Except Stop State := do
  s.gfxBegin f
  let v := s.me.vec
  f.group v d.toNat v.g
  f.group v a.toNat v.g
  f.group v b.toNat v.g
  .ok (s.vecResult d ((v.active k).map (fun i =>
    (i, e (posOf (v.elem a.toNat i 32)) (v.vertex b 0) (v.vertex b 1) (v.vertex b 2)))))

/-- The result of `VEDGE`, and of `VEDGETL` when `tl` (R218). -/
def edgeRes (tl : Bool) (p v0 v1 _v2 : Pos) : NRes :=
  if p.inRange && v0.inRange && v1.inRange then
    ⟨wrapInt 32 (edgeVal p v0 v1 - (if tl && !topLeft v0 v1 then 1 else 0)), Raised.none⟩
  else ⟨0x80000000, fSAT⟩

/-- The result of `VCOVER` (R218). -/
def coverRes (p v0 v1 v2 : Pos) : NRes :=
  if p.inRange && v0.inRange && v1.inRange && v2.inRange then
    ⟨(decide (0 < triArea v0 v1 v2) && edgeIn p v0 v1 && edgeIn p v1 v2 && edgeIn p v2 v0).toNat, Raised.none⟩
  else ⟨0, fSAT⟩

/-- `VEDGE` (R218). -/
def execVedge (d a b : VNum) (k : MReg) (s : State) : Host.Outcome State Fault Refusal :=
  act s (s.edgeForm ⟨3, 0, 0⟩ d a b k (edgeRes false))
/-- `VEDGETL` (R218). -/
def execVedgetl (d a b : VNum) (k : MReg) (s : State) : Host.Outcome State Fault Refusal :=
  act s (s.edgeForm ⟨3, 0, 1⟩ d a b k (edgeRes true))
/-- `VCOVER` (R218). -/
def execVcover (d a b : VNum) (k : MReg) (s : State) : Host.Outcome State Fault Refusal :=
  act s (s.edgeForm ⟨3, 0, 2⟩ d a b k coverRes)

/-! ## Barycentric weights (R219) -/

/-- An exact ratio rounded once to FP32; a ratio of 0 gives +0 (DEDUCED, log entry 10). -/
def ratioRes (md : RMode) (num den : Int) : NRes :=
  let sh := 28 + Nat.log2 den.natAbs
  let q := num.natAbs * 2 ^ sh
  if num = 0 then ⟨0, Raised.none⟩
  else roundFin fp32 md false (decide (num < 0) != decide (den < 0)) (q / den.natAbs) (-(sh : Int)) (q % den.natAbs != 0)

/-- A finite FP32 value as a multiple of 2^−149, the place of its least subnormal. -/
def fpInt (x : FV) : Int :=
  match x with
  | .fin n m e => scaled n m e (-149)
  | _ => 0

/-- The pair of weights of one element. -/
structure Weights where
  w1 : NRes
  w2 : NRes
  deriving DecidableEq, Repr

/-- Both weights the canonical NaN, with flags. -/
def nanWeights (fl : Raised) : Weights := ⟨⟨fp32.nan, fl⟩, ⟨fp32.nan, fl⟩⟩

/-- A flag where a condition holds. -/
def flagIf (c : Bool) (f : Raised) : Raised := if c then f else Raised.none

/-- The weights of `VBARY` (R219). -/
def baryRes (md : RMode) (p v0 v1 v2 : Pos) : Weights :=
  let A := triArea v0 v1 v2
  let out := !(p.inRange && v0.inRange && v1.inRange && v2.inRange)
  if out || decide (A ≤ 0) then nanWeights ((flagIf out fSAT).or (flagIf (decide (A ≤ 0)) fNV))
  else ⟨ratioRes md (edgeVal p v2 v0) A, ratioRes md (edgeVal p v0 v1) A⟩

/-- A perspective weight that `VBARYP` refuses: NaN, infinite, or at most 0. -/
def badQ (x : FV) : Bool :=
  match x with
  | .fin n m _ => n || m == 0
  | _ => true

/-- The weights of `VBARYP` (R219). -/
def barypRes (md : RMode) (p v0 v1 v2 : Pos) (q0 q1 q2 : FV) : Weights :=
  let A := triArea v0 v1 v2
  let out := !(p.inRange && v0.inRange && v1.inRange && v2.inRange)
  let bad := badQ q0 || badQ q1 || badQ q2
  let n1 := edgeVal p v2 v0 * fpInt q1
  let n2 := edgeVal p v0 v1 * fpInt q2
  let D := edgeVal p v1 v2 * fpInt q0 + n1 + n2
  let nv := decide (A ≤ 0) || bad || D == 0
  if out || nv then nanWeights ((flagIf out fSAT).or (flagIf nv fNV))
  else ⟨ratioRes md n1 D, ratioRes md n2 D⟩

/-- Results of the active elements for the groups of a destination block, with the flags raised (R214, R220). -/
def State.blockResult (s : State) (d : VNum) (groups : List (List (Nat × Nat))) (fl : Raised) : State :=
  let g := s.me.vec.g
  ((groups.zipIdx.foldl (fun t p => t.putGroup (d.toNat + p.2 * g) p.1) s).raise fl).vecFinish

/-- A barycentric form (R219). -/
def State.baryForm (s : State) (f : VForm) (d a b : VNum) (k : MReg) (e : Pos → Weights) : Except Stop State := do
  s.gfxBegin f
  let v := s.me.vec
  f.block v d.toNat 2
  f.group v a.toNat v.g
  f.group v b.toNat v.g
  let r := (v.active k).map (fun i => (i, e (posOf (v.elem a.toNat i 32))))
  .ok (s.blockResult d [r.map (fun p => (p.1, p.2.w1.v)), r.map (fun p => (p.1, p.2.w2.v))]
    (r.foldl (fun fl p => fl.or (p.2.w1.fl.or p.2.w2.fl)) Raised.none))

/-- `VBARY` (R219). -/
def execVbary (d a b : VNum) (k : MReg) (s : State) : Host.Outcome State Fault Refusal :=
  let v := s.me.vec
  act s (s.baryForm ⟨3, 1, 0⟩ d a b k (fun p => baryRes (s.rmode 0) p (v.vertex b 0) (v.vertex b 1) (v.vertex b 2)))

/-- `VBARYP` (R219). -/
def execVbaryp (d a b : VNum) (k : MReg) (s : State) : Host.Outcome State Fault Refusal :=
  let v := s.me.vec
  let q (j : Nat) : FV := fp32.val (v.elem b.toNat (3 + j) 32)
  act s (s.baryForm ⟨3, 1, 1⟩ d a b k (fun p =>
    barypRes (s.rmode 0) p (v.vertex b 0) (v.vertex b 1) (v.vertex b 2) (q 0) (q 1) (q 2)))

/-! ## Traversal tests (R220 to R224) -/

/-- An extended rational: a ratio with positive denominator, or an infinity. -/
inductive ERat where
  | ninf
  | fin (n : Int) (d : Nat)
  | pinf
  deriving DecidableEq, Repr

/-- At most, on extended rationals. -/
def ERat.le (a b : ERat) : Bool :=
  match a, b with
  | .ninf, _ => true
  | _, .pinf => true
  | .fin n d, .fin m e => decide (n * (e : Int) ≤ m * (d : Int))
  | _, _ => false

def ERat.max (a b : ERat) : ERat := if a.le b then b else a
def ERat.min (a b : ERat) : ERat := if a.le b then a else b

/-- The extended value of an FP32 value that is not NaN. -/
def eratOf (x : FV) : ERat :=
  match x with
  | .inf n => if n then .ninf else .pinf
  | y => .fin (fpInt y) (2 ^ 149)

/-- (b − o) / d for an extended b and finite o and d ≠ 0, all in multiples of 2^−149. -/
def slab (b : FV) (o d : Int) : ERat :=
  match b with
  | .inf n => if n == decide (d < 0) then .pinf else .ninf
  | y => .fin (if d < 0 then -(fpInt y - o) else fpInt y - o) d.natAbs

/-- The value rounded to FP32 in a mode, as a code. -/
def ERat.round (r : ERat) (md : RMode) : Nat :=
  match r with
  | .ninf => 2 ^ 31 + fp32.infCode
  | .pinf => fp32.infCode
  | .fin n d => (ratioRes md n d).v

/-- A ray: origin, direction, and range (R220). -/
structure Ray where
  o : List FV
  d : List FV
  tmin : FV
  tmax : FV
  deriving DecidableEq, Repr

/-- An infinity. -/
def FV.isInf (x : FV) : Bool :=
  match x with
  | .inf _ => true
  | _ => false

/-- A zero. -/
def FV.isZero (x : FV) : Bool :=
  match x with
  | .fin _ m _ => m == 0
  | _ => false

/-- The FP32 values of groups `j` to `j` + `n` − 1 of a block, for element `i`. -/
def VecState.vals (v : VecState) (n : VNum) (j cnt i : Nat) : List FV := (List.range cnt).map (fun q => fp32.val (v.blk n (j + q) i))

/-- Ray `i` of a ray block. -/
def VecState.ray (v : VecState) (a : VNum) (i : Nat) : Ray :=
  ⟨v.vals a 0 3 i, v.vals a 3 3 i, fp32.val (v.blk a 6 i), fp32.val (v.blk a 7 i)⟩

/-- A ray that misses everything: a NaN, an infinite origin or direction component, a zero direction, or an empty range. -/
def Ray.bad (r : Ray) : Bool :=
  (r.o ++ r.d).any (fun x => x.isNan || x.isInf) || r.tmin.isNan || r.tmax.isNan || r.d.all FV.isZero || r.tmax.lt r.tmin

/-- One axis of `BOXT` (R222): the interval narrowed, or a miss. -/
def boxAxis (acc : Option (ERat × ERat)) (ax : (FV × FV) × (FV × FV)) : Option (ERat × ERat) :=
  match acc with
  | none => none
  | some (enter, exit) =>
    let o := ax.1.1
    let d := ax.1.2
    let lo := ax.2.1
    let hi := ax.2.2
    if hi.lt lo then none
    else if d.isZero then (if o.lt lo || hi.lt o then none else some (enter, exit))
    else
      let t1 := slab lo (fpInt o) (fpInt d)
      let t2 := slab hi (fpInt o) (fpInt d)
      some (enter.max (t1.min t2), exit.min (t1.max t2))

/-- `BOXT` of one ray and box (R222): the code of t, and the status. -/
def boxTest (r : Ray) (lo hi : List FV) : Nat × Nat :=
  if r.bad || (lo ++ hi).any FV.isNan then (fp32.infCode, 0)
  else
    match ((r.o.zip r.d).zip (lo.zip hi)).foldl boxAxis (some (eratOf r.tmin, eratOf r.tmax)) with
    | none => (fp32.infCode, 0)
    | some (enter, exit) => if enter.le exit then (enter.round .rdn, 1) else (fp32.infCode, 0)

/-- The budget taken by a traversal test at issue (R221). -/
def State.takeBudget (s : State) : State :=
  let c := s.me.travBudget.toNat
  s.withMe { s.me with travBudget := BitVec.ofNat 32 (c - min c s.me.vec.len) }

/-- `BOXT` (R220 to R222). -/
def execBoxt (d a b : VNum) (k : MReg) (s : State) : Host.Outcome State Fault Refusal :=
  act s (do
    let f : VForm := ⟨3, 2, 0⟩
    s.gfxBegin f
    let v := s.me.vec
    f.block v d.toNat 2
    f.block v a.toNat 8
    f.block v b.toNat 6
    let c := s.me.travBudget.toNat
    let r := (v.active k).map (fun i =>
      (i, if i < c then boxTest (v.ray a i) (v.vals b 0 3 i) (v.vals b 3 3 i) else (fp32.infCode, 3)))
    .ok (s.takeBudget.blockResult d [r.map (fun p => (p.1, p.2.1)), r.map (fun p => (p.1, p.2.2))] Raised.none))

/-- A vector of three integers. -/
structure V3 where
  x : Int
  y : Int
  z : Int
  deriving DecidableEq, Repr

def V3.sub (a b : V3) : V3 := ⟨a.x - b.x, a.y - b.y, a.z - b.z⟩
def V3.dot (a b : V3) : Int := a.x * b.x + a.y * b.y + a.z * b.z
def V3.cross (a b : V3) : V3 := ⟨a.y * b.z - a.z * b.y, a.z * b.x - a.x * b.z, a.x * b.y - a.y * b.x⟩

/-- Three finite values as a vector, in multiples of 2^−149. -/
def v3Of (l : List FV) : V3 :=
  match l with
  | [a, b, c] => ⟨fpInt a, fpInt b, fpInt c⟩
  | _ => ⟨0, 0, 0⟩

/-- A result of `TRIT`: codes of t, u and v, and the status. -/
structure TriRes where
  t : Nat
  u : Nat
  v : Nat
  st : Nat
  deriving DecidableEq, Repr

/-- A result without a hit. -/
def triMiss (st : Nat) : TriRes := ⟨fp32.infCode, 0, 0, st⟩

/-- A ratio with its denominator made positive. -/
def eratRatio (n d : Int) : ERat := if d < 0 then .fin (-n) d.natAbs else .fin n d.natAbs

/-- `TRIT` of one ray and triangle (R223). With q = o − p0 and D = N · d, the
solution of o + t·d = p0 + u·e1 + v·e2 is t = −(N · q) / D, u = (d × q) · e2 / D and v = −(d × q) · e1 / D. -/
def triTest (r : Ray) (p0 p1 p2 : List FV) : TriRes :=
  if r.bad || (p0 ++ p1 ++ p2).any (fun x => x.isNan || x.isInf) then triMiss 0
  else
    let o := v3Of r.o
    let d := v3Of r.d
    let e1 := (v3Of p1).sub (v3Of p0)
    let e2 := (v3Of p2).sub (v3Of p0)
    let n := e1.cross e2
    let D := n.dot d
    if D = 0 then triMiss 0
    else
      let q := o.sub (v3Of p0)
      let tn := -(n.dot q)
      let un := (d.cross q).dot e2
      let vn := -((d.cross q).dot e1)
      let t := eratRatio tn D
      let u := eratRatio un D
      let v := eratRatio vn D
      let uv := eratRatio (un + vn) D
      let zero : ERat := .fin 0 1
      if zero.le u && zero.le v && uv.le (.fin 1 1) && (eratOf r.tmin).le t && t.le (eratOf r.tmax) then
        ⟨t.round .rne, u.round .rne, v.round .rne, if D < 0 then 1 else 2⟩
      else triMiss 0

/-- `TRIT` (R220, R221, R223). -/
def execTrit (d a b : VNum) (k : MReg) (s : State) : Host.Outcome State Fault Refusal :=
  act s (do
    let f : VForm := ⟨3, 3, 0⟩
    s.gfxBegin f
    let v := s.me.vec
    f.block v d.toNat 4
    f.block v a.toNat 8
    f.block v b.toNat 9
    let c := s.me.travBudget.toNat
    let r := (v.active k).map (fun i =>
      (i, if i < c then triTest (v.ray a i) (v.vals b 0 3 i) (v.vals b 3 3 i) (v.vals b 6 3 i) else triMiss 3))
    .ok (s.takeBudget.blockResult d
      [r.map (fun p => (p.1, p.2.t)), r.map (fun p => (p.1, p.2.u)), r.map (fun p => (p.1, p.2.v)),
       r.map (fun p => (p.1, p.2.st))] Raised.none))

end Sys2Proof.Machine
end

