-- ==== Sys2Proof/Machine/Tables.lean ====
section
/-! DEFINITION. What firmware keeps for the host: domains, windows, queues, masters, Keeps, and the configuration of the package
(spec/01_work_and_launch.md R23 to R32, spec/15_interruption.md R404, R409, spec/11_matrix.md R285, R287). Each operation
answers with the state and the `STATUS` of its command. -/

namespace Sys2Proof.Machine

/-! ## Domains (R23 to R25) -/

/-- A domain-set image's fields. -/
structure DomainImage where
  state : Nat
  tcok : Nat
  qmax : Nat
  ctxmax : Nat
  ivtab : Nat
  spillarea : Nat
  log2spill : Nat
  rsv : Bool
  deriving DecidableEq, Repr

/-- The fields of a 64-byte image (R23). -/
def domainForm (l : List Byte) : DomainImage :=
  { state := fieldAt l 0 1, tcok := fieldAt l 1 1, qmax := fieldAt l 2 2, ctxmax := fieldAt l 4 4, ivtab := fieldAt l 0x18 8,
    spillarea := fieldAt l 0x20 8, log2spill := fieldAt l 0x28 1, rsv := fieldAt l 0x12 6 != 0 || fieldAt l 0x29 23 != 0 }

/-- The image's fields are in range (R23). -/
def DomainImage.ok (i : DomainImage) : Bool :=
  decide (i.tcok ≤ 1) && decide (i.qmax ≤ 4096) && i.ivtab % 256 == 0 && decide (i.ivtab < 2 ^ 56) && decide (8 ≤ i.log2spill) &&
    decide (i.log2spill ≤ 16) && i.spillarea % 2 ^ i.log2spill == 0 && decide (i.spillarea < 2 ^ 56) && !i.rsv

/-- The span of a spill area lies within windows that grant `R` and `W` (R28). -/
def spillCovered (wins : SMap Window) (area lg : Nat) : Bool :=
  let first := segOf area
  (List.range (segOf (area + 12672 * 2 ^ lg - 1) - first + 1)).all (fun k =>
    match windowAt wins (first + k) with
    | some w => (w.rights &&& rRW) == rRW
    | none => false)

/-- The queues of a domain that are not `DISABLED`, without queue `but`. -/
def State.liveQueues (s : State) (pdid : Nat) (but : Option Nat) : List Queue :=
  (s.queues.filter (fun (k, q) => q.pdid.toNat == pdid && q.state != .disabled && some k != but)).map (·.2)

/-- A user or Keep context of a domain is bound (R24, R25). -/
def State.domainBound (s : State) (pdid : Nat) : Bool :=
  s.allCtx.any (fun (c, x) => (kindOf c == .user || kindOf c == .keep) && x.st != .idle && x.pdid.toNat == pdid)

/-- `PGROOT.EN` is 1 on all eight compute dies (R25, R241). -/
def State.pagesOn (s : State) : Bool := (List.range 8).all (fun d => (s.die d).pgEn)

/-- An open gang packet of the domain has gangs of more than `n` contexts (R54). -/
def State.gangAbove (s : State) (pdid n : Nat) : Bool :=
  s.packets.any (fun p => p.pdid.toNat == pdid && (match p.work with
    | .nest card _ => card.gangLevel.isSome && decide (n < card.gangSize)
    | _ => false))

/-- A window of any domain covers an address: no table of firmware's may lie there (R24). -/
def State.windowed (s : State) (va : Nat) : Bool := s.domains.any (fun (_, d) => (windowAt d.wins (segOf va)).isSome)

/-- A window covers the interrupt vector table of a domain that is not `FREE` (R24). -/
def State.overTable (s : State) (w : Window) : Bool := s.domains.any (fun (_, d) => d.state != 0 && w.covers (segOf d.ivtab.toNat))

/-- Where firmware keeps the window table of a domain, which it chooses (R23, R26): a free address, 16-byte aligned (log entry 3). -/
def wintabOf (pdid : Nat) : VAddr := (Config.word pdid 26).setWidth 56 &&& 0xFFFFFFFFFFFFF0

/-- The PLB entries of a domain invalidated, as firmware does before it binds again (R25, R238). -/
def State.dropRights (s : State) (pdid : Nat) : State := s.invalidate (.plb (some (BitVec.ofNat 12 pdid)) none)

/-- A domain may be installed from an image: `BUSY` otherwise (R24, R25, R28, R54). -/
def State.domainFits (s : State) (pdid : Nat) (i : DomainImage) : Bool :=
  let q := s.liveQueues pdid none
  s.pagesOn && decide (q.length ≤ i.qmax) && (i.tcok == 1 || q.all (fun x => x.tc != 0)) &&
    (i.ctxmax == 0 || !s.gangAbove pdid i.ctxmax) && !s.windowed i.ivtab && spillCovered (s.domain pdid).wins i.spillarea i.log2spill

/-- A `RETIRING` domain may become `FREE` (R25). -/
def State.domainGone (s : State) (pdid : Nat) : Bool :=
  !s.domainBound pdid && s.saved.all (fun x => (fidPdid x.firing.fid).toNat != pdid) &&
    s.packets.all (fun p => p.pdid.toNat != pdid) && (s.liveQueues pdid none).isEmpty &&
    s.sets.all (fun (_, e) => e.pdid.toNat != pdid) && s.collectives.all (fun k => k.pdid.toNat != pdid)

/-- A domain with an image installed (R25). -/
def Domain.install (d : Domain) (pdid : Nat) (i : DomainImage) : Domain :=
  { d with state := 1, wintab := wintabOf pdid, tcok := i.tcok == 1, qmax := i.qmax, ctxmax := i.ctxmax, ivtab := BitVec.ofNat 56 i.ivtab,
           spillarea := BitVec.ofNat 56 i.spillarea, log2spill := i.log2spill }

/-- Domain set (R25, R404). DEDUCED: from `RETIRING` to `LIVE` no `PGROOT.EN` is asked for, as the row of R25 has it (log entry 129). -/
def State.domainSet (s : State) (pdid : Nat) (img : Word) : State × Nat :=
  let i := domainForm (s.fwGet (vaOf img) 64 3)
  let d := s.domain pdid
  if 4095 < pdid || 2 < i.state then (s, 2)
  else if pdid = 0 then (s, 1)
  else match d.state, i.state with
    | 0, 1 => if !i.ok then (s, 2) else if s.domainFits pdid i then (s.setDomain pdid (d.install pdid i), 0) else (s, 1)
    | 1, 1 => if !i.ok then (s, 2) else if s.domainFits pdid i then (s.setDomain pdid (d.install pdid i), 0) else (s, 1)
    | 1, 2 => (s.setDomain pdid { d with state := 2 }, 0)
    | 2, 1 => (s.setDomain pdid { d with state := 1 }, 0)
    | 2, 0 => if s.domainGone pdid then (State.dropRights { s with domains := s.domains.del pdid } pdid, 0) else (s, 1)
    | _, _ => (s, 1)

/-! ## Windows (R26, R27) -/

/-- A window entry's form: the window, and whether its fields are in range (R26). -/
def windowForm (l : List Byte) : Window × Bool :=
  let base := fieldAt l 0 8
  let w : Window := { base := BitVec.ofNat 56 base, nseg := fieldAt l 8 4, rights := BitVec.ofNat 5 (fieldAt l 0xC 1),
                      attr := BitVec.ofNat 2 (fieldAt l 0xD 1) }
  (w, if w.nseg = 0 then base == 0 && fieldAt l 0xC 4 == 0
      else base % 2 ^ 21 == 0 && decide (base < 2 ^ 56) && decide (fieldAt l 0xC 1 < 32) && decide (fieldAt l 0xD 1 < 4) &&
        fieldAt l 0xE 2 == 0)

/-- Where a window in a package's range may end (R26, R235): at the end of the range for the host's, else below the ranges that
no window covers. -/
def State.windowLimit (s : State) (w : Window) : Nat :=
  if s.sd0.hostEn && w.base.toNat / 2 ^ 48 == s.sd0.hostNum.toNat then 2 ^ 48 else 0xFFFFD8000000

/-- Two windows share a segment. -/
def Window.meets (a b : Window) : Bool :=
  decide (a.base.toNat < b.base.toNat + b.nseg * 2 ^ 21) && decide (b.base.toNat < a.base.toNat + a.nseg * 2 ^ 21)

/-- Another domain's window gives a segment of this one another attribute (R27). -/
def State.attrConflict (s : State) (pdid : Nat) (w : Window) : Bool :=
  s.domains.any (fun (k, d) => k != pdid && d.wins.any (fun (_, x) => x.attr != w.attr && x.meets w))

/-- One more than the highest index of a window table (R23). -/
def topWindow (wins : SMap Window) : Nat := wins.foldl (fun n (k, _) => max n (k + 1)) 0

/-- What a window first gives a segment the attribute does to it: words full for `FE` (R254), versions anew for `BV` (R329). -/
def State.freshAttr (s : State) (w : Window) : State :=
  let new (va : Nat) : Bool := w.covers (segOf va) && s.attr va != w.attr
  if w.attr = 1 then { s with empties := s.empties.filter (fun a => !new a) }
  else if w.attr = 3 then { s with bv := s.bv.filter (fun (a, _) => !new a) }
  else s

/-- A domain's window table replaced, where R28 still holds of a domain that is not `FREE`; the PLB entries that it changes are
invalidated (R238). -/
def State.setWindows (s : State) (pdid : Nat) (wins : SMap Window) : State × Nat :=
  let d := s.domain pdid
  if d.state != 0 && !spillCovered wins d.spillarea.toNat d.log2spill then (s, 1)
  else ((s.setDomain pdid { d with wins := wins, nwin := topWindow wins }).dropRights pdid, 0)

/-- A domain's windows may change (R24, R26). -/
def State.windowsHeld (s : State) (pdid : Nat) : Bool :=
  (s.domain pdid).state != 0 && (s.domainBound pdid || (s.liveQueues pdid none).any (fun q => q.state != .stopped))

/-- Window set (R26, R27, R404). -/
def State.windowSet (s : State) (pdid idx : Nat) (img : Word) : State × Nat :=
  let (w, ok) := windowForm (s.fwGet (vaOf img) 16 2)
  let rest := (s.domain pdid).wins.del idx
  if pdid = 0 || 4095 < pdid || 255 < idx || !ok then (s, 2)
  else if w.nseg != 0 && (decide (s.windowLimit w < w.base.toNat % 2 ^ 48 + w.nseg * 2 ^ 21) || rest.any (fun (_, x) => x.meets w)) then
    (s, 2)
  else if s.windowsHeld pdid then (s, 1)
  else if w.nseg = 0 then s.setWindows pdid rest
  else if s.overTable w then (s, 1)
  else if s.attrConflict pdid w then (s, 3)
  else
    match s.setWindows pdid (rest.set idx w) with
    | (_, 1) => (s, 1)
    | (t, _) => ({ t with empties := (s.freshAttr w).empties, bv := (s.freshAttr w).bv }, 0)

/-! ## Queues (R24, R31, R32) -/

/-- The domain of a queue may own one queue more, of its class (R24). -/
def State.mayOwn (s : State) (q : Nat) (x : Queue) : Bool :=
  let d := s.domain x.pdid.toNat
  decide ((s.liveQueues x.pdid.toNat (some q)).length < d.qmax) && (x.tc != 0 || d.tcok)

/-- Enable (R32, R25). -/
def State.queueEnable (s : State) (q : Nat) (v : BitVec 32) : State × Nat :=
  let x := s.queue q
  if 4095 < q then (s, 2)
  else if x.state != .disabled || (s.domain x.pdid.toNat).state != 1 then (s, 4)
  else if !s.mayOwn q x then (s, 2)
  else (s.setQueue q { x with state := .active, head := v, tail := v, eff := x.prio.toNat, since := s.sdcyc }, 0)

/-- Stop (R32). -/
def State.queueStop (s : State) (q : Nat) : State × Nat :=
  if 4095 < q then (s, 2)
  else if (s.queue q).state != .active then (s, 4)
  else (s.setQueue q { s.queue q with state := .stopped }, 0)

/-- Resume (R32). -/
def State.queueResume (s : State) (q : Nat) : State × Nat :=
  if 4095 < q then (s, 2)
  else if (s.queue q).state != .stopped then (s, 4)
  else (s.setQueue q { s.queue q with state := .active }, 0)

/-- Clear (R32): with `skip`, a packet that failed is dropped; after `TAIL_OVER` both clears are alike. -/
def State.queueClear (s : State) (q : Nat) (skip : Bool) : State × Nat :=
  let x := s.queue q
  if 4095 < q then (s, 2)
  else if x.state != .error then (s, 4)
  else (s.setQueue q { x with state := x.prior, head := if skip && x.cause != 8 then x.head + 1 else x.head }, 0)

/-- Disable (R32). -/
def State.queueDisable (s : State) (q : Nat) : State × Nat :=
  if 4095 < q then (s, 2)
  else if (s.queue q).state = .disabled then (s, 4)
  else if s.inflight q then (s, 1)
  else (s.setQueue q { s.queue q with state := .disabled }, 0)

/-- Contexts put in ascending order of the identifiers of their firings. -/
def putByFid (s : State) (c : CtxId) (l : List CtxId) : List CtxId :=
  match l with
  | [] => [c]
  | d :: r => if (s.ctx c).fid.toNat < (s.ctx d).fid.toNat then c :: d :: r else d :: putByFid s c r

/-- The user contexts that hold firings of a queue's packets, in that order (R404). -/
def State.firingsOn (s : State) (q : Nat) : List CtxId :=
  (s.allCtx.filter (fun (_, x) => x.st != .idle && (match x.firing with
    | some f => f.pkt.pkg == s.pkg && f.pkt.q == q
    | none => false))).foldl (fun l (c, _) => putByFid s c l) []

/-- Distance of the save areas of a stop and pre-empt (R404). -/
def State.areaStride (s : State) (q : Nat) : Nat := 48 * 1024 + 2 ^ (s.domain (s.queue q).pdid.toNat).log2spill

/-- Stop and pre-empt (R404): with too few areas the queue stays `STOPPED` and nothing is pre-empted. -/
def State.queuePreempt (s : State) (q : Nat) (areas : VAddr) (n : Nat) : State × Nat :=
  if 4095 < q || areas.toNat % 256 != 0 then (s, 2)
  else match s.queueStop q with
    | (t, 0) =>
      let l := t.firingsOn q
      if n < l.length then (t, 6)
      else ((l.zip (List.range l.length)).foldl (fun (u : State) (c, k) =>
        u.preemptNow c (areas + BitVec.ofNat 56 (k * s.areaStride q))) t, 0)
    | (_, v) => (s, v)

/-- A descriptor's fields are in range (R24, R30, R31). -/
def Queue.ok (x : Queue) : Bool :=
  decide (4 ≤ x.log2size) && decide (x.log2size ≤ 16) && x.ring.toNat % 2 ^ (x.log2size + 6) == 0

/-- A word of a queue's descriptor written by firmware (R24, R31): only while the queue is `DISABLED` or `STOPPED`, and where the
descriptor that results is allowed: a domain whose `TCOK` is 0 is given no `TC0` queue by it. `QSTATE`, `CAUSE`, `HEAD` and `TAIL` are the device's. -/
def State.queueWord (s : State) (q word : Nat) (v : Word) : State :=
  let x := s.queue q
  let n := v.toNat
  let y : Queue :=
    match word with
    | 0 => { x with prio := BitVec.ofNat 2 (bitsOf n 8 2), tc := BitVec.ofNat 2 (bitsOf n 16 2), log2size := bitsOf n 24 8,
                    pdid := BitVec.ofNat 12 (bitsOf n 32 12), irqvec := BitVec.ofNat 4 (bitsOf n 48 4) }
    | 1 => { x with ring := v.setWidth 56 }
    | _ => x
  let tcGiven := y.tc == 0 && !(s.domain y.pdid.toNat).tcok && !(x.tc == 0 && x.pdid == y.pdid)
  if (x.state == .disabled || (x.state == .stopped && s.mayOwn q y)) && !tcGiven && y.ok && decide (q < 4096) then s.setQueue q y else s

/-! ## Masters (R396, R397, R404) -/

/-- `THAW` of a master. -/
def State.masterThaw (s : State) (die : Nat) (sel : Word) : State × Nat :=
  if selOk die sel && decide ((selOf sel).kind ≤ 4) then
    match s.thaw (selOf sel) 0 with
    | some t => (t, 0)
    | none => (s, 4)
  else (s, 4)

/-- `KILL` of a master, or of the firing saved in an area, in the order of kills (R397). -/
def State.masterKill (s : State) (die : Nat) (sel area : Word) : State × Nat :=
  if !selOk die sel then (s, 4)
  else if (selOf sel).kind = 5 then
    match s.savedEntry area with
    | some (x, _) => (s.killAfter (.saved x.area), 0)
    | none => (s, 4)
  else match s.kill (selOf sel) with
    | some t => (t, 0)
    | none => (s, 4)

/-- `KILL` of the packet of a master's firing. -/
def State.masterKillPacket (s : State) (die : Nat) (sel : Word) : State × Nat :=
  if selOk die sel && ((selOf sel).kind == 0 || (selOf sel).kind == 2) then
    match s.packetOfMaster (selOf sel) with
    | some r => (s.killPacket r, 0)
    | none => (s, 4)
  else (s, 4)

/-! ## Keeps (R285, R287) -/

/-- A Keep given to a domain that it was not of (R287, R290): what it holds is reset. -/
def Pod.newDomain (p : Pod) (pdid : BitVec 12) : Pod :=
  { p with shadow := [], active := [], armed := none, last := 0, next := 1, ended := [], amax := [], wset := [],
           tiles := [], queue := [], batches := [], domain := pdid }

/-- The Keep of a pod as the domain of a bind finds it: for a new domain an operation of the old one has ended, one still armed ends unstarted,
the requests that are queued or that Keep context 3 has taken are aborted (DESIGN CHOICE, log entry 127), and pod scratch is zero. -/
def State.giveKeep (s0 : State) (pod : Nat) (pdid : BitVec 12) : State :=
  if (s0.pod pod).domain = pdid then s0
  else
    let s := (((s0.mxFinish pod).mxKillArmed pod).abortBatches (keepCtx pod 3)).abortQueued pod (fun _ => true)
    let t := s.setPod pod ((s.pod pod).newDomain pdid)
    { t with st := { t.st with podScratch := t.st.podScratch.clear (pod * 2 ^ 22) ((pod + 1) * 2 ^ 22) } }

/-- A tenant Keep context as a bind starts it (R285). -/
def State.keepStart (s : State) (c : CtxId) (pdid : BitVec 12) (entry arg : Word) : Ctx :=
  let d := s.domain pdid.toNat
  let id : Word := BitVec.ofNat 64 (pdid.toNat * 2 ^ 52 + 0xFFF * 2 ^ 40 + c.unit * 256 + c.slot)
  { Ctx.reset with
    st := .run, pc := entry.setWidth 56, pdid := pdid,
    x := regsOf [0, s.pkg.setWidth 64, BitVec.ofNat 64 (c.unit / 12), BitVec.ofNat 64 (c.unit % 12), 0, 0, 0, 0, 0, arg, 0, id],
    spillBase := d.spillarea + BitVec.ofNat 56 ((12288 + 4 * c.unit + c.slot) * 2 ^ d.log2spill) }

/-- An operation of the Keep's old domain cannot come to its end yet. -/
def State.keepRuns (s : State) (pod : Nat) (pdid : BitVec 12) : Bool :=
  (s.pod pod).domain != pdid && ((s.mxFinish pod).pod pod).running.isSome

/-- Another domain's Keep context of the pod is bound (R287). -/
def State.keepOther (s : State) (pod : Nat) (pdid : BitVec 12) : Bool :=
  (List.range 3).any (fun k =>
    let x := s.ctx { keep := true, unit := pod, side := false, slot := k }
    x.st != .idle && x.pdid != pdid)

/-- Keep bind (R285, R404). -/
def State.keepBind (s : State) (pod slot : Nat) (pdid : BitVec 12) (entry arg : Word) : State × Nat :=
  let c : CtxId := { keep := true, unit := pod, side := false, slot := slot }
  if 95 < pod || 2 < slot || entry.toNat % 2 != 0 then (s, 2)
  else match (s.domain pdid.toNat).state with
    | 0 => (s, 4)
    | 1 =>
      if (s.ctx c).st != .idle || s.keepOther pod pdid || s.keepRuns pod pdid then (s, 1)
      else (((s.giveKeep pod pdid).setCtx c ((s.keepStart c pdid entry arg).fetchFrom s.st)).wakeDie (dieOf c), 0)
    | _ => (s, 1)

/-! ## The package (R381, R383, R404, R409) -/

/-- `HOSTPKG` of a switch die written (R386). -/
def SwitchDie.setHostPkg (x : SwitchDie) (v : Word) : SwitchDie := { x with hostNum := v.setWidth 8, hostEn := v.getLsbD 8 }

/-- The port masks of a route table's bytes, by package. -/
def routesOf (l : List Byte) (k : Nat) : SMap (BitVec 8) :=
  match l with
  | [] => []
  | b :: r => if b = 0 then routesOf r (k + 1) else (k, b) :: routesOf r (k + 1)

/-- Domain configure (R404): the package's number, `HOSTPKG` and the routes of both switch dies, from an image of one port mask for
each package (DESIGN CHOICE: the manual gives no form of the image). A package that is routed no more is lost only after `SDPEER.TMO` (R382);
the one that names the host is none (R383). -/
def State.configure (s : State) (pkg : BitVec 8) (hostpkg routes : Word) : State × Nat :=
  if s.domains.any (fun (_, d) => d.state == 1) then (s, 1)
  else
    let m := routesOf (s.fwGet (vaOf routes) 256 6) 0
    let f (x : SwitchDie) : SwitchDie := { x.setHostPkg hostpkg with routes := m }
    let new := (m.map (fun e => BitVec.ofNat 8 e.1)).filter (fun p => !s.peers.contains p)
    let t : State := { s with pkg := pkg, sd0 := f s.sd0, sd1 := f s.sd1 }
    (State.noteRoutes { t with peers := (s.peers ++ new).filter (fun p => p != pkg && !t.namesHost p) }, 0)

/-- `PWRLIM` written (R409). -/
def State.setPwrlim (s : State) (w : Nat) : State := { s with mgmt := { s.mgmt with pwrlim := BitVec.ofNat 16 (min w 1500) } }

/-- The power command (R404, R409): every die of the mask set to a state, and the limit. -/
def State.powerSet (s : State) (mask : BitVec 8) (ps lim : Nat) : State × Nat :=
  if 4 < ps then (s, 2)
  else
    ((((List.range 8).filter (fun d => mask.getLsbD d)).foldl (fun (t : State) d =>
      if ps < 4 then t.setPower d ps else (t.setDie d { t.die d with stopPend := true }).tryStop d) s).setPwrlim lim, 0)

/-- Firmware activate (R404, R406): an activation by no context, with its status 4 higher. -/
def State.activateSet (s : State) (img list : Word) : State × Nat :=
  if s.mgmt.activating.isSome then (s, 9)
  else match s.activateAt (fwReq 0) img.toNat (vaOf list) none with
    | .error _ => (s, 6)
    | .ok (t, v) => if v = 0 then (t, 0) else (t, v + 4)

end Sys2Proof.Machine
end

