-- ==== Sys2Proof/Machine/Host.lean ====
section
/-! DEFINITION. The mailbox and its commands, the management registers with their reads and writes and the layout of BAR 0,
attestation, and package reset (spec/15_interruption.md R403 to R409, and the registers of R17, R62, R241, R318, R343 and R386). -/

namespace Sys2Proof.Machine

/-! ## The mailbox (R404) -/

/-- Place in the ring of the entry at `MBXHEAD`. -/
def State.mbxEntry (s : State) : Nat := 64 * (s.mgmt.mbxhead.toNat % 256)

/-- Operand dword `k` of the entry at `MBXHEAD`. -/
def State.mbxArg (s : State) (k : Nat) : Nat := ofBytes (s.mgmt.ring.readN (s.mbxEntry + 8 + 8 * k) 8)

/-- An operand dword as a word. -/
def State.mbxWord (s : State) (k : Nat) : Word := BitVec.ofNat 64 (s.mbxArg k)

/-- A queue-control entry (R404): its happening, or its refusal. -/
def State.mbxQueue (s : State) : Except Nat Happening :=
  let q := s.mbxArg 0
  match s.mbxArg 1 with
  | 0 => .ok ⟨.queueEnable, .enable q (BitVec.ofNat 32 (s.mbxArg 2))⟩
  | 1 => .ok ⟨.queueStop, .unit q⟩
  | 2 => if s.mbxArg 3 < 2 ^ 56 then .ok ⟨.queueStopPreempt, .preempt q (BitVec.ofNat 56 (s.mbxArg 3)) (s.mbxArg 4)⟩ else .error 2
  | 3 => .ok ⟨.queueResume, .unit q⟩
  | 4 => .ok ⟨.queueClearReread, .unit q⟩
  | 5 => .ok ⟨.queueClearSkip, .unit q⟩
  | 6 => .ok ⟨.queueDisable, .unit q⟩
  | _ => .error 2

/-- A master-control entry (R404). -/
def State.mbxMaster (s : State) : Except Nat Happening :=
  match s.mbxArg 2 with
  | 1 => .ok ⟨.masterThaw, .master (s.mbxArg 0) (s.mbxWord 1)⟩
  | 2 => .ok ⟨.masterKill, .kill (s.mbxArg 0) (s.mbxWord 1) (s.mbxWord 3)⟩
  | 3 => .ok ⟨.masterKillPacket, .master (s.mbxArg 0) (s.mbxWord 1)⟩
  | _ => .error 4

/-- A Keep-bind entry (R404). -/
def State.mbxKeep (s : State) : Except Nat Happening :=
  if s.mbxArg 2 < 4096 then
    .ok ⟨.keepBind, .keep (s.mbxArg 0) (s.mbxArg 1) (BitVec.ofNat 12 (s.mbxArg 2)) (s.mbxWord 3) (s.mbxWord 4)⟩
  else .error 2

/-- The entry at `MBXHEAD` (R404): the happening that performs it, or its refusal. -/
def State.mbxCommand (s : State) : Except Nat Happening :=
  match ofBytes (s.mgmt.ring.readN s.mbxEntry 2) with
  | 1 => .ok ⟨.domainSet, .domain (s.mbxArg 0) (s.mbxWord 1)⟩
  | 2 => .ok ⟨.windowSet, .window (s.mbxArg 0) (s.mbxArg 1) (s.mbxWord 2)⟩
  | 3 => s.mbxQueue
  | 4 => s.mbxMaster
  | 5 => s.mbxKeep
  | 6 => .ok ⟨.domainConfigure, .configure (BitVec.ofNat 8 (s.mbxArg 0)) (s.mbxWord 1) (s.mbxWord 2)⟩
  | 7 => .ok ⟨.firmwareActivate, .activate (s.mbxWord 0) (s.mbxWord 1)⟩
  | 8 => if s.mbxArg 0 < 256 then .ok ⟨.powerCommand, .power (BitVec.ofNat 8 (s.mbxArg 0)) (s.mbxArg 1) (s.mbxArg 2)⟩ else .error 2
  | _ => .ok ⟨.unknownOp, .none⟩

/-- The entry at `MBXHEAD` completed (R404): its `STATUS` written, `MBXHEAD` advanced, event 4 raised. -/
def State.mbxDone (s : State) (status : Nat) : State :=
  State.raiseMgmt { s with mgmt := { s.mgmt with
    ring := s.mgmt.ring.writeN (s.mbxEntry + 2) (toBytes 2 status), mbxhead := s.mgmt.mbxhead + 1 } } 4

/-- The management core takes the next entry, if there is one: a refusal of its form completes it at once. -/
def State.mbxNext (s : State) (fuel : Nat) : State :=
  match fuel with
  | 0 => s
  | k + 1 =>
    if s.mgmt.mbxhead = s.mgmt.mbxtail || s.mgmt.bootstat != 1 || s.sd0.lost then s
    else match s.mbxCommand with
      | .ok h => s.push h.i h.opd
      | .error v => (s.mbxDone v).mbxNext k

/-- The happening is the command of the entry at `MBXHEAD`. -/
def State.fromMbx (s : State) (i : Instr) : Bool :=
  s.mgmt.mbxhead != s.mgmt.mbxtail && s.mgmt.bootstat == 1 &&
    (match s.mbxCommand with
     | .ok h => h.i == i && h.opd == s.opd
     | .error _ => false)

/-- A command performed, with its `STATUS`: the mailbox is told where its entry asked for it (R404). -/
def State.answer (s : State) (i : Instr) (r : State × Nat) : Host.Outcome State Fault Refusal :=
  .next (if s.fromMbx i then (r.1.mbxDone r.2).mbxNext 256 else r.1)

/-- The number of save areas needed, written to operand dword 6 (R404). -/
def State.mbxNeeded (s : State) (n : Nat) : State :=
  { s with mgmt := { s.mgmt with ring := s.mgmt.ring.writeN (s.mbxEntry + 56) (toBytes 8 n) } }

/-! ## The commands (R404) -/

/-- `DOMAIN_SET` (R25, R404). -/
def execDomainSet (s : State) : Host.Outcome State Fault Refusal :=
  match s.opd with
  | .domain pdid img => s.answer .domainSet (s.domainSet pdid img)
  | _ => .next s

/-- `WINDOW_SET` (R26, R404). -/
def execWindowSet (s : State) : Host.Outcome State Fault Refusal :=
  match s.opd with
  | .window pdid idx img => s.answer .windowSet (s.windowSet pdid idx img)
  | _ => .next s

/-- `QUEUE_ENABLE` (R32). -/
def execQueueEnable (s : State) : Host.Outcome State Fault Refusal :=
  match s.opd with
  | .enable q v => s.answer .queueEnable (s.queueEnable q v)
  | _ => .next s

/-- `QUEUE_STOP` (R32). -/
def execQueueStop (s : State) : Host.Outcome State Fault Refusal :=
  match s.opd with
  | .unit q => s.answer .queueStop (s.queueStop q)
  | _ => .next s

/-- `QUEUE_STOP_PREEMPT` (R404). -/
def execQueueStopPreempt (s : State) : Host.Outcome State Fault Refusal :=
  match s.opd with
  | .preempt q areas n =>
    let r := s.queuePreempt q areas n
    s.answer .queueStopPreempt (if r.2 = 6 && s.fromMbx .queueStopPreempt then (r.1.mbxNeeded (s.firingsOn q).length, 6) else r)
  | _ => .next s

/-- `QUEUE_RESUME` (R32). -/
def execQueueResume (s : State) : Host.Outcome State Fault Refusal :=
  match s.opd with
  | .unit q => s.answer .queueResume (s.queueResume q)
  | _ => .next s

/-- `QUEUE_CLEAR_REREAD` (R32). -/
def execQueueClearReread (s : State) : Host.Outcome State Fault Refusal :=
  match s.opd with
  | .unit q => s.answer .queueClearReread (s.queueClear q false)
  | _ => .next s

/-- `QUEUE_CLEAR_SKIP` (R32). -/
def execQueueClearSkip (s : State) : Host.Outcome State Fault Refusal :=
  match s.opd with
  | .unit q => s.answer .queueClearSkip (s.queueClear q true)
  | _ => .next s

/-- `QUEUE_DISABLE` (R32). -/
def execQueueDisable (s : State) : Host.Outcome State Fault Refusal :=
  match s.opd with
  | .unit q => s.answer .queueDisable (s.queueDisable q)
  | _ => .next s

/-- `MASTER_THAW` (R396, R404). -/
def execMasterThaw (s : State) : Host.Outcome State Fault Refusal :=
  match s.opd with
  | .master die sel => s.answer .masterThaw (s.masterThaw die sel)
  | _ => .next s

/-- `MASTER_KILL` (R397, R404). -/
def execMasterKill (s : State) : Host.Outcome State Fault Refusal :=
  match s.opd with
  | .kill die sel area => s.answer .masterKill (s.masterKill die sel area)
  | _ => .next s

/-- `MASTER_KILL_PACKET` (R397, R404). -/
def execMasterKillPacket (s : State) : Host.Outcome State Fault Refusal :=
  match s.opd with
  | .master die sel => s.answer .masterKillPacket (s.masterKillPacket die sel)
  | _ => .next s

/-- `KEEP_BIND` (R285, R287, R404). -/
def execKeepBind (s : State) : Host.Outcome State Fault Refusal :=
  match s.opd with
  | .keep pod slot pdid entry arg => s.answer .keepBind (s.keepBind pod slot pdid entry arg)
  | _ => .next s

/-- `DOMAIN_CONFIGURE` (R404). -/
def execDomainConfigure (s : State) : Host.Outcome State Fault Refusal :=
  match s.opd with
  | .configure pkg hostpkg routes => s.answer .domainConfigure (s.configure pkg hostpkg routes)
  | _ => .next s

/-- `FIRMWARE_ACTIVATE` (R404, R406). -/
def execFirmwareActivate (s : State) : Host.Outcome State Fault Refusal :=
  match s.opd with
  | .activate img list => s.answer .firmwareActivate (s.activateSet img list)
  | _ => .next s

/-- `POWER_COMMAND` (R404, R409). -/
def execPowerCommand (s : State) : Host.Outcome State Fault Refusal :=
  match s.opd with
  | .power mask ps lim => s.answer .powerCommand (s.powerSet mask ps lim)
  | _ => .next s

/-- `UNKNOWN_OP` (R404): the entry is not performed. -/
def execUnknownOp (s : State) : Host.Outcome State Fault Refusal := s.answer .unknownOp (s, 10)

/-! ## Management events and registers (R403, R404) -/

/-- `MGMTEV` bits written 1 cleared (R403). -/
def State.mgmtClear (s : State) (mask : Word) : State := { s with mgmt := { s.mgmt with mgmtev := s.mgmt.mgmtev &&& ~~~mask } }

/-- `MGMTEV_CLEAR` (R403): the host writes `MGMTEV`, at offset 0x0018 of BAR 0. -/
def execMgmtevClear (s : State) : Host.Outcome State Fault Refusal :=
  match s.opd with
  | .imm mask => .next (s.mgmtClear mask)
  | _ => .next s

/-- `MBXTAIL` written (R404): the management core takes the entries up to it. -/
def State.mbxTail (s : State) (v : Word) : State :=
  let idle := s.mgmt.mbxhead == s.mgmt.mbxtail
  let t : State := { s with mgmt := { s.mgmt with mbxtail := v } }
  if idle then t.mbxNext 256 else t

/-- A core's registers written (R343). `MIGOVF` moves only while its area holds no arrival. -/
def Core.mgmtWrite (c : Core) (reg : MgmtReg) (v : Word) : Core :=
  match reg with
  | .tagbase _ => { c with tagbase := v.setWidth 56 &&& 0xFFFFFFFFFFFFF0 }
  | .msgtrap _ => { c with msgtrap := v.setWidth 56 &&& 0xFFFFFFFFFFFFFE }
  | .migq _ => { c with migq := if v.setWidth 5 = 0 || 16 < bitsOf v.toNat 0 5 then 16 else v.setWidth 5 }
  | .migovf _ => if c.migOv.isEmpty then { c with migovf := v.setWidth 56 &&& 0xFFFFFFFFFFFF80 } else c
  | .fwspill _ => { c with fwspill := v.setWidth 56 &&& 0xFFFFFFFFFFE000 }
  | _ => c

/-- Where a context spills, replaced. -/
def State.setSpill (s : State) (c : CtxId) (a : VAddr) : State := s.setCtx c { s.ctx c with spillBase := a }

/-- `FWSPILL` of a core in force for its message and firmware contexts (R343, R174). -/
def State.spillCore (s : State) (k : Nat) : State :=
  [false, true].foldl (fun t sd =>
    (t.setSpill { keep := false, unit := k, side := sd, slot := 8 } (t.msgSpill k sd)).setSpill
      { keep := false, unit := k, side := sd, slot := 9 } (t.fwSpill { keep := false, unit := k, side := sd, slot := 9 })) s

/-- `POSTOWNk` of a die written (R343). -/
def Die.setOwners (d : Die) (k : Nat) (v : Word) : Die :=
  { d with postown := Vector.ofFn (fun i : Fin 16 => if i.val / 4 = k then BitVec.ofNat 12 (bitsOf v.toNat (16 * (i.val % 4)) 12) else d.postown[i]) }

/-- A switch die's registers written (R386), but for `SDROLL`. -/
def SwitchDie.mgmtWrite (x : SwitchDie) (reg : MgmtReg) (v : Word) : SwitchDie :=
  match reg with
  | .sdlease _ => { x with lns := BitVec.ofNat 32 (max 4096 (bitsOf v.toNat 0 32)), eps := BitVec.ofNat 6 (max 1 (bitsOf v.toNat 32 6)) }
  | .sdquiet _ => { x with quiet := v.setWidth 32 }
  | .sdckpt _ => { x with interval := v.setWidth 32, keep := BitVec.ofNat 4 (bitsOf v.toNat 32 4) }
  | .sdckptlog _ => { x with logAddr := BitVec.ofNat 26 (bitsOf v.toNat 12 26), log2sz := BitVec.ofNat 5 (bitsOf v.toNat 40 5) }
  | .sdstat _ => { x with err := x.err && !v.getLsbD 3, logloss := x.logloss && !v.getLsbD 4 }
  | .sdpeer _ => { x with tmo := v.setWidth 32 }
  | .hostpkg _ => x.setHostPkg v
  | _ => x

/-- `SDROLL` written (R378, R386). -/
def State.sdroll (s : State) (sd : Bool) (v : Word) : State :=
  let base : VAddr := BitVec.ofNat 56 (bitsOf v.toNat 7 49 * 128)
  match bitsOf v.toNat 0 2 with
  | 0 => s
  | 1 => (s.setSd sd { s.sd sd with busy := true, rollAt := base.toNat / 128 }).push .sdrollClearFlag (.region sd base)
  | 2 => (s.setSd sd { s.sd sd with busy := true, rollAt := base.toNat / 128 }).push .sdrollRollback (.rollback sd base (BitVec.ofNat 3 (bitsOf v.toNat 2 3)))
  | _ => s.setSd sd { s.sd sd with err := true }

/-- A register of the management spaces, or of BAR 0, written (R62, R241, R318, R343, R386, R404, R405, R409). A write of a
read-only register is ignored (R17). -/
def State.mgmtWrite (s : State) (reg : MgmtReg) (v : Word) : State :=
  match reg with
  | .tagbase k => s.setCore k ((s.core k).mgmtWrite reg v)
  | .msgtrap k => s.setCore k ((s.core k).mgmtWrite reg v)
  | .migq k => (s.setCore k ((s.core k).mgmtWrite reg v)).migRefill k 16
  | .migovf k => s.setCore k ((s.core k).mgmtWrite reg v)
  | .fwspill k => (s.setCore k ((s.core k).mgmtWrite reg v)).spillCore k
  | .keepFwspill p =>
    (s.setPod p { s.pod p with fwspill := v.setWidth 56 &&& 0xFFFFFFFFFFE000 }).setSpill { keep := true, unit := p, side := false, slot := 3 }
      (v.setWidth 56 &&& 0xFFFFFFFFFFE000)
  | .postown d k => s.setDie d ((s.die d).setOwners k v)
  | .pgroot d => s.setDie d { s.die d with pgEn := v.getLsbD 0, pgAddr := v.setWidth 38 &&& 0x3FFFFFF000 }
  | .mixtrap m => { s with mixtrap := s.mixtrap.set m (v.getLsbD 0), strong := if v.getLsbD 0 then s.strong else s.strong.filter (fun e => e.md != m) }
  | .pqeage => { s with engine := { s.engine with ageStep := v.setWidth 32 } }
  | .pqeglim => { s with engine := { s.engine with glim := v.setWidth 32 } }
  | .pqeopen => s
  | .sdlease d => s.setSd d ((s.sd d).mgmtWrite reg v)
  | .sdquiet d => s.setSd d ((s.sd d).mgmtWrite reg v)
  | .sdckpt d => s.setSd d ((s.sd d).mgmtWrite reg v)
  | .sdckptlog d => s.setSd d ((s.sd d).mgmtWrite reg v)
  | .sdroll d => s.sdroll d v
  | .sdstat d => s.setSd d ((s.sd d).mgmtWrite reg v)
  | .sdpeer d => s.setSd d ((s.sd d).mgmtWrite reg v)
  | .hostpkg d => s.setSd d ((s.sd d).mgmtWrite reg v)
  | .savetab => { s with mgmt := { s.mgmt with savetab := v.setWidth 56 &&& 0xFFFFFFFFFFFF00 } }
  | .fwimage => s
  | .secver => s
  | .mgmtev => s.mgmtClear v
  | .mbxtail => s.mbxTail v
  | .mbxhead => s
  | .bootstat => s
  | .pwrlim => s.setPwrlim (bitsOf v.toNat 0 16)
  | .ringWord off => { s with mgmt := { s.mgmt with ring := s.mgmt.ring.writeN (off / 8 * 8 % 16384) (toBytes 8 v.toNat) } }
  | .qdesc q w => s.queueWord q w v
  | .sysreg n =>
    match s.sysWrite n.toNat v with
    | .ok t => t
    | .error e => s.stop e

/-- A number of one bit. -/
def bit1 (b : Bool) : Nat := b.toNat

/-- A core's registers read (R343). -/
def Core.mgmtRead (c : Core) (reg : MgmtReg) : Word :=
  match reg with
  | .tagbase _ => c.tagbase.setWidth 64
  | .msgtrap _ => c.msgtrap.setWidth 64
  | .migq _ => c.migq.setWidth 64
  | .migovf _ => c.migovf.setWidth 64
  | _ => c.fwspill.setWidth 64

/-- Regions of a switch die that are flagged now (R386 `FLAGGED`). -/
def State.flaggedCount (s : State) (sd : Bool) : Nat := (s.dir.filter (fun e => e.flag != .none && s.tracker e.line == sd)).length

/-- A switch die's registers read (R386): `SDROLL` is write-only and reads 0 (R17). -/
def State.sdRead (s : State) (sd : Bool) (reg : MgmtReg) : Word :=
  let x := s.sd sd
  match reg with
  | .sdlease _ => BitVec.ofNat 64 (x.lns.toNat + 2 ^ 32 * x.eps.toNat)
  | .sdquiet _ => x.quiet.setWidth 64
  | .sdckpt _ => BitVec.ofNat 64 (x.interval.toNat + 2 ^ 32 * x.keep.toNat + 2 ^ 40 * x.cur.toNat)
  | .sdckptlog _ => BitVec.ofNat 64 (2 ^ 12 * x.logAddr.toNat + 2 ^ 40 * x.log2sz.toNat)
  | .sdstat _ =>
    BitVec.ofNat 64 (bit1 (!(s.sd (!sd)).lost) + 2 * bit1 x.takeover + 4 * bit1 x.busy + 8 * bit1 x.err + 16 * bit1 x.logloss +
      2 ^ 32 * s.flaggedCount sd)
  | .sdpeer _ => x.tmo.setWidth 64
  | .hostpkg _ => BitVec.ofNat 64 (x.hostNum.toNat + 256 * bit1 x.hostEn)
  | _ => 0

/-- `POSTOWNk` of a die read (R343). -/
def Die.owners (d : Die) (k : Nat) : Word :=
  BitVec.ofNat 64 ((List.range 4).foldl (fun n j => n + 2 ^ (16 * j) * (d.postown.toList.getD (4 * k + j) 0).toNat) 0)

/-- A word of a queue's descriptor read (R31). -/
def Queue.word (x : Queue) (word : Nat) : Word :=
  match word with
  | 0 => BitVec.ofNat 64 (x.state.code + 2 ^ 8 * x.prio.toNat + 2 ^ 16 * x.tc.toNat + 2 ^ 24 * x.log2size + 2 ^ 32 * x.pdid.toNat +
      2 ^ 48 * x.irqvec.toNat + 2 ^ 56 * x.cause.toNat)
  | 1 => x.ring.setWidth 64
  | 2 => BitVec.ofNat 64 (x.head.toNat + 2 ^ 32 * x.tail.toNat)
  | _ => 0

/-- A register of the management spaces, or of BAR 0, read (R17, R62, R241, R318, R343, R386, R403 to R405, R409): reserved bits and
write-only fields read 0. -/
def State.mgmtRead (s : State) (reg : MgmtReg) : Word :=
  match reg with
  | .tagbase k => (s.core k).mgmtRead reg
  | .msgtrap k => (s.core k).mgmtRead reg
  | .migq k => (s.core k).mgmtRead reg
  | .migovf k => (s.core k).mgmtRead reg
  | .fwspill k => (s.core k).mgmtRead reg
  | .keepFwspill p => (s.pod p).fwspill.setWidth 64
  | .postown d k => (s.die d).owners k
  | .pgroot d => BitVec.ofNat 64 ((s.die d).pgAddr.toNat + bit1 (s.die d).pgEn)
  | .mixtrap m => BitVec.ofNat 64 (bit1 (s.mixtrap.get false m))
  | .pqeage => s.engine.ageStep.setWidth 64
  | .pqeglim => s.engine.glim.setWidth 64
  | .pqeopen => BitVec.ofNat 64 s.packets.length
  | .sdlease d => s.sdRead d reg
  | .sdquiet d => s.sdRead d reg
  | .sdckpt d => s.sdRead d reg
  | .sdckptlog d => s.sdRead d reg
  | .sdroll d => s.sdRead d reg
  | .sdstat d => s.sdRead d reg
  | .sdpeer d => s.sdRead d reg
  | .hostpkg d => s.sdRead d reg
  | .savetab => s.mgmt.savetab.setWidth 64
  | .fwimage => s.mgmt.fwimage.setWidth 64
  | .secver => Config.secverMin.setWidth 64
  | .mgmtev => s.mgmt.mgmtev
  | .mbxtail => s.mgmt.mbxtail
  | .mbxhead => s.mgmt.mbxhead
  | .bootstat => s.mgmt.bootstat.setWidth 64
  | .pwrlim => s.mgmt.pwrlim.setWidth 64
  | .ringWord off => BitVec.ofNat 64 (ofBytes (s.mgmt.ring.readN (off / 8 * 8 % 16384) 8))
  | .qdesc q w => (s.queue q).word w
  | .sysreg n => s.sysRead n.toNat

/-- The register at an offset of BAR 0 (R404). -/
def bar0Reg (off : Nat) : Option MgmtReg :=
  if off = 0 then some .mbxtail
  else if off = 8 then some .mbxhead
  else if off = 0x10 then some .bootstat
  else if off = 0x18 then some .mgmtev
  else if 0x1000 ≤ off && off < 0x5000 && off % 8 == 0 then some (.ringWord (off - 0x1000))
  else none

/-- An access of the host through BAR 0 (R404); what the rule names no register at is reserved: it reads 0, and a write is ignored. -/
def State.bar0 (s : State) (off : Nat) (data : Option Word) : State :=
  match bar0Reg off, data with
  | some r, some v => s.mgmtWrite r v
  | some r, none => { s with hostOut := s.hostOut ++ [.read (s.mgmtRead r)] }
  | none, some _ => s
  | none, none => { s with hostOut := s.hostOut ++ [.read 0] }

/-- `MGMT_REGISTER_WRITE` (R17): a write of a register, by firmware or by the host through BAR 0; a read by either comes here too, as it
needs no row of its own. -/
def execMgmtRegisterWrite (s : State) : Host.Outcome State Fault Refusal :=
  match s.opd with
  | .mgmt reg v => .next (s.mgmtWrite reg v)
  | .mgmtRead reg c d => .next (if isFw c then s.setCtx c { s.ctx c with x := xSet (s.ctx c).x d (s.mgmtRead reg) } else s)
  | .bar off data => .next (s.bar0 off data)
  | _ => .next s

/-! ## Attestation (R408) -/

/-- An SPDM answer sent, where the host port is there to send it. -/
def State.spdm (s : State) (code : Byte) (body : List Byte) : State :=
  if s.sd0.lost then s else { s with hostOut := s.hostOut ++ [.spdm code body] }

/-- A digest's bytes, the first the most significant. -/
def digestBytes (d : BitVec 256) : List Byte := (toBytes 32 d.toNat).reverse

/-- The digest of the certificate chain in slot 0. -/
def chainDigest : List Byte := digestBytes (sha256 Config.certChain)

/-- `ERROR` with a code and its data (R408; the codes are those of DMTF SPDM, PRESUMED). -/
def State.spdmError (s : State) (kind data : Byte) : State := s.spdm 0x7F [kind, data]

/-- `GET_VERSION` (R408): version 1.3. -/
def execGetVersion (s : State) : Host.Outcome State Fault Refusal := .next (s.spdm 0x04 [0x13])

/-- `GET_CAPABILITIES` (R408). -/
def execGetCapabilities (s : State) : Host.Outcome State Fault Refusal := .next (s.spdm 0x61 (Config.spdmBody 0x61 s.free))

/-- What `NEGOTIATE_ALGORITHMS` selects (R408): SHA-256 to measure, RSASSA-3072 to sign, SHA-256 to hash. PRESUMED: the fields and codes
are those of DMTF SPDM 1.3, whose bytes that R408 does not settle are free (log entry 116). -/
def algorithms (free : Nat) : List Byte :=
  toBytes 2 36 ++ [1, Config.byte free 0x63] ++ toBytes 4 2 ++ toBytes 4 4 ++ toBytes 4 1 ++ List.replicate 11 0 ++
    [Config.byte free 0x163, 0, 0, 0, 0]

/-- `NEGOTIATE_ALGORITHMS` (R408). -/
def execNegotiateAlgorithms (s : State) : Host.Outcome State Fault Refusal := .next (s.spdm 0x63 (algorithms s.free))

/-- `GET_DIGESTS` (R408): slot 0 only. -/
def execGetDigests (s : State) : Host.Outcome State Fault Refusal := .next (s.spdm 0x01 (1 :: chainDigest))

/-- `GET_CERTIFICATE` (R408): a part of the chain in slot 0. -/
def execGetCertificate (s : State) : Host.Outcome State Fault Refusal :=
  match s.opd with
  | .cert slot off len =>
    .next (if slot != 0 || decide (Config.certChain.length < off) then s.spdmError 0x01 0
           else s.spdm 0x02 ((Config.certChain.drop off).take len))
  | _ => .next s

/-- `CHALLENGE` (R408): the chain's digest, and the signature over the nonce. -/
def execChallenge (s : State) : Host.Outcome State Fault Refusal :=
  match s.opd with
  | .challenge slot nonce =>
    .next (if slot != 0 then s.spdmError 0x01 0
           else
             let body := chainDigest ++ Config.spdmBody 0x03 s.free
             s.spdm 0x03 (body ++ Config.sign (toBytes 32 nonce.toNat ++ body)))
  | _ => .next s

/-- `GET_MEASUREMENTS` (R408): one of the slots 1 to 4, whole. -/
def execGetMeasurements (s : State) : Host.Outcome State Fault Refusal :=
  match s.opd with
  | .unit idx =>
    .next (if idx = 0 || decide (4 < idx) then s.spdmError 0x01 0
           else s.spdm 0x60 (BitVec.ofNat 8 idx :: digestBytes (s.mgmt.slots.get 0 idx)))
  | _ => .next s

/-- A request that the device does not support (R408). -/
def execUnsupportedRequest (s : State) : Host.Outcome State Fault Refusal :=
  match s.opd with
  | .code b => .next (s.spdmError 0x07 b)
  | _ => .next s

/-! ## Package reset (R407) -/

/-- The first refill of firmware credit, in the cycle in which `DCYC` is 0 (R87): every side holds `SHARE.SLOTS` credits. -/
def State.firstCredit (s : State) : State :=
  if s.mgmt.bootstat = 1 then
    { s with sides := (List.range 1536).map (fun k => (k, { Side.reset with credit := Core.reset.share.toNat })) }
  else s

/-- `PACKAGE_RESET`: everything at its reset value, and boot. What lies outside the package stays: the boot flash, the host's
memory and the peers', and what was sent to the host. The bytes of physical memory stay as they are, whose page tables' fields no reset
changes (R17, R240; log entry 94). -/
def State.packageReset (s : State) : State :=
  (State.boot { State.reset with
    events := [], free := s.free, hostOut := s.hostOut, mgmt := { Mgmt.reset with flash := s.mgmt.flash },
    st := { Stores.reset with dram := { Stores.reset.dram with bytes := s.st.dram.bytes }, host := s.st.host, peer := s.st.peer } }).firstCredit

/-- `PACKAGE_RESET` (R407). -/
def execPackageReset (s : State) : Host.Outcome State Fault Refusal := .next s.packageReset

end Sys2Proof.Machine
end

