-- ==== Sys2Proof/Machine/Scalar.lean ====
section
/-! DEFINITION. The meanings of page 0 (spec/06_scalar.md), but for system registers, `END`, `TRAP` and `BRK`. -/

namespace Sys2Proof.Machine

/-! ## Arithmetic -/

/-- 1 for true, 0 for false. -/
def boolWord (b : Bool) : Word := if b then 1 else 0

/-- Shift amount B[5:0] (R159). -/
def shAmt (b : Word) : Nat := b.toNat % 64

/-- Bits [127:64] of an exact product (R160). -/
def highWord (p : Int) : Word := BitVec.ofNat 64 (wrapInt 128 p / 2 ^ 64)

/-- `DIV` (R161). -/
def divS (a b : Word) : Word := if b = 0 then BitVec.allOnes 64 else BitVec.ofInt 64 (a.toInt.tdiv b.toInt)
/-- `DIVU` (R161). -/
def divU (a b : Word) : Word := if b = 0 then BitVec.allOnes 64 else BitVec.ofNat 64 (a.toNat / b.toNat)
/-- `REM` (R161). -/
def remS (a b : Word) : Word := if b = 0 then a else BitVec.ofInt 64 (a.toInt.tmod b.toInt)
/-- `REMU` (R161). -/
def remU (a b : Word) : Word := if b = 0 then a else BitVec.ofNat 64 (a.toNat % b.toNat)
/-- The flag of a division: `DZ` on a zero divisor (R161). -/
def divFlags (b : Word) : Raised := if b = 0 then fDZ else Raised.none

/-- Number of leading zero bits of a 64-bit value (R162). -/
def leadingZeros (a : Nat) : Nat := if a = 0 then 64 else 63 - Nat.log2 a
/-- Number of trailing zero bits among `n` bits (R162). -/
def trailingZeros (n a : Nat) : Nat :=
  match n with
  | 0 => 0
  | k + 1 => if a % 2 = 1 then 0 else 1 + trailingZeros k (a / 2)
/-- Number of one bits among `n` bits (R162). -/
def oneBits (n a : Nat) : Nat :=
  match n with
  | 0 => 0
  | k + 1 => a % 2 + oneBits k (a / 2)
/-- `n` bits in reverse order (R162). -/
def reverseBits (n a : Nat) : Nat :=
  match n with
  | 0 => 0
  | k + 1 => a % 2 * 2 ^ k + reverseBits k (a / 2)

/-! ## Loads, stores and branches -/

/-- A scalar load (R166, R168): `n` bytes, extended to 64 bits. -/
def State.loadOp (s : State) (d a : XReg) (imm : Word) (n : Nat) (signed : Bool) : Except Stop State := do
  let ea ← s.ea a imm
  s.checkScalar ea n true
  let (t, v) ← s.loadScalar ea n
  .ok (t.wx d (if signed then sextNat (8 * n) v else BitVec.ofNat 64 v)).finish

/-- `LQ` (R166). -/
def State.loadQuad (s : State) (d a : XReg) (imm : Word) : Except Stop State := do
  if d.getLsbD 0 then illegal 7 0 18
  let ea ← s.ea a imm
  s.checkScalar ea 16 false
  let (t, v) ← s.loadScalar ea 16
  .ok ((t.wx d (BitVec.ofNat 64 v)).wx (d ||| 1) (BitVec.ofNat 64 (v / 2 ^ 64))).finish

/-- The store of `n` bytes of `v`, joined to the open bundle or not (R167, R168, R331). -/
def State.storeVal (s : State) (ea : Word) (n v : Nat) (bj : Bool) : Except Stop State :=
  if bj then s.joinScalar ea n v else s.storeScalar ea n v

/-- A scalar store (R167, R168). -/
def State.storeOp (s : State) (d a : XReg) (imm : Word) (bj : Bool) (n : Nat) : Except Stop State := do
  let ea ← s.ea a imm
  s.checkScalar ea n true
  let t ← s.storeVal ea n (s.rx d).toNat bj
  .ok t.finish

/-- `SQ` (R167). -/
def State.storeQuad (s : State) (d a : XReg) (imm : Word) (bj : Bool) : Except Stop State := do
  if d.getLsbD 0 then illegal 7 0 19
  let ea ← s.ea a imm
  s.checkScalar ea 16 false
  let t ← s.storeVal ea 16 ((s.rx d).toNat + 2 ^ 64 * (s.rx (d ||| 1)).toNat) bj
  .ok t.finish

/-- The target of a PC-relative branch (R116). -/
def State.target (s : State) (imm : Word) : VAddr := s.basePc + (imm * 2).setWidth 56

/-- A conditional branch (R171). -/
def State.branchIf (s : State) (c : Bool) (imm : Word) : State := if c then s.goto (s.target imm) else s.finish

/-! ## The return stack (R174, R175) -/

/-- The maker of the context's spills and fills: message and firmware contexts spill with the rights of `PDID` 0 (R174). -/
def State.spillReq (s : State) : Req :=
  match kindOf s.cur with
  | .user => s.req
  | .keep => s.req
  | _ => s.reqAs 0

/-- The location of a spill or fill of 8 bytes, after its checks (R175); `info` is 0 for a spill and 1 for a fill. -/
def State.spillLoc (s : State) (need : BitVec 5) (info : BitVec 16) (va : Nat) : Except Stop (State × Loc) :=
  if va % 8 != 0 then .error (.trap cMisalign 3 (BitVec.ofNat 64 va))
  else match s.locate s.spillReq need va with
    | .ok r => .ok r
    | .error (.xlate a) => .error (.trap cSpillXlate info (BitVec.ofNat 64 a))
    | .error e => .error (accStop cSpillXlate e)

/-- `SPILLSIZE` (R174): by the context's domain, or 2 KiB for a message or firmware context. -/
def State.spillSize (s : State) : Nat :=
  match kindOf s.cur with
  | .user => 2 ^ (s.domain s.me.pdid.toNat).log2spill
  | .keep => 2 ^ (s.domain s.me.pdid.toNat).log2spill
  | _ => 2048

/-- Address of spill entry `k` (R174). -/
def Ctx.spillAddr (x : Ctx) (k : Nat) : Nat := (x.spillBase.toNat + 8 * k) % 2 ^ 56

/-- A return address pushed onto hardware entries that are not full. -/
def RetStack.push (r : RetStack) (v : VAddr) : RetStack :=
  { r with hw := r.hw.setIfInBounds r.depth v, depth := r.depth + 1 }

/-- The hardware entries moved down by one, after the oldest has been spilled. -/
def RetStack.shift (r : RetStack) : RetStack :=
  { r with hw := Vector.ofFn (fun k : Fin 16 => if h : k.val + 1 < 16 then r.hw[k.val + 1] else r.hw[k.val]), depth := 15,
           spilled := r.spilled + 1 }

/-- `PushReturn` (R174). -/
def State.pushReturn (s : State) (v : VAddr) : Except Stop State :=
  if s.me.rs.depth = 16 then
    let va := s.me.spillAddr s.me.rs.spilled
    if s.spillSize < 8 * (s.me.rs.spilled + 1) then .error (.trap cRstackOvf 0 (BitVec.ofNat 64 va))
    else match s.spillLoc rW 0 va with
      | .error e => .error e
      | .ok (t, l) =>
        match t.claim true va l with
        | .error e => .error e
        | .ok u =>
          let w := u.putAt l va (toBytes 8 (s.me.rs.hw[0]).toNat)
          .ok (w.withMe { w.me with rs := s.me.rs.shift.push v })
  else .ok (s.withMe { s.me with rs := s.me.rs.push v })

/-- `PopReturn` with the check of `RET` on bit 0 (R173 to R175): the value, and the state with it popped. -/
def State.popReturn (s : State) : Except Stop (State × VAddr) :=
  if 0 < s.me.rs.depth then
    let v := (s.me.rs.hw[s.me.rs.depth - 1]?).getD 0
    if v.getLsbD 0 then .error (.trap cMisalign 0xF (v.setWidth 64))
    else .ok (s.withMe { s.me with rs := { s.me.rs with depth := s.me.rs.depth - 1 } }, v)
  else if s.me.rs.spilled = 0 then .error (.trap cRstackEmpty 0 0)
  else
    let va := s.me.spillAddr (s.me.rs.spilled - 1)
    match s.spillLoc rR 1 va with
    | .error e => .error e
    | .ok (t0, l) =>
      match t0.claim false va l with
      | .error e => .error e
      | .ok t =>
        let w := BitVec.ofNat 64 (ofBytes (t.getOn t.me pCore l 8))
        if w.getLsbD 0 then .error (.trap cMisalign 0xF w)
        else
          let u := (if t.flagged va then t.poisonless else t).sawOn (some t.cur) pCore l 8
          .ok (u.withMe { u.me with rs := { u.me.rs with spilled := u.me.rs.spilled - 1 } }, w.setWidth 56)

/-- The target T of `JR` and `CALLR` (R173). -/
def State.jumpTarget (s : State) (a : XReg) : Except Stop VAddr :=
  if (s.rx a).getLsbD 0 then .error (.trap cMisalign 0xF (s.rx a)) else .ok ((s.rx a).setWidth 56)

/-! ## The meanings -/

/-- `ADD` (R158: `FatAdd` with A as the pointer). -/
def execAdd (d a b : XReg) (s : State) : Host.Outcome State Fault Refusal :=
  act s (do
    let v ← fatAddS (s.rx a) (s.rx b).toInt
    .ok (s.wx d v).finish)

/-- `SUB` (R158: A − B modulo 2^64). -/
def execSub (d a b : XReg) (s : State) : Host.Outcome State Fault Refusal :=
  act s (.ok (s.wx d (s.rx a - s.rx b)).finish)

/-- `AND` (R158: bitwise AND). -/
def execAnd (d a b : XReg) (s : State) : Host.Outcome State Fault Refusal :=
  act s (.ok (s.wx d (s.rx a &&& s.rx b)).finish)

/-- `OR` (R158: bitwise OR). -/
def execOr (d a b : XReg) (s : State) : Host.Outcome State Fault Refusal :=
  act s (.ok (s.wx d (s.rx a ||| s.rx b)).finish)

/-- `XOR` (R158: bitwise exclusive OR). -/
def execXor (d a b : XReg) (s : State) : Host.Outcome State Fault Refusal :=
  act s (.ok (s.wx d (s.rx a ^^^ s.rx b)).finish)

/-- `SLT` (R158: 1 if A is less than B as signed values). -/
def execSlt (d a b : XReg) (s : State) : Host.Outcome State Fault Refusal :=
  act s (.ok (s.wx d (boolWord ((s.rx a).slt (s.rx b)))).finish)

/-- `SLTU` (R158: 1 if A is less than B as unsigned values). -/
def execSltu (d a b : XReg) (s : State) : Host.Outcome State Fault Refusal :=
  act s (.ok (s.wx d (boolWord ((s.rx a).ult (s.rx b)))).finish)

/-- `SEQ` (R158: 1 if A equals B). -/
def execSeq (d a b : XReg) (s : State) : Host.Outcome State Fault Refusal :=
  act s (.ok (s.wx d (boolWord (s.rx a == s.rx b))).finish)

/-- `SLL` (R159: left by B[5:0]). -/
def execSll (d a b : XReg) (s : State) : Host.Outcome State Fault Refusal :=
  act s (.ok (s.wxLat d (s.rx a <<< shAmt (s.rx b)) latBitop).finish)

/-- `SRL` (R159: right by B[5:0], filling with zeros). -/
def execSrl (d a b : XReg) (s : State) : Host.Outcome State Fault Refusal :=
  act s (.ok (s.wxLat d (s.rx a >>> shAmt (s.rx b)) latBitop).finish)

/-- `SRA` (R159: right by B[5:0], filling with A[63]). -/
def execSra (d a b : XReg) (s : State) : Host.Outcome State Fault Refusal :=
  act s (.ok (s.wxLat d ((s.rx a).sshiftRight (shAmt (s.rx b))) latBitop).finish)

/-- `ROR` (R159: rotation right by B[5:0]). -/
def execRor (d a b : XReg) (s : State) : Host.Outcome State Fault Refusal :=
  act s (.ok (s.wxLat d ((s.rx a).rotateRight (shAmt (s.rx b))) latBitop).finish)

/-- `MUL` (R160: P[63:0]). -/
def execMul (d a b : XReg) (s : State) : Host.Outcome State Fault Refusal :=
  act s (.ok (s.wxLat d (s.rx a * s.rx b) latMullo).finish)

/-- `MHIGH` (R160: P[127:64] of the signed product). -/
def execMhigh (d a b : XReg) (s : State) : Host.Outcome State Fault Refusal :=
  act s (.ok (s.wxLat d (highWord ((s.rx a).toInt * (s.rx b).toInt)) latMulhi).finish)

/-- `MHIGHU` (R160: P[127:64] of the unsigned product). -/
def execMhighu (d a b : XReg) (s : State) : Host.Outcome State Fault Refusal :=
  act s (.ok (s.wxLat d (highWord (((s.rx a).toNat * (s.rx b).toNat : Nat) : Int)) latMulhi).finish)

/-- `MHIGHX` (R160: P[127:64] of the signed by unsigned product). -/
def execMhighx (d a b : XReg) (s : State) : Host.Outcome State Fault Refusal :=
  act s (.ok (s.wxLat d (highWord ((s.rx a).toInt * ((s.rx b).toNat : Int))) latMulhi).finish)

/-- `DIV` (R161: truncated signed quotient). -/
def execDiv (d a b : XReg) (s : State) : Host.Outcome State Fault Refusal :=
  act s (.ok (((s.wx d (divS (s.rx a) (s.rx b))).raise (divFlags (s.rx b))).finish))

/-- `DIVU` (R161: unsigned quotient). -/
def execDivu (d a b : XReg) (s : State) : Host.Outcome State Fault Refusal :=
  act s (.ok (((s.wx d (divU (s.rx a) (s.rx b))).raise (divFlags (s.rx b))).finish))

/-- `REM` (R161: signed remainder). -/
def execRem (d a b : XReg) (s : State) : Host.Outcome State Fault Refusal :=
  act s (.ok (((s.wx d (remS (s.rx a) (s.rx b))).raise (divFlags (s.rx b))).finish))

/-- `REMU` (R161: unsigned remainder). -/
def execRemu (d a b : XReg) (s : State) : Host.Outcome State Fault Refusal :=
  act s (.ok (((s.wx d (remU (s.rx a) (s.rx b))).raise (divFlags (s.rx b))).finish))

/-- `CLZ` (R162: number of leading zero bits). -/
def execClz (d a : XReg) (s : State) : Host.Outcome State Fault Refusal :=
  act s (.ok (s.wxLat d (BitVec.ofNat 64 (leadingZeros (s.rx a).toNat)) latBitop).finish)

/-- `CTZ` (R162: number of trailing zero bits). -/
def execCtz (d a : XReg) (s : State) : Host.Outcome State Fault Refusal :=
  act s (.ok (s.wxLat d (BitVec.ofNat 64 (trailingZeros 64 (s.rx a).toNat)) latBitop).finish)

/-- `POPC` (R162: number of one bits). -/
def execPopc (d a : XReg) (s : State) : Host.Outcome State Fault Refusal :=
  act s (.ok (s.wxLat d (BitVec.ofNat 64 (oneBits 64 (s.rx a).toNat)) latBitop).finish)

/-- `BREV` (R162: bits in reverse order). -/
def execBrev (d a : XReg) (s : State) : Host.Outcome State Fault Refusal :=
  act s (.ok (s.wxLat d (BitVec.ofNat 64 (reverseBits 64 (s.rx a).toNat)) latBitop).finish)

/-- `SEXTB` (R162: `SignExtend`(A, 8, 64)). -/
def execSextb (d a : XReg) (s : State) : Host.Outcome State Fault Refusal :=
  act s (.ok (s.wx d (sextNat 8 (s.rx a).toNat)).finish)

/-- `SEXTH` (R162: `SignExtend`(A, 16, 64)). -/
def execSexth (d a : XReg) (s : State) : Host.Outcome State Fault Refusal :=
  act s (.ok (s.wx d (sextNat 16 (s.rx a).toNat)).finish)

/-- `SEXTW` (R162: `SignExtend`(A, 32, 64)). -/
def execSextw (d a : XReg) (s : State) : Host.Outcome State Fault Refusal :=
  act s (.ok (s.wx d (sextNat 32 (s.rx a).toNat)).finish)

/-- `ZEXTW` (R162: `ZeroExtend`(A, 32, 64)). -/
def execZextw (d a : XReg) (s : State) : Host.Outcome State Fault Refusal :=
  act s (.ok (s.wx d (BitVec.ofNat 64 ((s.rx a).toNat % 2 ^ 32))).finish)

/-- `ADDI` (R163: `FatAdd` of A and the immediate). -/
def execAddi (d a : XReg) (imm : Word) (s : State) : Host.Outcome State Fault Refusal :=
  act s (do
    let v ← s.ea a imm
    .ok (s.wx d v).finish)

/-- `ANDI` (R163: AND with the immediate). -/
def execAndi (d a : XReg) (imm : Word) (s : State) : Host.Outcome State Fault Refusal :=
  act s (.ok (s.wx d (s.rx a &&& imm)).finish)

/-- `ORI` (R163: OR with the immediate). -/
def execOri (d a : XReg) (imm : Word) (s : State) : Host.Outcome State Fault Refusal :=
  act s (.ok (s.wx d (s.rx a ||| imm)).finish)

/-- `XORI` (R163: exclusive OR with the immediate). -/
def execXori (d a : XReg) (imm : Word) (s : State) : Host.Outcome State Fault Refusal :=
  act s (.ok (s.wx d (s.rx a ^^^ imm)).finish)

/-- `SLTI` (R163: signed compare with the immediate). -/
def execSlti (d a : XReg) (imm : Word) (s : State) : Host.Outcome State Fault Refusal :=
  act s (.ok (s.wx d (boolWord ((s.rx a).slt imm))).finish)

/-- `SLLI` (R163: as `SLL` with n the immediate; class `SIMPLE` (R157)). -/
def execSlli (d a : XReg) (n : BitVec 6) (s : State) : Host.Outcome State Fault Refusal :=
  act s (.ok (s.wx d (s.rx a <<< n.toNat)).finish)

/-- `SRLI` (R163: as `SRL` with n the immediate; class `SIMPLE` (R157)). -/
def execSrli (d a : XReg) (n : BitVec 6) (s : State) : Host.Outcome State Fault Refusal :=
  act s (.ok (s.wx d (s.rx a >>> n.toNat)).finish)

/-- `SRAI` (R163: as `SRA` with n the immediate; class `SIMPLE` (R157)). -/
def execSrai (d a : XReg) (n : BitVec 6) (s : State) : Host.Outcome State Fault Refusal :=
  act s (.ok (s.wx d ((s.rx a).sshiftRight n.toNat)).finish)

/-- `LI` (R164: the immediate). -/
def execLi (d : XReg) (imm : Word) (s : State) : Host.Outcome State Fault Refusal :=
  act s (.ok (s.wx d imm).finish)

/-- `LIS` (R164: x[rd] shifted left by 16, with the immediate below). -/
def execLis (d : XReg) (imm : BitVec 16) (s : State) : Host.Outcome State Fault Refusal :=
  act s (.ok (s.wx d ((s.rx d <<< 16) ||| imm.setWidth 64)).finish)

/-- `LEA` (R165: `FatAdd` of A and B scaled, the product exact). -/
def execLea (d a b : XReg) (sc : BitVec 2) (s : State) : Host.Outcome State Fault Refusal :=
  act s (do
    let v ← fatAddS (s.rx a) ((s.rx b).toInt * (2 ^ sc.toNat : Int))
    .ok (s.wx d v).finish)

/-- `LD` (R166: 8 bytes). -/
def execLd (d a : XReg) (imm : Word) (s : State) : Host.Outcome State Fault Refusal :=
  act s (s.loadOp d a imm 8 false)

/-- `LW` (R166: 4 bytes, sign-extended). -/
def execLw (d a : XReg) (imm : Word) (s : State) : Host.Outcome State Fault Refusal :=
  act s (s.loadOp d a imm 4 true)

/-- `LWU` (R166: 4 bytes, zero-extended). -/
def execLwu (d a : XReg) (imm : Word) (s : State) : Host.Outcome State Fault Refusal :=
  act s (s.loadOp d a imm 4 false)

/-- `LH` (R166: 2 bytes, sign-extended). -/
def execLh (d a : XReg) (imm : Word) (s : State) : Host.Outcome State Fault Refusal :=
  act s (s.loadOp d a imm 2 true)

/-- `LHU` (R166: 2 bytes, zero-extended). -/
def execLhu (d a : XReg) (imm : Word) (s : State) : Host.Outcome State Fault Refusal :=
  act s (s.loadOp d a imm 2 false)

/-- `LB` (R166: 1 byte, sign-extended). -/
def execLb (d a : XReg) (imm : Word) (s : State) : Host.Outcome State Fault Refusal :=
  act s (s.loadOp d a imm 1 true)

/-- `LBU` (R166: 1 byte, zero-extended). -/
def execLbu (d a : XReg) (imm : Word) (s : State) : Host.Outcome State Fault Refusal :=
  act s (s.loadOp d a imm 1 false)

/-- `LQ` (R166: 16 bytes to x[rd] and x[rd+1], rd even). -/
def execLq (d a : XReg) (imm : Word) (s : State) : Host.Outcome State Fault Refusal :=
  act s (s.loadQuad d a imm)

/-- `SD` (R167: the low 8 bytes of x[rd]). -/
def execSd (d a : XReg) (imm : Word) (bj : Bool) (s : State) : Host.Outcome State Fault Refusal :=
  act s (s.storeOp d a imm bj 8)

/-- `SW` (R167: the low 4 bytes of x[rd]). -/
def execSw (d a : XReg) (imm : Word) (bj : Bool) (s : State) : Host.Outcome State Fault Refusal :=
  act s (s.storeOp d a imm bj 4)

/-- `SH` (R167: the low 2 bytes of x[rd]). -/
def execSh (d a : XReg) (imm : Word) (bj : Bool) (s : State) : Host.Outcome State Fault Refusal :=
  act s (s.storeOp d a imm bj 2)

/-- `SB` (R167: the low 1 byte of x[rd]). -/
def execSb (d a : XReg) (imm : Word) (bj : Bool) (s : State) : Host.Outcome State Fault Refusal :=
  act s (s.storeOp d a imm bj 1)

/-- `SQ` (R167: x[rd] and x[rd+1], rd even). -/
def execSq (d a : XReg) (imm : Word) (bj : Bool) (s : State) : Host.Outcome State Fault Refusal :=
  act s (s.storeQuad d a imm bj)

/-- `BEQZ` (R171: branches if x[rd] is 0). -/
def execBeqz (d : XReg) (imm : Word) (s : State) : Host.Outcome State Fault Refusal :=
  act s (.ok (s.branchIf (s.rx d == 0) imm))

/-- `BNEZ` (R171: branches if x[rd] is not 0). -/
def execBnez (d : XReg) (imm : Word) (s : State) : Host.Outcome State Fault Refusal :=
  act s (.ok (s.branchIf (s.rx d != 0) imm))

/-- `BLTZ` (R171: branches if x[rd] is negative). -/
def execBltz (d : XReg) (imm : Word) (s : State) : Host.Outcome State Fault Refusal :=
  act s (.ok (s.branchIf ((s.rx d).slt 0) imm))

/-- `BGEZ` (R171: branches if x[rd] is not negative). -/
def execBgez (d : XReg) (imm : Word) (s : State) : Host.Outcome State Fault Refusal :=
  act s (.ok (s.branchIf (!(s.rx d).slt 0) imm))
/-- `J` (R172). -/
def execJ (s : State) : Host.Outcome State Fault Refusal :=
  act s (.ok (s.goto (s.target s.immOpd)))

/-- `CALL` (R172): pushes the address of the halfword after the base word. -/
def execCall (s : State) : Host.Outcome State Fault Refusal :=
  act s (do
    let t ← s.pushReturn s.nextPc
    .ok (t.goto (s.target s.immOpd)))

/-- `JR` (R173). -/
def execJr (a : XReg) (s : State) : Host.Outcome State Fault Refusal :=
  act s (do
    let t ← s.jumpTarget a
    .ok (s.goto t))

/-- `CALLR` (R173). -/
def execCallr (a : XReg) (s : State) : Host.Outcome State Fault Refusal :=
  act s (do
    let t ← s.jumpTarget a
    let u ← s.pushReturn s.nextPc
    .ok (u.goto t))

/-- `RET` (R173). -/
def execRet (s : State) : Host.Outcome State Fault Refusal :=
  act s (do
    let (t, v) ← s.popReturn
    .ok (t.goto v))

end Sys2Proof.Machine
end

