-- ==== Sys2Proof/Machine/Pipe.lean ====
section
/-! DEFINITION. What the units do between instructions (spec/03_core.md R87 to R92): firmware credit, the confirmation and the
performing of accesses, and the vector queue. -/

namespace Sys2Proof.Machine

/-! ## Firmware credit (R87) -/

/-- `FIRMWARE_CREDIT_REFILL` (R87): in a cycle in which `DCYC` mod 64 is 0. -/
def State.creditRefill (s : State) (core : Nat) (side : Bool) : State :=
  if (s.die (core / 96)).dcyc.toNat % 64 = 0 then
    let x := s.side core side
    s.setSide core side { x with credit := min 64 (x.credit + (s.core core).share.toNat) }
  else s

/-- `FIRMWARE_CREDIT_REFILL` (R87). -/
def execFirmwareCreditRefill (s : State) : Host.Outcome State Fault Refusal :=
  match s.opd with
  | .side core side => .next (s.creditRefill core side)
  | _ => .next s

/-! ## Confirmation (R90, R91, R236, R237) -/

/-- The rights that an access needs (R236). -/
def accNeed (a : Access) : BitVec 5 :=
  match a with
  | .fetch => rX
  | .load => rR
  | .store => rW
  | .atomic => rRWA
  | .wait => rRA
  | .engRead => rER
  | .engWrite => rEW
  | .spill => rW
  | .fill => rR

/-- The cause of a missing translation for an access (R389). -/
def accCause (a : Access) : BitVec 8 :=
  match a with
  | .fetch => cFetchXlate
  | .spill => cSpillXlate
  | .fill => cSpillXlate
  | _ => cDataXlate

/-- An access of an engine, whose freeze is its stream's (R237, R269). -/
def accByEngine (a : Access) : Bool := a == .engRead || a == .engWrite

/-- Who makes an access of the executing context: a spill or fill is made as R174 says. -/
def State.accReq (s : State) (a : Access) : Req :=
  match a with
  | .spill => s.spillReq
  | .fill => s.spillReq
  | _ => s.req

/-- A VQ, newest entry first, without the newest `n` entries of a context, and with `k` strip advances taken back from the
entries that are dropped and from the newest that is left; and how many of the `k` are left over. -/
def dropNewest (l : List VqEntry) (slot n k : Nat) : List VqEntry × Nat :=
  match l with
  | [] => ([], k)
  | e :: r =>
    if e.slot = slot then
      (if 0 < n && !e.started then dropNewest r slot (n - 1) (k - e.strips)
       else ({ e with strips := e.strips - k } :: r, k - e.strips))
    else
      let o := dropNewest r slot n k
      (e :: o.1, o.2)

/-- The executing context's VQ entries that it took after an operation discarded, with the strip advances made after it (R91:
none of the entries has started). -/
def State.dropVq (s : State) (l : Later) : State :=
  if kindOf s.cur = .user then
    let x := s.mySide
    let o := dropNewest x.vq.reverse s.cur.slot l.vq l.strips
    (s.setMySide { x with vq := o.1.reverse }).withMe
      { s.me with strip := s.me.strip - BitVec.ofNat 32 l.strips, stripDone := s.me.stripDone - BitVec.ofNat 32 o.2 }
  else s

/-- A context's registers as they were before what it issued after an operation (R91). -/
def Ctx.discard (x : Ctx) (l : Later) : Ctx :=
  let v : VecState := { x.vec with
    v := l.vs.foldl (fun a p => a.set p.1.toNat p.2 (p.1.isLt)) x.vec.v,
    m := l.ms.foldl (fun a p => a.set p.1.toNat p.2 (p.1.isLt)) x.vec.m }
  let w : VecState := match l.dirty with
    | some (a, b) => { v with vdirty := a, vhwm := b }
    | none => v
  { x with
    x := l.xs.foldl (fun a p => xSet a p.1 p.2) x.x,
    vec := match l.cfg with
      | some (a, b, c) => { w with vl := a, vt := b, vw2 := c }
      | none => w,
    flags := l.flags.getD x.flags,
    travBudget := l.trav.getD x.travBudget,
    rs := match l.calls with
      | some (h, d, n) => { hw := Vector.ofFn (fun i : Fin 16 => h.getD i.val 0), depth := d, spilled := n }
      | none => x.rs }

/-- The stop of a memory operation that is not confirmed: a fill without a translation records that it is one (R181). -/
def opStop (a : Access) (e : AccErr) : Stop :=
  match a, e with
  | .fill, .xlate va => .trap cSpillXlate 1 (BitVec.ofNat 64 va)
  | _, _ => accStop (accCause a) e

/-- An earlier record of the master that a memory operation of the executing context faults for is held: that master takes no other (R391). -/
def State.opLate (s : State) (op : MemOp) : Bool := if accByEngine op.acc then s.streamHeld s.cur 2 else s.recordHeld s.cur

/-- A fault returned for a memory operation of the executing context (R91): what it issued after is discarded, and the fault is
taken at the operation. An engine's access is not the context's: its stream freezes (R269). While an earlier record of its master is held
the fault waits, and the context issues nothing (R391). -/
def State.opFault (s : State) (op : MemOp) (e : AccErr) : State :=
  if s.opLate op then s.withMe { s.me with late := if s.me.late.contains op then s.me.late else s.me.late ++ [op] }
  else if accByEngine op.acc then
    match e with
    | .right m a => s.freezeEngine (s.ownerOf s.cur) s.cur s.me.pdid s.me.launchId (m, a)
    | _ => s
  else
    let t := s.dropVq op.later
    let u := t.withMe { t.me.discard op.later with pc := op.fpc }
    u.stop ((opStop op.acc e).at_ (BitVec.ofNat 64 op.va.toNat))

/-- The context may have operations that are not confirmed (R77): it runs, drains or is being saved. One that waits has none. -/
def CtxState.issuing (x : CtxState) : Bool := x == .run || x == .drain || x == .saving

/-- The context may have operations that have not performed: it has operations out, or waits. -/
def CtxState.performing (x : CtxState) : Bool := x.issuing || x == .wait

/-- `MEMORY_CONFIRM` (R90, R91): the memory system establishes the operation's rights and translation, or returns its fault. A killed
context takes none (R397). -/
def State.memConfirm (s : State) (c : CtxId) (op : MemOp) : State :=
  if (s.ctx c).st.issuing && !(s.ctx c).killed then
    let u := s.focus c
    let t := u.withMe { u.me with late := u.me.late.erase op }
    match t.locate (t.accReq op.acc) (accNeed op.acc) op.va.toNat with
    | .ok (u, _) => u
    | .error e => t.opFault op e
  else s

/-- `MEMORY_CONFIRM` (R90). -/
def execMemoryConfirm (s : State) : Host.Outcome State Fault Refusal :=
  match s.opd with
  | .ctxOp c op => .next (s.memConfirm c op)
  | _ => .next s

/-! ## Performing (R92) -/

/-- A value of `n` bytes as its load extends it. -/
def loadExt (signed : Bool) (n v : Nat) : Word := if signed then BitVec.ofInt 64 (signedNat (8 * n) v) else BitVec.ofNat 64 v

/-- An operation of the executing context performed at the home (R92): a load's data returns to its register; a store's bytes
are written, a spill's whatever the attribute of the segment (R175); an atomic's word is replaced and the old one returns. Instruction fetches and engine accesses leave nothing here. -/
def State.accDone (s : State) (l : Loc) (op : MemOp) : Except Stop State :=
  match op.acc with
  | .load => do
    let (t, bs) ← s.readAt l op.va.toNat op.size
    .ok (t.wx op.reg (loadExt op.signed op.size (ofBytes bs)))
  | .wait => do
    let (t, bs) ← s.readAt l op.va.toNat op.size
    .ok (t.wx op.reg (loadExt op.signed op.size (ofBytes bs)))
  | .store => s.storeAt l op.va.toNat (toBytes op.size op.data.toNat)
  | .spill => do
    let t ← s.claim true op.va.toNat l
    .ok (t.putAt l op.va.toNat (toBytes op.size op.data.toNat))
  | .atomic => do
    let v := ofBytes (s.st.get l op.size)
    let t0 ← s.storeAt l op.va.toNat (toBytes op.size op.data.toNat)
    let t := if s.flagged op.va.toNat then t0.poisonless else t0
    .ok ((t.strongWrote l op.size).wx op.reg (loadExt op.signed op.size v))
  | _ => .ok s

/-- `ACCESS_PERFORMED` (R92): a confirmed operation performs; one that is not confirmed does not. -/
def State.accessPerformed (s : State) (c : CtxId) (op : MemOp) : State :=
  if (s.ctx c).st.performing then
    let t := s.focus c
    match t.locate (t.accReq op.acc) (accNeed op.acc) op.va.toNat with
    | .error _ => s
    | .ok (u, l) =>
      match u.accDone l op with
      | .ok v => v
      | .error _ => s
  else s

/-- `ACCESS_PERFORMED` (R92). -/
def execAccessPerformed (s : State) : Host.Outcome State Fault Refusal :=
  match s.opd with
  | .ctxOp c op => .next (s.accessPerformed c op)
  | _ => .next s

/-! ## The vector queue (R89, R94) -/

/-- The oldest entry that has not started, started. -/
def startFirst (l : List VqEntry) : List VqEntry :=
  match l with
  | [] => []
  | e :: r => if e.started then e :: startFirst r else { e with started := true } :: r

/-- `VQ_ENTRY_START` (R89). -/
def State.vqStart (s : State) (core : Nat) (side : Bool) : State :=
  s.setSide core side { s.side core side with vq := startFirst (s.side core side).vq }

/-- `VQ_ENTRY_START` (R89). -/
def execVqEntryStart (s : State) : Host.Outcome State Fault Refusal :=
  match s.opd with
  | .side core side => .next (s.vqStart core side)
  | _ => .next s

/-- `VQ_ENTRY_LEAVE` (R89, R94): the oldest started entry leaves, and the strip advances behind it complete. -/
def State.vqLeave (s : State) (core : Nat) (side : Bool) : State :=
  match (s.side core side).vq.find? (·.started) with
  | none => s
  | some e => (s.setSide core side { s.side core side with vq := (s.side core side).vq.erase e }).credited core side e

/-- `VQ_ENTRY_LEAVE` (R89). -/
def execVqEntryLeave (s : State) : Host.Outcome State Fault Refusal :=
  match s.opd with
  | .side core side => .next (s.vqLeave core side)
  | _ => .next s

end Sys2Proof.Machine
end

