-- ==== Sys2Proof/Machine/Texel.lean ====
section
/-! DEFINITION. The texels of a compressed source block (spec/09_memory.md R257, R258). R258 names the documents that define the blocks,
the Khronos Data Format Specification for BC1 to BC7 and the ASTC specification, and gives no bit of them: everything here but R258's own
table is PRESUMED, as those documents have it (log entry 9). A block is the number of its 8 or 16 bytes; texel `i` of a block of
4 by 4 is that at x = i mod 4, y = i / 4. -/

namespace Sys2Proof.Machine

/-- An RGBA8 word from its four channels (R227). -/
def rgba (f : Nat → Nat) : Nat := f 0 + 256 * f 1 + 65536 * f 2 + 16777216 * f 3

/-- Channel `c` of an RGBA8 word. -/
def chan (w c : Nat) : Nat := w / 2 ^ (8 * c) % 256

/-- An RGBA8 word from a list of channels. -/
def rgbaOf (l : List Nat) : Nat := rgba (fun c => l.getD c 0)

/-- The channel whose defined value is `num` / `den`: of the two whole numbers next to a value that is none, which one is free, since no
document that R258 names rounds it. -/
def toChannel (num den : Nat) : Nat := num / den + (if num % den ≠ 0 && Config.texelUp num den then 1 else 0)

/-- A number of `n` bits repeated to `out` bits, its top bits first. -/
def repBits (v n out : Nat) : Nat := (List.range 9).foldl (fun x _ => x * 2 ^ n + v) 0 / 2 ^ (9 * n - out)

/-- The entry of a table. -/
def tab (l : List Nat) (i : Nat) : Nat := l.getD i 0

/-! ## BC1 to BC5 -/

/-- Channel `c` of the 5:6:5 endpoint at bit `o`, and the value that stands for 1. -/
def end565 (block o c : Nat) : Nat × Nat :=
  match c with
  | 0 => (bitsOf block (o + 11) 5, 31)
  | 1 => (bitsOf block (o + 5) 6, 63)
  | _ => (bitsOf block o 5, 31)

/-- Channel `c` between the two endpoints, `p` and `q` parts of each. -/
def mix565 (block c p q : Nat) : Nat :=
  let a := end565 block 0 c
  toChannel (255 * (p * a.1 + q * (end565 block 16 c).1)) ((p + q) * a.2)

/-- The colour channels of texel `i` of a colour block of 64 bits, with `four` of four colours; `none` for its transparent texel. -/
def bcColour (block i : Nat) (four : Bool) : Option (List Nat) :=
  let mix (p q : Nat) : Option (List Nat) := some ((List.range 3).map fun c => mix565 block c p q)
  match bitsOf block (32 + 2 * i) 2, four with
  | 0, _ => mix 1 0
  | 1, _ => mix 0 1
  | 2, true => mix 2 1
  | _, true => mix 1 2
  | 2, false => mix 1 1
  | _, false => none

/-- BC1: the first endpoint above the second makes four colours. -/
def bc1 (block i : Nat) : Nat :=
  match bcColour block i (decide (bitsOf block 16 16 < bitsOf block 0 16)) with
  | some l => rgbaOf (l ++ [255])
  | none => 0

/-- The value of texel `i` of a single-channel block of 64 bits. -/
def bcValue (block i : Nat) : Nat :=
  let a := bitsOf block 0 8
  let b := bitsOf block 8 8
  let k := bitsOf block (16 + 3 * i) 3
  if k = 0 then a
  else if k = 1 then b
  else if b < a then toChannel ((8 - k) * a + (k - 1) * b) 7
  else if k = 6 then 0
  else if k = 7 then 255
  else toChannel ((6 - k) * a + (k - 1) * b) 5

/-- BC2: explicit alpha below a colour block. -/
def bc2 (block i : Nat) : Nat := rgbaOf (((bcColour (block / 2 ^ 64) i true).getD []) ++ [17 * bitsOf block (4 * i) 4])

/-- BC3: an alpha block below a colour block. -/
def bc3 (block i : Nat) : Nat := rgbaOf (((bcColour (block / 2 ^ 64) i true).getD []) ++ [bcValue block i])

/-! ## Partitions of BC6H and BC7 -/

/-- The texels of the second of two subsets, as a mask, and its anchor. -/
def parts2 : List Nat :=
  [0xcccc, 0x8888, 0xeeee, 0xecc8, 0xc880, 0xfeec, 0xfec8, 0xec80, 0xc800, 0xffec, 0xfe80, 0xe800, 0xffe8, 0xff00, 0xfff0, 0xf000] ++
  [0xf710, 0x008e, 0x7100, 0x08ce, 0x008c, 0x7310, 0x3100, 0x8cce, 0x088c, 0x3110, 0x6666, 0x366c, 0x17e8, 0x0ff0, 0x718e, 0x399c] ++
  [0xaaaa, 0xf0f0, 0x5a5a, 0x33cc, 0x3c3c, 0x55aa, 0x9696, 0xa55a, 0x73ce, 0x13c8, 0x324c, 0x3bdc, 0x6996, 0xc33c, 0x9966, 0x0660] ++
  [0x0272, 0x04e4, 0x4e40, 0x2720, 0xc936, 0x936c, 0x39c6, 0x639c, 0x9336, 0x9cc6, 0x817e, 0xe718, 0xccf0, 0x0fcc, 0x7744, 0xee22]
def anchors2 : List Nat :=
  [15, 15, 15, 15, 15, 15, 15, 15, 15, 15, 15, 15, 15, 15, 15, 15] ++
  [15, 2, 8, 2, 2, 8, 8, 15, 2, 8, 2, 2, 8, 8, 2, 2] ++
  [15, 15, 6, 8, 2, 8, 15, 15, 2, 8, 2, 2, 2, 15, 15, 6] ++
  [6, 2, 6, 8, 15, 15, 2, 2, 15, 15, 15, 15, 15, 2, 2, 15]

/-- The subset of each texel of three, two bits a texel, and the anchors of the second and the third. -/
def parts3 : List Nat :=
  [0xaa685050, 0x6a5a5040, 0x5a5a4200, 0x5450a0a8, 0xa5a50000, 0xa0a05050, 0x5555a0a0, 0x5a5a5050] ++
  [0xaa550000, 0xaa555500, 0xaaaa5500, 0x90909090, 0x94949494, 0xa4a4a4a4, 0xa9a59450, 0x2a0a4250] ++
  [0xa5945040, 0x0a425054, 0xa5a5a500, 0x55a0a0a0, 0xa8a85454, 0x6a6a4040, 0xa4a45000, 0x1a1a0500] ++
  [0x0050a4a4, 0xaaa59090, 0x14696914, 0x69691400, 0xa08585a0, 0xaa821414, 0x50a4a450, 0x6a5a0200] ++
  [0xa9a58000, 0x5090a0a8, 0xa8a09050, 0x24242424, 0x00aa5500, 0x24924924, 0x24499224, 0x50a50a50] ++
  [0x500aa550, 0xaaaa4444, 0x66660000, 0xa5a0a5a0, 0x50a050a0, 0x69286928, 0x44aaaa44, 0x66666600] ++
  [0xaa444444, 0x54a854a8, 0x95809580, 0x96969600, 0xa85454a8, 0x80959580, 0xaa141414, 0x96960000] ++
  [0xaaaa1414, 0xa05050a0, 0xa0a5a5a0, 0x96000000, 0x40804080, 0xa9a8a9a8, 0xaaaaaa44, 0x2a4a5254]
def anchors3a : List Nat :=
  [3, 3, 15, 15, 8, 3, 15, 15, 8, 8, 6, 6, 6, 5, 3, 3] ++
  [3, 3, 8, 15, 3, 3, 6, 10, 5, 8, 8, 6, 8, 5, 15, 15] ++
  [8, 15, 3, 5, 6, 10, 8, 15, 15, 3, 15, 5, 15, 15, 15, 15] ++
  [3, 15, 5, 5, 5, 8, 5, 10, 5, 10, 8, 13, 15, 12, 3, 3]
def anchors3b : List Nat :=
  [15, 8, 8, 3, 15, 15, 3, 8, 15, 15, 15, 15, 15, 15, 15, 8] ++
  [15, 8, 15, 3, 15, 8, 15, 8, 3, 15, 6, 10, 15, 15, 10, 8] ++
  [15, 3, 15, 10, 10, 8, 9, 10, 6, 15, 8, 15, 3, 6, 6, 8] ++
  [15, 3, 15, 15, 15, 15, 15, 15, 15, 15, 15, 15, 3, 15, 15, 8]

/-- The subset of a texel. -/
def subsetOf (n part i : Nat) : Nat :=
  match n with
  | 1 => 0
  | 2 => bitsOf (tab parts2 part) i 1
  | _ => bitsOf (tab parts3 part) (2 * i) 2

/-- The anchors of a partition: their indices lack the top bit. -/
def anchorsOf (n part : Nat) : List Nat :=
  match n with
  | 1 => [0]
  | 2 => [0, tab anchors2 part]
  | _ => [0, tab anchors3a part, tab anchors3b part]

/-- The index of texel `i` of `w` bits each from bit `o` on. -/
def indexAt (block o w : Nat) (anchors : List Nat) (i : Nat) : Nat :=
  let before := (anchors.filter (· < i)).length
  bitsOf block (o + w * i - before) (if anchors.contains i then w - 1 else w)

/-- The weight of the second endpoint, in 1/64, of an index of `w` bits. -/
def weightOf (w k : Nat) : Nat :=
  match w with
  | 2 => tab [0, 21, 43, 64] k
  | 3 => tab [0, 9, 18, 27, 37, 46, 55, 64] k
  | _ => tab [0, 4, 9, 13, 17, 21, 26, 30, 34, 38, 43, 47, 51, 55, 60, 64] k

/-! ## BC7 -/

/-- A mode of BC7: subsets; bits of the partition, the rotation and the index selection; of a colour and an alpha endpoint; P bits an
endpoint and a subset; bits of the two indices. -/
structure Bc7Mode where
  subsets : Nat
  part : Nat
  rot : Nat
  sel : Nat
  colour : Nat
  alpha : Nat
  pEach : Nat
  pShared : Nat
  index : Nat
  index2 : Nat
  deriving DecidableEq, Repr

def bc7Modes : List Bc7Mode :=
  [⟨3, 4, 0, 0, 4, 0, 1, 0, 3, 0⟩, ⟨2, 6, 0, 0, 6, 0, 0, 1, 3, 0⟩, ⟨3, 6, 0, 0, 5, 0, 0, 0, 2, 0⟩, ⟨2, 6, 0, 0, 7, 0, 1, 0, 2, 0⟩,
   ⟨1, 0, 2, 1, 5, 6, 0, 0, 2, 3⟩, ⟨1, 0, 2, 0, 7, 8, 0, 0, 2, 2⟩, ⟨1, 0, 0, 0, 7, 7, 1, 0, 4, 0⟩, ⟨2, 6, 0, 0, 5, 5, 1, 0, 2, 0⟩]

/-- The bit at which the fields behind the mode, the partition, the rotation and the selection begin; those behind the endpoints; and
those behind the P bits. -/
def Bc7Mode.ends (m : Bc7Mode) (mode : Nat) : Nat := mode + 1 + m.part + m.rot + m.sel
def Bc7Mode.pbits (m : Bc7Mode) (mode : Nat) : Nat := m.ends mode + 2 * m.subsets * (3 * m.colour + m.alpha)
def Bc7Mode.indices (m : Bc7Mode) (mode : Nat) : Nat := m.pbits mode + m.subsets * (2 * m.pEach + m.pShared)

/-- Channel `c` of endpoint `e`, as 8 bits. -/
def Bc7Mode.end_ (m : Bc7Mode) (mode block e c : Nat) : Nat :=
  let n := if c < 3 then m.colour else m.alpha
  if n = 0 then 255
  else
    let v := bitsOf block (m.ends mode + 2 * m.subsets * m.colour * c + n * e) n
    if m.pEach = 1 then repBits (2 * v + bitsOf block (m.pbits mode + e) 1) (n + 1) 8
    else if m.pShared = 1 then repBits (2 * v + bitsOf block (m.pbits mode + e / 2) 1) (n + 1) 8
    else repBits v n 8

/-- Texel `i` of a block of one mode. -/
def Bc7Mode.texel (m : Bc7Mode) (mode block i : Nat) : Nat :=
  let part := bitsOf block (mode + 1) m.part
  let rot := bitsOf block (mode + 1 + m.part) m.rot
  let sel := bitsOf block (mode + 1 + m.part + m.rot) m.sel
  let s := subsetOf m.subsets part i
  let o := m.indices mode
  let w1 := weightOf m.index (indexAt block o m.index (anchorsOf m.subsets part) i)
  let w2 := if m.index2 = 0 then w1 else weightOf m.index2 (indexAt block (o + 16 * m.index - m.subsets) m.index2 [0] i)
  let value (c : Nat) : Nat :=
    let w := if (c < 3) == (sel == 0) then w1 else w2
    ((64 - w) * m.end_ mode block (2 * s) c + w * m.end_ mode block (2 * s + 1) c + 32) / 64
  rgba (fun c => value (if rot = 0 then c else if c = 3 then rot - 1 else if c = rot - 1 then 3 else c))

/-- BC7: the mode is the place of the lowest bit set; the reserved mode gives 0 (R258). -/
def bc7 (block i : Nat) : Nat :=
  match (List.range 8).find? (fun k => bitOf block k) with
  | some k => (bc7Modes[k]?).elim 0 (fun m => m.texel k block i)
  | none => 0

/-! ## BC6H -/

/-- A mode of BC6H: its code; the bits of a first endpoint's channel; those of the three channels of the others, which are differences
from it where `diff` is set; whether it has two subsets; and its fields behind the code, in order, each one the value it belongs to
(channel c of endpoint e is 3 e + c, the partition 12), its low bit there and its width. -/
structure Bc6Mode where
  code : Nat
  prec : Nat
  delta : List Nat
  diff : Bool
  two : Bool
  fields : List (Nat × Nat × Nat)
  deriving DecidableEq, Repr

def bc6Modes : List Bc6Mode :=
  [⟨0, 10, [5, 5, 5], true, true,
     [(7, 4, 1), (8, 4, 1), (11, 4, 1), (0, 0, 10), (1, 0, 10), (2, 0, 10), (3, 0, 5), (10, 4, 1)] ++
     [(7, 0, 4), (4, 0, 5), (11, 0, 1), (10, 0, 4), (5, 0, 5), (11, 1, 1), (8, 0, 4), (6, 0, 5)] ++
     [(11, 2, 1), (9, 0, 5), (11, 3, 1), (12, 0, 5)]⟩,
   ⟨1, 7, [6, 6, 6], true, true,
     [(7, 5, 1), (10, 4, 1), (10, 5, 1), (0, 0, 7), (11, 0, 1), (11, 1, 1), (8, 4, 1), (1, 0, 7)] ++
     [(8, 5, 1), (11, 2, 1), (7, 4, 1), (2, 0, 7), (11, 3, 1), (11, 5, 1), (11, 4, 1), (3, 0, 6)] ++
     [(7, 0, 4), (4, 0, 6), (10, 0, 4), (5, 0, 6), (8, 0, 4), (6, 0, 6), (9, 0, 6), (12, 0, 5)]⟩,
   ⟨2, 11, [5, 4, 4], true, true,
     [(0, 0, 10), (1, 0, 10), (2, 0, 10), (3, 0, 5), (0, 10, 1), (7, 0, 4), (4, 0, 4), (1, 10, 1)] ++
     [(11, 0, 1), (10, 0, 4), (5, 0, 4), (2, 10, 1), (11, 1, 1), (8, 0, 4), (6, 0, 5), (11, 2, 1)] ++
     [(9, 0, 5), (11, 3, 1), (12, 0, 5)]⟩,
   ⟨6, 11, [4, 5, 4], true, true,
     [(0, 0, 10), (1, 0, 10), (2, 0, 10), (3, 0, 4), (0, 10, 1), (10, 4, 1), (7, 0, 4), (4, 0, 5)] ++
     [(1, 10, 1), (10, 0, 4), (5, 0, 4), (2, 10, 1), (11, 1, 1), (8, 0, 4), (6, 0, 4), (11, 0, 1)] ++
     [(11, 2, 1), (9, 0, 4), (7, 4, 1), (11, 3, 1), (12, 0, 5)]⟩,
   ⟨10, 11, [4, 4, 5], true, true,
     [(0, 0, 10), (1, 0, 10), (2, 0, 10), (3, 0, 4), (0, 10, 1), (8, 4, 1), (7, 0, 4), (4, 0, 4)] ++
     [(1, 10, 1), (11, 0, 1), (10, 0, 4), (5, 0, 5), (2, 10, 1), (8, 0, 4), (6, 0, 4), (11, 1, 1)] ++
     [(11, 2, 1), (9, 0, 4), (11, 4, 1), (11, 3, 1), (12, 0, 5)]⟩,
   ⟨14, 9, [5, 5, 5], true, true,
     [(0, 0, 9), (8, 4, 1), (1, 0, 9), (7, 4, 1), (2, 0, 9), (11, 4, 1), (3, 0, 5), (10, 4, 1)] ++
     [(7, 0, 4), (4, 0, 5), (11, 0, 1), (10, 0, 4), (5, 0, 5), (11, 1, 1), (8, 0, 4), (6, 0, 5)] ++
     [(11, 2, 1), (9, 0, 5), (11, 3, 1), (12, 0, 5)]⟩,
   ⟨18, 8, [6, 5, 5], true, true,
     [(0, 0, 8), (10, 4, 1), (8, 4, 1), (1, 0, 8), (11, 2, 1), (7, 4, 1), (2, 0, 8), (11, 3, 1)] ++
     [(11, 4, 1), (3, 0, 6), (7, 0, 4), (4, 0, 5), (11, 0, 1), (10, 0, 4), (5, 0, 5), (11, 1, 1)] ++
     [(8, 0, 4), (6, 0, 6), (9, 0, 6), (12, 0, 5)]⟩,
   ⟨22, 8, [5, 6, 5], true, true,
     [(0, 0, 8), (11, 0, 1), (8, 4, 1), (1, 0, 8), (7, 5, 1), (7, 4, 1), (2, 0, 8), (10, 5, 1)] ++
     [(11, 4, 1), (3, 0, 5), (10, 4, 1), (7, 0, 4), (4, 0, 6), (10, 0, 4), (5, 0, 5), (11, 1, 1)] ++
     [(8, 0, 4), (6, 0, 5), (11, 2, 1), (9, 0, 5), (11, 3, 1), (12, 0, 5)]⟩,
   ⟨26, 8, [5, 5, 6], true, true,
     [(0, 0, 8), (11, 1, 1), (8, 4, 1), (1, 0, 8), (8, 5, 1), (7, 4, 1), (2, 0, 8), (11, 5, 1)] ++
     [(11, 4, 1), (3, 0, 5), (10, 4, 1), (7, 0, 4), (4, 0, 5), (11, 0, 1), (10, 0, 4), (5, 0, 6)] ++
     [(8, 0, 4), (6, 0, 5), (11, 2, 1), (9, 0, 5), (11, 3, 1), (12, 0, 5)]⟩,
   ⟨30, 6, [6, 6, 6], false, true,
     [(0, 0, 6), (10, 4, 1), (11, 0, 1), (11, 1, 1), (8, 4, 1), (1, 0, 6), (7, 5, 1), (8, 5, 1)] ++
     [(11, 2, 1), (7, 4, 1), (2, 0, 6), (10, 5, 1), (11, 3, 1), (11, 5, 1), (11, 4, 1), (3, 0, 6)] ++
     [(7, 0, 4), (4, 0, 6), (10, 0, 4), (5, 0, 6), (8, 0, 4), (6, 0, 6), (9, 0, 6), (12, 0, 5)]⟩,
   ⟨3, 10, [10, 10, 10], false, false,
     [(0, 0, 10), (1, 0, 10), (2, 0, 10), (3, 0, 10), (4, 0, 10), (5, 0, 10)]⟩,
   ⟨7, 11, [9, 9, 9], true, false,
     [(0, 0, 10), (1, 0, 10), (2, 0, 10), (3, 0, 9), (0, 10, 1), (4, 0, 9), (1, 10, 1), (5, 0, 9)] ++
     [(2, 10, 1)]⟩,
   ⟨11, 12, [8, 8, 8], true, false,
     [(0, 0, 10), (1, 0, 10), (2, 0, 10), (3, 0, 8), (0, 11, 1), (0, 10, 1), (4, 0, 8), (1, 11, 1)] ++
     [(1, 10, 1), (5, 0, 8), (2, 11, 1), (2, 10, 1)]⟩,
   ⟨15, 16, [4, 4, 4], true, false,
     [(0, 0, 10), (1, 0, 10), (2, 0, 10), (3, 0, 4), (0, 15, 1), (0, 14, 1), (0, 13, 1), (0, 12, 1)] ++
     [(0, 11, 1), (0, 10, 1), (4, 0, 4), (1, 15, 1), (1, 14, 1), (1, 13, 1), (1, 12, 1), (1, 11, 1)] ++
     [(1, 10, 1), (5, 0, 4), (2, 15, 1), (2, 14, 1), (2, 13, 1), (2, 12, 1), (2, 11, 1), (2, 10, 1)]⟩]

/-- The values of a block's fields. -/
def bc6Read (block o : Nat) (l : List (Nat × Nat × Nat)) (v : List Nat) : List Nat :=
  match l with
  | [] => v
  | (k, lo, n) :: r => bc6Read block (o + n) r (v.set k (tab v k + bitsOf block o n * 2 ^ lo))

/-- Endpoint value `k` of a block with field values `v`. -/
def Bc6Mode.end_ (m : Bc6Mode) (signed : Bool) (v : List Nat) (k : Nat) : Int :=
  let rd (n : Nat) : Int := if signed then signedNat m.prec n else (n : Int)
  if m.diff && decide (3 ≤ k) then
    rd (wrapInt m.prec ((tab v (k % 3) : Nat) + signedNat (tab m.delta (k % 3)) (tab v k)))
  else rd (tab v k)

/-- An endpoint value spread over 16 bits. -/
def bc6Spread (signed : Bool) (prec : Nat) (v : Int) : Int :=
  if signed then
    let n := v.natAbs
    let u : Int := if 16 ≤ prec then n else if n = 0 then 0 else if 2 ^ (prec - 1) - 1 ≤ n then 0x7FFF
                   else ((n * 2 ^ 15 + 0x4000) / 2 ^ (prec - 1) : Nat)
    if v < 0 then -u else u
  else
    let n := v.toNat
    if 15 ≤ prec then n else if n = 0 then 0 else if n = 2 ^ prec - 1 then 0xFFFF else ((n * 2 ^ 16 + 0x8000) / 2 ^ prec : Nat)

/-- The bits of a binary16 number that is not negative, clamped to [0, 1], times 255, rounded RNE (R258). -/
def half255 (h : Nat) : Nat :=
  if 0x3C00 ≤ h then 255
  else
    let v := 255 * (if h < 1024 then 2 * h else (1024 + h % 1024) * 2 ^ (h / 1024))
    let q := v / 2 ^ 25
    let r := v % 2 ^ 25
    if 2 ^ 24 < r || (r == 2 ^ 24 && q % 2 == 1) then q + 1 else q

/-- Texel `i` of a block of one mode; a negative channel is clamped to 0. -/
def Bc6Mode.texel (m : Bc6Mode) (signed : Bool) (block i : Nat) : Nat :=
  let v := bc6Read block (if m.code < 2 then 2 else 5) m.fields (List.replicate 13 0)
  let n := if m.two then 2 else 1
  let s := subsetOf n (tab v 12) i
  let w : Int := if m.two then (weightOf 3 (indexAt block 82 3 (anchorsOf 2 (tab v 12)) i) : Nat)
                 else (weightOf 4 (indexAt block 65 4 [0] i) : Nat)
  rgba (fun c =>
    if c = 3 then 255
    else
      let a := bc6Spread signed m.prec (m.end_ signed v (6 * s + c))
      let b := bc6Spread signed m.prec (m.end_ signed v (6 * s + 3 + c))
      let x := ((64 - w) * a + w * b + 32) / 64
      half255 ((if signed then x * 31 / 32 else x * 31 / 64).toNat))

/-- BC6H. R258 has the block state whether it is signed, and a block states no such thing: it is free. A block of no mode is black. -/
def bc6 (block i : Nat) : Nat :=
  let code := if block % 4 < 2 then block % 4 else block % 32
  match bc6Modes.find? (fun m => m.code == code) with
  | some m => m.texel (Config.bc6Signed block) block i
  | none => 0xFF000000

/-! ## ASTC: integer sequences -/

/-- The ranges of integer sequences, rising: 0 none, 1 a trit or 2 a quint, over a number of bits. -/
def iseRanges : List (Nat × Nat) :=
  [(0, 1), (1, 0), (0, 2), (2, 0), (1, 1), (0, 3), (2, 1), (1, 2), (0, 4), (2, 2), (1, 3)] ++
  [(0, 5), (2, 3), (1, 4), (0, 6), (2, 4), (1, 5), (0, 7), (2, 5), (1, 6), (0, 8)]

/-- Bits of a sequence of `n` values. -/
def iseBits (r : Nat × Nat) (n : Nat) : Nat :=
  n * r.2 + (match r.1 with
    | 0 => 0
    | 1 => (8 * n + 4) / 5
    | _ => (7 * n + 2) / 3)

/-- The five trits of a packed byte. -/
def trits (t : Nat) : List Nat :=
  let all7 := bitsOf t 2 3 == 7
  let c := if all7 then bitsOf t 5 3 * 4 + bitsOf t 0 2 else bitsOf t 0 5
  let hi : List Nat := if all7 then [2, 2] else if bitsOf t 5 2 = 3 then [bitsOf t 7 1, 2] else [bitsOf t 5 2, bitsOf t 7 1]
  (if bitsOf c 0 2 = 3 then [(if bitOf c 3 then 2 else bitsOf c 2 1), bitsOf c 4 1, 2]
   else if bitsOf c 2 2 = 3 then [bitsOf c 0 2, 2, 2]
   else [(if bitOf c 1 then 2 else bitsOf c 0 1), bitsOf c 2 2, bitsOf c 4 1]) ++ hi

/-- The three quints of seven packed bits. -/
def quints (q : Nat) : List Nat :=
  if bitsOf q 1 2 = 3 && bitsOf q 5 2 == 0 then
    let z := bitsOf q 0 1
    [4, 4, if z = 1 then 4 else bitsOf q 3 2]
  else
    let top := bitsOf q 1 2 == 3
    let c := if top then bitsOf q 3 2 * 8 + (3 - bitsOf q 5 2) * 2 + bitsOf q 0 1 else bitsOf q 0 5
    let q2 := if top then 4 else bitsOf q 5 2
    if bitsOf c 0 3 = 5 then [bitsOf c 3 2, 4, q2] else [bitsOf c 0 3, bitsOf c 3 2, q2]

/-- The bits and the trit or quint of value `i` of a sequence; bits behind its end are 0. -/
def iseAt (r : Nat × Nat) (data i : Nat) : Nat × Nat :=
  let b := r.2
  match r.1 with
  | 0 => (bitsOf data (b * i) b, 0)
  | 1 =>
    let g := data / 2 ^ ((8 + 5 * b) * (i / 5))
    let t := bitsOf g b 2 + 4 * bitsOf g (2 * b + 2) 2 + 16 * bitsOf g (3 * b + 4) 1 + 32 * bitsOf g (4 * b + 5) 2 +
             128 * bitsOf g (5 * b + 7) 1
    (bitsOf g (b * (i % 5) + tab [0, 2, 4, 5, 7] (i % 5)) b, tab (trits t) (i % 5))
  | _ =>
    let g := data / 2 ^ ((7 + 3 * b) * (i / 3))
    let q := bitsOf g b 3 + 8 * bitsOf g (2 * b + 3) 2 + 32 * bitsOf g (3 * b + 5) 2
    (bitsOf g (b * (i % 3) + tab [0, 3, 5] (i % 3)) b, tab (quints q) (i % 3))

/-- A weight, in 1/64. -/
def astcWeight (r : Nat × Nat) (v : Nat × Nat) : Nat :=
  let x := v.1 / 2
  let spread (c b : Nat) : Nat :=
    let a := if v.1 % 2 = 1 then 127 else 0
    (a &&& 0x20) + ((v.2 * c + b) ^^^ a) / 4 % 32
  let w :=
    match r with
    | (0, n) => repBits v.1 n 6
    | (1, 0) => tab [0, 32, 63] v.2
    | (2, 0) => tab [0, 16, 32, 47, 63] v.2
    | (1, 1) => spread 50 0
    | (1, 2) => spread 23 (69 * x)
    | (1, _) => spread 11 (33 * x)
    | (_, 1) => spread 28 0
    | (_, _) => spread 13 (66 * x)
  if 32 < w then w + 1 else w

/-- A value of a colour endpoint, as 8 bits. -/
def astcColour (r : Nat × Nat) (v : Nat × Nat) : Nat :=
  let x := v.1 / 2
  let spread (c b : Nat) : Nat :=
    let a := if v.1 % 2 = 1 then 511 else 0
    (a &&& 0x80) + ((v.2 * c + b) ^^^ a) / 4 % 128
  match r with
  | (0, n) => repBits v.1 n 8
  | (1, 1) => spread 204 0
  | (2, 1) => spread 113 0
  | (1, 2) => spread 93 (278 * x)
  | (2, 2) => spread 54 (268 * x)
  | (1, 3) => spread 44 (133 * x)
  | (2, 3) => spread 26 (130 * x + x / 2)
  | (1, 4) => spread 22 (65 * x)
  | (2, 4) => spread 13 (64 * x + x / 2)
  | (1, 5) => spread 11 (32 * x + x / 4)
  | (2, 5) => spread 6 (32 * x + x / 8)
  | (_, _) => spread 5 (16 * x + x / 16)

/-! ## ASTC: block mode and partitions -/

/-- A weight grid: width, height, two planes, and its range. -/
structure AstcGrid where
  w : Nat
  h : Nat
  dual : Bool
  range : Nat × Nat
  deriving DecidableEq, Repr

/-- The weight grid of a block; `none` where the mode is reserved. -/
def astcGrid (block : Nat) : Option AstcGrid :=
  let a := bitsOf block 5 2
  let b := bitsOf block 7 2
  let low := bitsOf block 0 2
  let mid := bitsOf block 2 2
  let r := bitsOf block 4 1 + 2 * (if low = 0 then mid else low)
  let mk (w h : Nat) (plain : Bool) : Option AstcGrid :=
    some { w := w, h := h, dual := !plain && bitOf block 10,
           range := iseRanges.getD (r - 2 + (if !plain && bitOf block 9 then 6 else 0)) (0, 1) }
  if low ≠ 0 then
    match mid with
    | 0 => mk (b + 4) (a + 2) false
    | 1 => mk (b + 8) (a + 2) false
    | 2 => mk (a + 2) (b + 8) false
    | _ => if b < 2 then mk (a + 2) (b + 6) false else mk (b % 2 + 2) (a + 2) false
  else if mid = 0 then none
  else
    match b with
    | 0 => mk 12 (a + 2) false
    | 1 => mk (a + 2) 12 false
    | 2 => mk (a + 6) (bitsOf block 9 2 + 6) true
    | _ => if a = 0 then mk 6 10 false else if a = 1 then mk 10 6 false else none

/-- The numbers that a partition's seed scatters to, of 32 bits. -/
def astcHash (seed : Nat) : BitVec 32 :=
  let p : BitVec 32 := BitVec.ofNat 32 seed
  let p := p ^^^ (p >>> 15)
  let p := p * 0xEEDE0891#32
  let p := p ^^^ (p >>> 5)
  let p := p + (p <<< 16)
  let p := p ^^^ (p >>> 7)
  let p := p ^^^ (p >>> 3)
  let p := p ^^^ (p <<< 6)
  p ^^^ (p >>> 17)

/-- The partition, of `n`, that a texel of a block of edge `e` lies in. -/
def astcPart (n index e x y : Nat) : Nat :=
  let k := if e * e < 31 then 2 else 1
  let seed := index + 1024 * (n - 1)
  let h := (astcHash seed).toNat
  let sa := if bitOf seed 1 then 4 else 5
  let sb := if n = 3 then 6 else 5
  let s1 := if bitOf seed 0 then sa else sb
  let s2 := if bitOf seed 0 then sb else sa
  let term (at_ shift : Nat) : Nat := bitsOf h at_ 4 * bitsOf h at_ 4 / 2 ^ shift
  let sum (p q r : Nat) : Nat := (term p s1 * (k * x) + term q s2 * (k * y) + h / 2 ^ r) % 64
  let a := sum 0 4 14
  let b := sum 8 12 10
  let c := if n < 3 then 0 else sum 16 20 6
  let d := if n < 4 then 0 else sum 24 28 2
  if b ≤ a && c ≤ a && d ≤ a then 0 else if c ≤ b && d ≤ b then 1 else if d ≤ c then 2 else 3

/-! ## ASTC: colour endpoints -/

/-- A value's top bit moved to the next value, and what is left of it as a signed difference. -/
def bitMove (a b : Nat) : Int × Nat := (signedNat 6 (a / 2 % 64), b / 2 + (if 128 ≤ a then 128 else 0))

/-- A channel clamped to 8 bits. -/
def clamp8 (x : Int) : Nat := (min (max x 0) 255).toNat

/-- Red and green drawn towards blue. -/
def blueContract (l : List Int) : List Int :=
  match l with
  | [r, g, b, a] => [(r + b) / 2, (g + b) / 2, b, a]
  | l => l

/-- The two endpoints of an LDR endpoint mode from its values; `none` for an HDR mode. -/
def astcEnds (cem : Nat) (v : List Nat) : Option (List Nat × List Nat) :=
  let g (k : Nat) : Int := (tab v k : Nat)
  let out (a b : List Int) : Option (List Nat × List Nat) := some (a.map clamp8, b.map clamp8)
  let move (k : Nat) : Int × Int := let m := bitMove (tab v (2 * k + 1)) (tab v (2 * k)); ((m.2 : Int), m.1)
  let direct (a b : Int) : Option (List Nat × List Nat) :=
    if g 0 + g 2 + g 4 ≤ g 1 + g 3 + g 5 then out [g 0, g 2, g 4, a] [g 1, g 3, g 5, b]
    else out (blueContract [g 1, g 3, g 5, b]) (blueContract [g 0, g 2, g 4, a])
  let offset (a b : Int) : Option (List Nat × List Nat) :=
    let r := move 0
    let s := move 1
    let t := move 2
    let lo : List Int := [r.1, s.1, t.1, a]
    let hi : List Int := [r.1 + r.2, s.1 + s.2, t.1 + t.2, b]
    if 0 ≤ r.2 + s.2 + t.2 then out lo hi else out (blueContract hi) (blueContract lo)
  let scaled (k : Nat) : Int := g k * g 3 / 256
  match cem with
  | 0 => out [g 0, g 0, g 0, 255] [g 1, g 1, g 1, 255]
  | 1 =>
    let l : Int := (tab v 0 / 4 + tab v 1 / 64 * 64 : Nat)
    let m := min 255 (l + (tab v 1 % 64 : Nat))
    out [l, l, l, 255] [m, m, m, 255]
  | 4 => out [g 0, g 0, g 0, g 2] [g 1, g 1, g 1, g 3]
  | 5 =>
    let l := move 0
    let a := move 1
    out [l.1, l.1, l.1, a.1] [l.1 + l.2, l.1 + l.2, l.1 + l.2, a.1 + a.2]
  | 6 => out [scaled 0, scaled 1, scaled 2, 255] [g 0, g 1, g 2, 255]
  | 8 => direct 255 255
  | 9 => offset 255 255
  | 10 => out [scaled 0, scaled 1, scaled 2, g 4] [g 0, g 1, g 2, g 5]
  | 12 => direct (g 6) (g 7)
  | 13 => let a := move 3; offset a.1 (a.1 + a.2)
  | _ => none

/-- The endpoint modes of `n` partitions, and the bits that they take below the weights, whose lowest bit is `top`. -/
def astcCems (block n top : Nat) : List Nat × Nat :=
  if n = 1 then ([bitsOf block 13 4], 0)
  else if bitsOf block 23 2 = 0 then (List.replicate n (bitsOf block 25 4), 0)
  else
    let extra := 3 * n - 4
    let e := bitsOf block 23 6 + 64 * bitsOf block (top - extra) extra
    ((List.range n).map (fun i => 4 * (bitsOf e 0 2 - 1 + bitsOf e (2 + i) 1) + bitsOf e (2 + n + 2 * i) 2), extra)

/-! ## ASTC: texels -/

/-- What a block that is not valid, or an HDR block, gives (R258). -/
def astcError : Nat := rgbaOf [255, 0, 255, 255]

/-- A block of one colour. -/
def astcVoid (block : Nat) : Nat :=
  let lo (k : Nat) : Nat := bitsOf block (12 + 26 * k) 13
  let hi (k : Nat) : Nat := bitsOf block (25 + 26 * k) 13
  let none_ := (List.range 2).all (fun k => lo k == 0x1FFF && hi k == 0x1FFF)
  if bitOf block 9 || bitsOf block 10 2 != 3 || (!none_ && (List.range 2).any (fun k => decide (hi k ≤ lo k))) then astcError
  else rgba (fun c => bitsOf block (64 + 16 * c + 8) 8)

/-- The `n` low bits of a number, the lowest first to last. -/
def flipBits (v n : Nat) : Nat := (List.range n).foldl (fun x k => 2 * x + bitsOf v k 1) 0

/-- The weight of a texel in one plane: between the four grid points around it. -/
def AstcGrid.weight (g : AstcGrid) (data e x y plane : Nat) : Nat :=
  let at_ (k : Nat) : Nat := if k < g.w * g.h then astcWeight g.range (iseAt g.range data (if g.dual then 2 * k + plane else k)) else 0
  let place (n p : Nat) : Nat := ((1024 + e / 2) / (e - 1) * p * (n - 1) + 32) / 64
  let gs := place g.w x
  let gt := place g.h y
  let fs := gs % 16
  let ft := gt % 16
  let k := gs / 16 + gt / 16 * g.w
  let w11 := (fs * ft + 8) / 16
  ((16 + w11 - fs - ft) * at_ k + (fs - w11) * at_ (k + 1) + (ft - w11) * at_ (k + g.w) + w11 * at_ (k + g.w + 1) + 8) / 16

/-- The texel at (x, y) of a block of edge `e` with a weight grid. -/
def AstcGrid.texel (g : AstcGrid) (block e x y : Nat) : Nat :=
  let count := g.w * g.h * (if g.dual then 2 else 1)
  let wbits := iseBits g.range count
  let n := bitsOf block 11 2 + 1
  if decide (64 < count) || decide (wbits < 24) || decide (96 < wbits) || decide (e < g.w) || decide (e < g.h) || (g.dual && n == 4) then astcError
  else
    let top := 128 - wbits
    let cems := astcCems block n top
    let below := top - cems.2
    let first := if n = 1 then 17 else 29
    let room := below - (if g.dual then 2 else 0) - first
    let size (c : Nat) : Nat := 2 * (c / 4) + 2
    let ints := (cems.1.map size).foldl (· + ·) 0
    let fits := iseRanges.filter (fun r => decide (iseBits r ints ≤ room))
    match fits.getLast? with
    | none => astcError
    | some r =>
      if decide (18 < ints) || decide (fits.length < 5) then astcError
      else
        let colours := bitsOf block first (iseBits r ints)
        let part := if n = 1 then 0 else astcPart n (bitsOf block 13 10) e x y
        let from_ := ((cems.1.take part).map size).foldl (· + ·) 0
        let ends := (List.range n).map (fun p => astcEnds (tab cems.1 p)
          ((List.range 8).map (fun k => if k < size (tab cems.1 p) && p == part then astcColour r (iseAt r colours (from_ + k)) else 0)))
        if ends.any (·.isNone) then astcError
        else
          let data := flipBits (block / 2 ^ top) wbits
          let second := bitsOf block (below - 2) 2
          let ab := ((ends[part]?).getD none).getD ([], [])
          rgba (fun c =>
            let w := g.weight data e x y (if g.dual && c == second then 1 else 0)
            (257 * tab ab.1 c * (64 - w) + 257 * tab ab.2 c * w + 32) / 64 / 256)

/-- ASTC of edge `e`, in the LDR profile with 8-bit unsigned normalised decode (R258). -/
def astc (block e x y : Nat) : Nat :=
  if bitsOf block 0 9 = 0x1FC then astcVoid block
  else match astcGrid block with
    | none => astcError
    | some g => g.texel block e x y

/-! ## Source formats -/

/-- The RGBA8 word of the texel at (x, y) of a source block (R257, R258). -/
def texelWord (cfmt block x y : Nat) : Nat :=
  let i := 4 * y + x
  match cfmt with
  | 0 => block % 2 ^ 32
  | 1 => bc1 block i
  | 2 => bc2 block i
  | 3 => bc3 block i
  | 4 => rgbaOf [bcValue block i, 0, 0, 255]
  | 5 => rgbaOf [bcValue block i, bcValue (block / 2 ^ 64) i, 0, 255]
  | 6 => bc6 block i
  | 7 => bc7 block i
  | 8 => astc block 4 x y
  | 9 => astc block 6 x y
  | _ => astc block 8 x y

end Sys2Proof.Machine
end

