-- ==== Sys2Proof/Machine/Texture.lean ====
section
/-! DEFINITION. Shader-table calls and textures (spec/08_graphics.md R225 to R230) with the texture decode of
spec/09_memory.md R257 to R260. -/

namespace Sys2Proof.Machine

/-! ## Shader-table calls (R225, R226) -/

/-- `CALLST` (R225, R226). -/
def execCallst (d a b : XReg) (s : State) : Host.Outcome State Fault Refusal :=
  act s (do
    let f : VForm := ⟨3, 4, 0⟩
    s.permit 3 4 0
    f.need (d == 0 || (d != a && d != b))
    let T : Word := ((s.rx a).setWidth 56).setWidth 64
    if T.toNat % 16 != 0 then .error (.open_ cMisalign (some T))
    s.checkScalar T 4 false
    let (s1, n) ← s.loadScalar T 4
    let k := (s.rx b).toNat
    if n ≤ k then .ok (s1.wx d 1).finish
    else
      let ea ← fatAddS T (16 + 16 * k : Nat)
      s1.checkScalar ea 8 false
      let (s2, e) ← s1.loadScalar ea 8
      if e % 2 ^ 56 = 0 then .ok (s2.wx d 2).finish
      else if e % 2 = 1 then .error (.trap cMisalign 0xF (BitVec.ofNat 64 e))
      else
        let s3 ← s2.pushReturn s2.nextPc
        .ok ((s3.wx d 0).goto (BitVec.ofNat 56 e)))

/-! ## Descriptors (R227, R257) -/

/-- A texture descriptor. -/
structure TexDesc where
  dbase : Nat
  cbase : Nat
  w0 : Nat
  h0 : Nat
  nmip : Nat
  cfmt : Nat
  mode : Nat
  mipoff : List Nat
  deriving DecidableEq, Repr

/-- `n` bytes from offset `o` of a list, as a number. -/
def field (l : List Byte) (o n : Nat) : Nat := ofBytes ((l.drop o).take n)

/-- The fields of a descriptor's 128 bytes. -/
def texDesc (l : List Byte) : TexDesc :=
  { dbase := field l 0 8, cbase := field l 8 8, w0 := field l 0x10 2, h0 := field l 0x12 2, nmip := field l 0x14 1,
    cfmt := field l 0x15 1, mode := field l 0x16 1, mipoff := (List.range 15).map (fun k => field l (0x20 + 4 * k) 4) }

/-- Width and height of mip `k`. -/
def TexDesc.w (t : TexDesc) (k : Nat) : Nat := max 1 (t.w0 / 2 ^ k)
def TexDesc.h (t : TexDesc) (k : Nat) : Nat := max 1 (t.h0 / 2 ^ k)

/-- Quotient rounded up. -/
def ceilDiv (a b : Nat) : Nat := (a + b - 1) / b

/-- `MIPOFF[k]`. -/
def TexDesc.off (t : TexDesc) (k : Nat) : Nat := (t.mipoff[k]?).getD 0

/-- Bytes of mip `k` in the decoded view. -/
def TexDesc.mipSize (t : TexDesc) (k : Nat) : Nat := ceilDiv (t.w k) 4 * ceilDiv (t.h k) 4 * 64

/-- The descriptor is valid (R227, R257); `l` is its bytes. -/
def TexDesc.valid (t : TexDesc) (l : List Byte) : Bool :=
  decide (t.dbase < 2 ^ 56) && t.dbase % 64 == 0 && decide (t.cbase < 2 ^ 56) && t.cbase % 16 == 0 &&
  decide (1 ≤ t.w0 ∧ t.w0 ≤ 16384) && decide (1 ≤ t.h0 ∧ t.h0 ≤ 16384) && decide (1 ≤ t.nmip ∧ t.nmip ≤ 15) &&
  decide (t.cfmt ≤ 10) && decide (t.mode < 16) && t.mode % 4 != 3 && t.mode / 4 != 3 &&
  field l 0x17 9 == 0 && field l 0x5C 36 == 0 &&
  (List.range 15).all (fun k => if k < t.nmip then t.off k % 64 == 0 && decide (t.off k + t.mipSize k ≤ 2 ^ 32) else t.off k == 0)

/-- `TexOff` (R227). -/
def TexDesc.texOff (t : TexDesc) (x y k : Nat) : Nat :=
  t.off k + (y / 4 * ceilDiv (t.w k) 4 + x / 4) * 64 + (y % 4 * 4 + x % 4) * 4

/-- Block edge and bytes of a source format (R257). -/
def texBlock (cfmt : Nat) : Nat × Nat :=
  match cfmt with
  | 0 => (1, 4)
  | 1 => (4, 8)
  | 4 => (4, 8)
  | 9 => (6, 16)
  | 10 => (8, 16)
  | _ => (4, 16)

/-- COFF(k) (R257). -/
def TexDesc.coff (t : TexDesc) (k : Nat) : Nat :=
  (List.range k).foldl (fun acc j =>
    acc + ceilDiv (t.w j) (texBlock t.cfmt).1 * ceilDiv (t.h j) (texBlock t.cfmt).1 * (texBlock t.cfmt).2) 0

/-- Address of the source block that holds texel (x, y) of mip `k`. -/
def TexDesc.blockAddr (t : TexDesc) (x y k : Nat) : Nat :=
  let b := (texBlock t.cfmt).1
  (t.cbase + t.coff k + (y / b * ceilDiv (t.w k) b + x / b) * (texBlock t.cfmt).2) % 2 ^ 56

/-- The descriptor that a handle names, after its checks (R228 steps 1 to 3). -/
def State.readDesc (s : State) (handle : Word) : Except Stop (State × TexDesc) := do
  let va := vaOf handle
  if handle.toNat % 128 != 0 then .error (.open_ cMisalign (some handle))
  if s.isDoorbell va then .error (.trap cDbellAccess 0 handle)
  let (t, l) ← atEa handle (orStop cDataXlate (s.locate s.req rR va))
  let (u, bs) ← atEa handle (t.readAt l va 128)
  if (texDesc bs).valid bs then .ok (u, texDesc bs) else .error (.open_ cTexDesc (some handle))

/-! ## Texel reads (R228, R260) -/

/-- A texel that an element reads. -/
structure Tap where
  i : Nat
  x : Nat
  y : Nat
  k : Nat
  deriving DecidableEq, Repr

/-- The accesses of taps to the decoded view (R228 step 4). -/
def TexDesc.viewAccs (t : TexDesc) (l : List Tap) : List VAcc :=
  l.map (fun p => ⟨p.i, BitVec.ofNat 64 t.dbase, (t.texOff p.x p.y p.k : Int)⟩)

/-- The accesses of taps to their source blocks (R260). -/
def TexDesc.srcAccs (t : TexDesc) (l : List Tap) : List VAddr_ :=
  l.map (fun p => ⟨p.i, BitVec.ofNat 64 (t.blockAddr p.x p.y p.k)⟩)

/-- The tag of the decoded group that a tap reads (R259). -/
def TexDesc.tag (t : TexDesc) (p : Tap) : TexTag :=
  { view := t.dbase + t.texOff (p.x / 4 * 4) (p.y / 4 * 4) p.k, cbase := t.cbase, cfmt := t.cfmt, w0 := t.w0, h0 := t.h0, nmip := t.nmip }

/-- The group with a tag, where the die's L2 holds it. -/
def Die.texGroup (x : Die) (tag : TexTag) : Option TexGroup := x.tex.find? (fun g => g.tag == tag)

/-- The place of a tap's texel in its group. -/
def Tap.place (p : Tap) : Nat := p.y % 4 * 4 + p.x % 4

/-- The texel of a tap as the executing context's core holds it (R259). -/
def State.texLocal (s : State) (t : TexDesc) (p : Tap) : Option TexelCopy :=
  (s.die (dieOf s.cur)).texels.find? (fun e => e.core == s.cur.unit && e.tag == t.tag p && e.place == p.place)

/-- The texel that a tap reads is in the core's local cache, or its group in the L2 of the die: its source is not read. -/
def State.texHeld (s : State) (t : TexDesc) (p : Tap) : Bool :=
  (s.texLocal t p).isSome || ((s.die (dieOf s.cur)).texGroup (t.tag p)).isSome

/-- The groups that an L2 has room for (R249): 4 MiB of 64 bytes. -/
def texCap : Nat := 4 * 2 ^ 20 / 64

/-- A die whose L2 has used a group last: the least recently used one goes when there is no room (R249). -/
def Die.useTex (x : Die) (g : TexGroup) : Die :=
  let l := x.tex.filter (fun h => h.tag != g.tag)
  { x with tex := (if l.length < texCap then l else l.drop 1) ++ [g] }

/-- The two copies that a texture read which misses in local SRAM leaves (R259): the group in the die's L2, and the texel in the core's
cache, as far as that has room. -/
def State.keepTexel (s : State) (p : Tap) (g : TexGroup) : State :=
  let d := dieOf s.cur
  let e : TexelCopy := { core := s.cur.unit, tag := g.tag, place := p.place, src := g.src, word := tab g.texels p.place }
  let x := (s.die d).useTex g
  (s.setDie d { x with texels := e :: x.texels.filter (fun o => o.core != e.core || o.tag != e.tag || o.place != e.place) }).fitTexels
    d s.cur.unit

/-- The texels of a tap's group that its mip has: place in the group and coordinates. -/
def TexDesc.groupTexels (t : TexDesc) (p : Tap) : List (Nat × Nat × Nat) :=
  ((List.range 16).map (fun j => (j, p.x / 4 * 4 + j % 4, p.y / 4 * 4 + j / 4))).filter
    (fun e => decide (e.2.1 < t.w p.k) && decide (e.2.2 < t.h p.k))

/-- Source blocks found for the forming of a group, as a coherent sharer of their lines (R259, R260): address and location of each. -/
def State.texBlocks (s : State) (l : List Nat) : Except Stop (State × List (Nat × Loc)) :=
  match l with
  | [] => .ok (s, [])
  | a :: r => do
    let (t, loc) ← atEa (BitVec.ofNat 64 a) (orStop cDataXlate (s.locate (fwReq (dieOf s.cur)) 0 a))
    let u ← (match t.claimEngine (dieOf s.cur) false a loc with
      | .ok u => .ok u
      | .error u => .error (.hold u))
    let (v, rest) ← u.texBlocks r
    .ok (v, (a, loc) :: rest)

/-- The texel at (x, y) of mip `k`, decoded from its block's bytes. -/
def TexDesc.texelOf (t : TexDesc) (bs : List Byte) (x y : Nat) : Nat :=
  texelWord t.cfmt (ofBytes bs) (x % (texBlock t.cfmt).1) (y % (texBlock t.cfmt).1)

/-- The group that a tap reads formed from its source blocks, and held by the L2 (R259); a place beyond its mip holds 0. -/
def State.formTex (s : State) (t : TexDesc) (p : Tap) : Except Stop (State × TexGroup) := do
  let els := t.groupTexels p
  let (u, blocks) ← s.texBlocks ((els.map (fun e => t.blockAddr e.2.1 e.2.2 p.k)).eraseDups)
  let texel (e : Nat × Nat × Nat) : Nat :=
    match blocks.find? (fun b => b.1 == t.blockAddr e.2.1 e.2.2 p.k) with
    | some b => t.texelOf (u.st.get b.2 (texBlock t.cfmt).2) e.2.1 e.2.2
    | none => 0
  let g : TexGroup :=
    { tag := t.tag p, src := (blocks.map (fun b => (b.1 / 128, { b.2 with a := b.2.a / 128 * 128 }))).eraseDups,
      texels := els.foldl (fun l e => l.set e.1 (texel e)) (List.replicate 16 0) }
  .ok (u, g)

/-- The texel that a tap reads: the core's own copy, or of its group, held or formed, which leaves one (R259). -/
def State.texel (s : State) (t : TexDesc) (p : Tap) : Except Stop (State × Nat) :=
  match s.texLocal t p, (s.die (dieOf s.cur)).texGroup (t.tag p) with
  | some e, _ => .ok (s, e.word)
  | none, some g => .ok (s.keepTexel p g, tab g.texels p.place)
  | none, none =>
    match s.formTex t p with
    | .error e => .error e
    | .ok (u, g) => .ok (u.keepTexel p g, tab g.texels p.place)

/-- The word of a tap (R228, R257, R259). `loc` is where its source block lies; a read that races a write to the block (R263) sees the block
as the core path does. -/
def State.texTap (s : State) (t : TexDesc) (p : Tap) (loc : Option Loc) : Except Stop (State × Nat) := do
  let a := t.blockAddr p.x p.y p.k
  let n := (texBlock t.cfmt).2
  if s.attr a = 3 && s.memHomed a && s.waitsInstall (a / 128 * 128) (a % 128) n then .error (.hold s)
  let (u, held) ← s.texel t p
  let v := if u.flagged a then u.poisonless else u
  .ok (match loc with
    | some l => (v.sawOn (some v.cur) pCore l n,
        if v.getOn v.me pCore l n == v.st.get l n then held else t.texelOf (v.getOn v.me pCore l n) p.x p.y)
    | none => (v, held))

/-- The words of taps, one after another. -/
def State.texTaps (s : State) (t : TexDesc) (l : List (Tap × VConf)) : Except Stop (State × List (Tap × Nat)) :=
  match l with
  | [] => .ok (s, [])
  | (p, c) :: r => do
    let (u, w) ← s.texTap t p c.res.toOption
    let (v, rest) ← u.texTaps t r
    .ok (v, (p, w) :: rest)

/-- The checks of a list of taps, and the words read (R228, R257 to R260): the view's, then for all source blocks the right to read
them, then the translation of those whose group is not held. -/
def State.readTaps (s : State) (t : TexDesc) (l : List Tap) : Except Stop (State × List (Tap × Nat)) := do
  let ads ← s.elemAddrs 32 (t.viewAccs l)
  let (s1, _) ← s.confirmElems 32 rR ads
  let o := s1.confirmAll rR (t.srcAccs l)
  let els := l.zip o.2
  match firstDenied o.2 with
  | some e => .error e
  | none =>
    match firstFailed 32 ((els.filter (fun e => !s1.texHeld t e.1)).map (·.2)) with
    | some e => .error e
    | none => o.1.texTaps t els

/-! ## `TEXADR` and `TEXLD` (R229) -/

/-- Integer coordinates of an element. -/
structure TexCoord where
  x : Nat
  y : Nat
  k : Nat
  deriving DecidableEq, Repr

/-- Coordinates as packed. -/
def texCoord (e : Nat) : TexCoord := ⟨bitsOf e 0 14, bitsOf e 14 14, bitsOf e 28 4⟩

/-- The element lies outside its texture. -/
def TexDesc.outside (t : TexDesc) (c : TexCoord) : Bool :=
  decide (t.nmip ≤ c.k) || decide (t.w c.k ≤ c.x) || decide (t.h c.k ≤ c.y)

/-- The checks that texture forms share: lanes, element width, the destination group and a coordinate block of `n` groups. -/
def State.texBegin (s : State) (f : VForm) (d b : VNum) (n : Nat) : Except Stop Unit := do
  s.gfxBegin f
  f.group s.me.vec d.toNat s.me.vec.g
  f.block s.me.vec b.toNat n

/-- The results of a texture form, over g load-data entries (R228). -/
def State.texResult (s : State) (d : VNum) (l : List (Nat × Nat)) (fl : Raised) : State :=
  (((s.putElems d s.me.vec.g 32 s.me.vec.len l).raise fl).enqueue s.me.vec.g).finish

/-- `TEXADR` (R229). With `vl` 0 no memory is touched (R187). -/
def execTexadr (d : VNum) (a : XReg) (b : VNum) (k : MReg) (s : State) : Host.Outcome State Fault Refusal :=
  act s (do
    s.texBegin ⟨3, 5, 0⟩ d b 1
    let v := s.me.vec
    if v.len = 0 then .ok (s.texResult d [] Raised.none)
    else
      let (s1, t) ← s.readDesc (s.rx a)
      .ok (s1.texResult d ((v.active k).map (fun i =>
        let c := texCoord (v.elem b.toNat i 32)
        (i, if t.outside c then 0 else t.texOff c.x c.y c.k))) Raised.none))

/-- `TEXLD` (R229). -/
def execTexld (d : VNum) (a : XReg) (b : VNum) (k : MReg) (s : State) : Host.Outcome State Fault Refusal :=
  act s (do
    s.texBegin ⟨3, 5, 1⟩ d b 1
    let v := s.me.vec
    if v.len = 0 then .ok (s.texResult d [] Raised.none)
    else
      let (s1, t) ← s.readDesc (s.rx a)
      let cs := (v.active k).map (fun i => (i, texCoord (v.elem b.toNat i 32)))
      let taps : List Tap := (cs.filter (fun p => !t.outside p.2)).map (fun p => ⟨p.1, p.2.x, p.2.y, p.2.k⟩)
      let outs := (cs.filter (fun p => t.outside p.2)).map (fun p => (p.1, 0))
      let (s2, vals) ← s1.readTaps t taps
      .ok (s2.texResult d (outs ++ vals.map (fun p => (p.1.i, p.2))) Raised.none))

/-! ## Filters (R230) -/

/-- `Wrap` (R230). -/
def texWrap (c : Int) (n mode : Nat) : Nat :=
  match mode with
  | 0 => (c % (n : Int)).toNat
  | 1 => (min (max c 0) ((n : Int) - 1)).toNat
  | _ =>
    let m := (c % (2 * (n : Int))).toNat
    if n ≤ m then 2 * n - 1 - m else m

/-- A bilinear filter's place in one mip: its four taps' coordinates and its weights. -/
structure Bil where
  k : Nat
  x0 : Int
  y0 : Int
  fx : Nat
  fy : Nat
  deriving DecidableEq, Repr

/-- Floor of a coordinate c × n − 1/2 and 256 times its fraction, for c a multiple of 2^−149. -/
def texPlace (c : Int) (n : Nat) : Int × Nat :=
  let v := 2 * c * (n : Int) - 2 ^ 149
  (v / 2 ^ 150, (v % 2 ^ 150).toNat * 256 / 2 ^ 150)

/-- The place of a bilinear filter at (u, v) in mip `k`. -/
def TexDesc.bil (t : TexDesc) (u v : Int) (k : Nat) : Bil :=
  let px := texPlace u (t.w k)
  let py := texPlace v (t.h k)
  ⟨k, px.1, py.1, px.2, py.2⟩

/-- The four taps of a filter: T00, T10, T01, T11. -/
def TexDesc.bilTaps (t : TexDesc) (i : Nat) (b : Bil) : List Tap :=
  [((0 : Int), (0 : Int)), (1, 0), (0, 1), (1, 1)].map (fun p =>
    ⟨i, texWrap (b.x0 + p.1) (t.w b.k) (t.mode % 4), texWrap (b.y0 + p.2) (t.h b.k) (t.mode / 4), b.k⟩)

/-- The result of a bilinear filter from its four taps' words. -/
def Bil.mix (b : Bil) (l : List Nat) : Nat :=
  let t (j c : Nat) : Nat := chan ((l[j]?).getD 0) c
  rgba (fun c => ((256 - b.fx) * (256 - b.fy) * t 0 c + b.fx * (256 - b.fy) * t 1 c + (256 - b.fx) * b.fy * t 2 c +
    b.fx * b.fy * t 3 c + 32768) / 65536)

/-- An element of a filter: its index, and the places that it filters at with the weight of the second, in 1/256. -/
structure TexEl where
  i : Nat
  b0 : Bil
  b1 : Option Bil
  f : Nat
  deriving DecidableEq, Repr

/-- The taps of an element. -/
def TexDesc.elTaps (t : TexDesc) (e : TexEl) : List Tap :=
  t.bilTaps e.i e.b0 ++ (match e.b1 with
    | some b => t.bilTaps e.i b
    | none => [])

/-- The result of an element from its taps' words. -/
def TexEl.mix (e : TexEl) (l : List Nat) : Nat :=
  match e.b1 with
  | none => e.b0.mix l
  | some b =>
    let x := e.b0.mix (l.take 4)
    let y := b.mix (l.drop 4)
    rgba (fun c => ((256 - e.f) * chan x c + e.f * chan y c + 128) / 256)

/-- The place of `TEXBIL` (R230). -/
def TexDesc.elBil (t : TexDesc) (i : Nat) (u v lod : Int) : TexEl :=
  let k := (min (max ((2 * lod + 2 ^ 149) / 2 ^ 150) 0) ((t.nmip : Int) - 1)).toNat
  ⟨i, t.bil u v k, none, 0⟩

/-- The places of `TEXTRI` (R230). -/
def TexDesc.elTri (t : TexDesc) (i : Nat) (u v lod : Int) : TexEl :=
  let l := (min (max lod 0) (((t.nmip : Int) - 1) * 2 ^ 149)).toNat
  let k := l / 2 ^ 149
  let f := if k = t.nmip - 1 then 0 else l % 2 ^ 149 * 256 / 2 ^ 149
  ⟨i, t.bil u v k, some (t.bil u v (min (k + 1) (t.nmip - 1))), f⟩

/-- Words of a list of taps, one element at a time. -/
def mixAll (t : TexDesc) (els : List TexEl) (vals : List (Tap × Nat)) : List (Nat × Nat) :=
  match els with
  | [] => []
  | e :: r =>
    let n := (t.elTaps e).length
    (e.i, e.mix ((vals.take n).map (·.2))) :: mixAll t r (vals.drop n)

/-- A filter form (R230). -/
def State.texFilter (s : State) (f : VForm) (d : VNum) (a : XReg) (b : VNum) (k : MReg)
    (el : TexDesc → Nat → Int → Int → Int → TexEl) : Except Stop State := do
  s.texBegin f d b 3
  let v := s.me.vec
  if v.len = 0 then .ok (s.texResult d [] Raised.none)
  else
    let (s1, t) ← s.readDesc (s.rx a)
    let cs := (v.active k).map (fun i => (i, v.vals b 0 3 i))
    let bad := cs.filter (fun p => p.2.any (fun x => x.isNan || x.isInf))
    let good := cs.filter (fun p => !p.2.any (fun x => x.isNan || x.isInf))
    let els := good.map (fun p => let c := v3Of p.2; el t p.1 c.x c.y c.z)
    let (s2, vals) ← s1.readTaps t (els.flatMap t.elTaps)
    .ok (s2.texResult d (bad.map (fun p => (p.1, 0)) ++ mixAll t els vals) (flagIf (!bad.isEmpty) fNV))

/-- `TEXBIL` (R230). -/
def execTexbil (d : VNum) (a : XReg) (b : VNum) (k : MReg) (s : State) : Host.Outcome State Fault Refusal :=
  act s (s.texFilter ⟨3, 5, 2⟩ d a b k TexDesc.elBil)

/-- `TEXTRI` (R230). -/
def execTextri (d : VNum) (a : XReg) (b : VNum) (k : MReg) (s : State) : Host.Outcome State Fault Refusal :=
  act s (s.texFilter ⟨3, 5, 3⟩ d a b k TexDesc.elTri)

end Sys2Proof.Machine
end

