-- ==== Sys2Proof/Machine/Dispatch.lean ====
section
/-! DEFINITION. The dispatch of an instruction, or of a step of the part, to its meaning. -/

namespace Sys2Proof.Machine

def exec (i : Instr) (s : State) : Host.Outcome State Fault Refusal :=
  match i with
  | .add d a b => Sys2Proof.Machine.execAdd d a b s
  | .sub d a b => Sys2Proof.Machine.execSub d a b s
  | .and d a b => Sys2Proof.Machine.execAnd d a b s
  | .or d a b => Sys2Proof.Machine.execOr d a b s
  | .xor d a b => Sys2Proof.Machine.execXor d a b s
  | .slt d a b => Sys2Proof.Machine.execSlt d a b s
  | .sltu d a b => Sys2Proof.Machine.execSltu d a b s
  | .seq d a b => Sys2Proof.Machine.execSeq d a b s
  | .sll d a b => Sys2Proof.Machine.execSll d a b s
  | .srl d a b => Sys2Proof.Machine.execSrl d a b s
  | .sra d a b => Sys2Proof.Machine.execSra d a b s
  | .ror d a b => Sys2Proof.Machine.execRor d a b s
  | .mul d a b => Sys2Proof.Machine.execMul d a b s
  | .mhigh d a b => Sys2Proof.Machine.execMhigh d a b s
  | .mhighu d a b => Sys2Proof.Machine.execMhighu d a b s
  | .mhighx d a b => Sys2Proof.Machine.execMhighx d a b s
  | .div d a b => Sys2Proof.Machine.execDiv d a b s
  | .divu d a b => Sys2Proof.Machine.execDivu d a b s
  | .rem d a b => Sys2Proof.Machine.execRem d a b s
  | .remu d a b => Sys2Proof.Machine.execRemu d a b s
  | .clz d a => Sys2Proof.Machine.execClz d a s
  | .ctz d a => Sys2Proof.Machine.execCtz d a s
  | .popc d a => Sys2Proof.Machine.execPopc d a s
  | .brev d a => Sys2Proof.Machine.execBrev d a s
  | .sextb d a => Sys2Proof.Machine.execSextb d a s
  | .sexth d a => Sys2Proof.Machine.execSexth d a s
  | .sextw d a => Sys2Proof.Machine.execSextw d a s
  | .zextw d a => Sys2Proof.Machine.execZextw d a s
  | .addi d a imm => Sys2Proof.Machine.execAddi d a imm s
  | .andi d a imm => Sys2Proof.Machine.execAndi d a imm s
  | .ori d a imm => Sys2Proof.Machine.execOri d a imm s
  | .xori d a imm => Sys2Proof.Machine.execXori d a imm s
  | .slti d a imm => Sys2Proof.Machine.execSlti d a imm s
  | .slli d a n => Sys2Proof.Machine.execSlli d a n s
  | .srli d a n => Sys2Proof.Machine.execSrli d a n s
  | .srai d a n => Sys2Proof.Machine.execSrai d a n s
  | .li d imm => Sys2Proof.Machine.execLi d imm s
  | .lis d imm => Sys2Proof.Machine.execLis d imm s
  | .lea d a b sc => Sys2Proof.Machine.execLea d a b sc s
  | .ld d a imm => Sys2Proof.Machine.execLd d a imm s
  | .lw d a imm => Sys2Proof.Machine.execLw d a imm s
  | .lwu d a imm => Sys2Proof.Machine.execLwu d a imm s
  | .lh d a imm => Sys2Proof.Machine.execLh d a imm s
  | .lhu d a imm => Sys2Proof.Machine.execLhu d a imm s
  | .lb d a imm => Sys2Proof.Machine.execLb d a imm s
  | .lbu d a imm => Sys2Proof.Machine.execLbu d a imm s
  | .lq d a imm => Sys2Proof.Machine.execLq d a imm s
  | .sd d a imm bj => Sys2Proof.Machine.execSd d a imm bj s
  | .sw d a imm bj => Sys2Proof.Machine.execSw d a imm bj s
  | .sh d a imm bj => Sys2Proof.Machine.execSh d a imm bj s
  | .sb d a imm bj => Sys2Proof.Machine.execSb d a imm bj s
  | .sq d a imm bj => Sys2Proof.Machine.execSq d a imm bj s
  | .beqz d imm => Sys2Proof.Machine.execBeqz d imm s
  | .bnez d imm => Sys2Proof.Machine.execBnez d imm s
  | .bltz d imm => Sys2Proof.Machine.execBltz d imm s
  | .bgez d imm => Sys2Proof.Machine.execBgez d imm s
  | .jr a => Sys2Proof.Machine.execJr a s
  | .callr a => Sys2Proof.Machine.execCallr a s
  | .srd d n => Sys2Proof.Machine.execSrd d n s
  | .swr d n => Sys2Proof.Machine.execSwr d n s
  | .vcfg d a b => Sys2Proof.Machine.execVcfg d a b s
  | .vcfgw a => Sys2Proof.Machine.execVcfgw a s
  | .vcfgs d a b => Sys2Proof.Machine.execVcfgs d a b s
  | .vcfgi d a imm => Sys2Proof.Machine.execVcfgi d a imm s
  | .vadd d a b k => Sys2Proof.Machine.execVadd d a b k s
  | .vsub d a b k => Sys2Proof.Machine.execVsub d a b k s
  | .vmul d a b k => Sys2Proof.Machine.execVmul d a b k s
  | .vmhigh d a b k => Sys2Proof.Machine.execVmhigh d a b k s
  | .vand d a b k => Sys2Proof.Machine.execVand d a b k s
  | .vor d a b k => Sys2Proof.Machine.execVor d a b k s
  | .vxor d a b k => Sys2Proof.Machine.execVxor d a b k s
  | .vandn d a b k => Sys2Proof.Machine.execVandn d a b k s
  | .vsll d a b k => Sys2Proof.Machine.execVsll d a b k s
  | .vsrl d a b k => Sys2Proof.Machine.execVsrl d a b k s
  | .vsra d a b k => Sys2Proof.Machine.execVsra d a b k s
  | .vror d a b k => Sys2Proof.Machine.execVror d a b k s
  | .vmin d a b k => Sys2Proof.Machine.execVmin d a b k s
  | .vmax d a b k => Sys2Proof.Machine.execVmax d a b k s
  | .vminu d a b k => Sys2Proof.Machine.execVminu d a b k s
  | .vmaxu d a b k => Sys2Proof.Machine.execVmaxu d a b k s
  | .vsadd d a b k => Sys2Proof.Machine.execVsadd d a b k s
  | .vssub d a b k => Sys2Proof.Machine.execVssub d a b k s
  | .vsaddu d a b k => Sys2Proof.Machine.execVsaddu d a b k s
  | .vssubu d a b k => Sys2Proof.Machine.execVssubu d a b k s
  | .vdiv d a b k => Sys2Proof.Machine.execVdiv d a b k s
  | .vdivu d a b k => Sys2Proof.Machine.execVdivu d a b k s
  | .vrem d a b k => Sys2Proof.Machine.execVrem d a b k s
  | .vremu d a b k => Sys2Proof.Machine.execVremu d a b k s
  | .vfadd d a b k rm => Sys2Proof.Machine.execVfadd d a b k rm s
  | .vfsub d a b k rm => Sys2Proof.Machine.execVfsub d a b k rm s
  | .vfmul d a b k rm => Sys2Proof.Machine.execVfmul d a b k rm s
  | .vfdiv d a b k rm => Sys2Proof.Machine.execVfdiv d a b k rm s
  | .vfmin d a b k => Sys2Proof.Machine.execVfmin d a b k s
  | .vfmax d a b k => Sys2Proof.Machine.execVfmax d a b k s
  | .vfsqrt d a k rm => Sys2Proof.Machine.execVfsqrt d a k rm s
  | .vfneg d a k => Sys2Proof.Machine.execVfneg d a k s
  | .vfma d a b k rm => Sys2Proof.Machine.execVfma d a b k rm s
  | .vfms d a b k rm => Sys2Proof.Machine.execVfms d a b k rm s
  | .vfnma d a b k rm => Sys2Proof.Machine.execVfnma d a b k rm s
  | .vfnms d a b k rm => Sys2Proof.Machine.execVfnms d a b k rm s
  | .vcvtff d a k rm => Sys2Proof.Machine.execVcvtff d a k rm s
  | .vcvtif d a k rm => Sys2Proof.Machine.execVcvtif d a k rm s
  | .vcvtfi d a k rm => Sys2Proof.Machine.execVcvtfi d a k rm s
  | .vcvtii d a k => Sys2Proof.Machine.execVcvtii d a k s
  | .vwadd d a b k fp rm => Sys2Proof.Machine.execVwadd d a b k fp rm s
  | .vwmul d a b k fp rm => Sys2Proof.Machine.execVwmul d a b k fp rm s
  | .vwmacc d a b k fp rm => Sys2Proof.Machine.execVwmacc d a b k fp rm s
  | .vdot d a b k fp rm => Sys2Proof.Machine.execVdot d a b k fp rm s
  | .vcmpeq d a b k => Sys2Proof.Machine.execVcmpeq d a b k s
  | .vcmpne d a b k => Sys2Proof.Machine.execVcmpne d a b k s
  | .vcmplt d a b k => Sys2Proof.Machine.execVcmplt d a b k s
  | .vcmple d a b k => Sys2Proof.Machine.execVcmple d a b k s
  | .vfcmpeq d a b k => Sys2Proof.Machine.execVfcmpeq d a b k s
  | .vfcmplt d a b k => Sys2Proof.Machine.execVfcmplt d a b k s
  | .vfcmple d a b k => Sys2Proof.Machine.execVfcmple d a b k s
  | .vfcmpun d a b k => Sys2Proof.Machine.execVfcmpun d a b k s
  | .mand d a b => Sys2Proof.Machine.execMand d a b s
  | .mor d a b => Sys2Proof.Machine.execMor d a b s
  | .mxor d a b => Sys2Proof.Machine.execMxor d a b s
  | .mandn d a b => Sys2Proof.Machine.execMandn d a b s
  | .vany d a => Sys2Proof.Machine.execVany d a s
  | .vnone d a => Sys2Proof.Machine.execVnone d a s
  | .vmcnt d a => Sys2Proof.Machine.execVmcnt d a s
  | .vfind d a => Sys2Proof.Machine.execVfind d a s
  | .vmv d a b k => Sys2Proof.Machine.execVmv d a b k s
  | .vbcast d a k => Sys2Proof.Machine.execVbcast d a k s
  | .vgetx d a b k => Sys2Proof.Machine.execVgetx d a b k s
  | .vmerge d a b k => Sys2Proof.Machine.execVmerge d a b k s
  | .vperm d a b k => Sys2Proof.Machine.execVperm d a b k s
  | .vshup d a b k => Sys2Proof.Machine.execVshup d a b k s
  | .vshdn d a b k => Sys2Proof.Machine.execVshdn d a b k s
  | .vpack d a b k => Sys2Proof.Machine.execVpack d a b k s
  | .vilv d a b k => Sys2Proof.Machine.execVilv d a b k s
  | .vdilv d a b k odd => Sys2Proof.Machine.execVdilv d a b k odd s
  | .vrev d a k => Sys2Proof.Machine.execVrev d a k s
  | .vrank d a k incl => Sys2Proof.Machine.execVrank d a k incl s
  | .vredsum d a b k => Sys2Proof.Machine.execVredsum d a b k s
  | .vredmin d a b k => Sys2Proof.Machine.execVredmin d a b k s
  | .vredmax d a b k => Sys2Proof.Machine.execVredmax d a b k s
  | .vfredsum d a b k rm => Sys2Proof.Machine.execVfredsum d a b k rm s
  | .vfredmin d a b k => Sys2Proof.Machine.execVfredmin d a b k s
  | .vfredmax d a b k => Sys2Proof.Machine.execVfredmax d a b k s
  | .vredand d a b k => Sys2Proof.Machine.execVredand d a b k s
  | .vredor d a b k => Sys2Proof.Machine.execVredor d a b k s
  | .vaddi d a imm k => Sys2Proof.Machine.execVaddi d a imm k s
  | .vld d a imm k => Sys2Proof.Machine.execVld d a imm k s
  | .vst d a imm k bj => Sys2Proof.Machine.execVst d a imm k bj s
  | .vlds d a b k => Sys2Proof.Machine.execVlds d a b k s
  | .vsts d a b k bj => Sys2Proof.Machine.execVsts d a b k bj s
  | .vldx d a b k => Sys2Proof.Machine.execVldx d a b k s
  | .vstx d a b k bj => Sys2Proof.Machine.execVstx d a b k bj s
  | .vldb d a b k => Sys2Proof.Machine.execVldb d a b k s
  | .vstb d a b k bj => Sys2Proof.Machine.execVstb d a b k bj s
  | .vstmc d a b k => Sys2Proof.Machine.execVstmc d a b k s
  | .vstred d a b k op => Sys2Proof.Machine.execVstred d a b k op s
  | .vldff d a imm k => Sys2Proof.Machine.execVldff d a imm k s
  | .vpref a imm => Sys2Proof.Machine.execVpref a imm s
  | .vedge d a b k => Sys2Proof.Machine.execVedge d a b k s
  | .vedgetl d a b k => Sys2Proof.Machine.execVedgetl d a b k s
  | .vcover d a b k => Sys2Proof.Machine.execVcover d a b k s
  | .vbary d a b k => Sys2Proof.Machine.execVbary d a b k s
  | .vbaryp d a b k => Sys2Proof.Machine.execVbaryp d a b k s
  | .boxt d a b k => Sys2Proof.Machine.execBoxt d a b k s
  | .trit d a b k => Sys2Proof.Machine.execTrit d a b k s
  | .callst d a b => Sys2Proof.Machine.execCallst d a b s
  | .texadr d a b k => Sys2Proof.Machine.execTexadr d a b k s
  | .texld d a b k => Sys2Proof.Machine.execTexld d a b k s
  | .texbil d a b k => Sys2Proof.Machine.execTexbil d a b k s
  | .textri d a b k => Sys2Proof.Machine.execTextri d a b k s
  | .send d a b => Sys2Proof.Machine.execSend d a b s
  | .reply a b => Sys2Proof.Machine.execReply a b s
  | .migrate d a => Sys2Proof.Machine.execMigrate d a s
  | .fetake d a sc => Sys2Proof.Machine.execFetake d a sc s
  | .fefill d a b sc => Sys2Proof.Machine.execFefill d a b sc s
  | .fepeek d a sc => Sys2Proof.Machine.execFepeek d a sc s
  | .atadd d a b sc sz => Sys2Proof.Machine.execAtadd d a b sc sz s
  | .atswap d a b sc sz => Sys2Proof.Machine.execAtswap d a b sc sz s
  | .atcas d a b sc sz => Sys2Proof.Machine.execAtcas d a b sc sz s
  | .atmax d a b sc sz => Sys2Proof.Machine.execAtmax d a b sc sz s
  | .atand d a b sc sz => Sys2Proof.Machine.execAtand d a b sc sz s
  | .ator d a b sc sz => Sys2Proof.Machine.execAtor d a b sc sz s
  | .atmin d a b sc sz => Sys2Proof.Machine.execAtmin d a b sc sz s
  | .amaxm d a b sc sz => Sys2Proof.Machine.execAmaxm d a b sc sz s
  | .ipost d a b rst => Sys2Proof.Machine.execIpost d a b rst s
  | .iwait d a b => Sys2Proof.Machine.execIwait d a b s
  | .post d a b sc sp => Sys2Proof.Machine.execPost d a b sc sp s
  | .pwait d a b sc sp => Sys2Proof.Machine.execPwait d a b sc sp s
  | .waitt d a b sc sp => Sys2Proof.Machine.execWaitt d a b sc sp s
  | .tcwait d a b sc => Sys2Proof.Machine.execTcwait d a b sc s
  | .tcdone d a b sc => Sys2Proof.Machine.execTcdone d a b sc s
  | .tkget d a b sc => Sys2Proof.Machine.execTkget d a b sc s
  | .penq d a b => Sys2Proof.Machine.execPenq d a b s
  | .fence sc n => Sys2Proof.Machine.execFence sc n s
  | .fencex sc n => Sys2Proof.Machine.execFencex sc n s
  | .bopen d a b => Sys2Proof.Machine.execBopen d a b s
  | .bcommit d => Sys2Proof.Machine.execBcommit d s
  | .bsnap d a => Sys2Proof.Machine.execBsnap d a s
  | .bend d => Sys2Proof.Machine.execBend d s
  | .breclaim d a => Sys2Proof.Machine.execBreclaim d a s
  | .lda d a imm sc => Sys2Proof.Machine.execLda d a imm sc s
  | .ldaw d a imm sc => Sys2Proof.Machine.execLdaw d a imm sc s
  | .ldah d a imm sc => Sys2Proof.Machine.execLdah d a imm sc s
  | .ldab d a imm sc => Sys2Proof.Machine.execLdab d a imm sc s
  | .stl d a imm sc => Sys2Proof.Machine.execStl d a imm sc s
  | .stlw d a imm sc => Sys2Proof.Machine.execStlw d a imm sc s
  | .stlh d a imm sc => Sys2Proof.Machine.execStlh d a imm sc s
  | .stlb d a imm sc => Sys2Proof.Machine.execStlb d a imm sc s
  | .cpbatch d a b k => Sys2Proof.Machine.execCpbatch d a b k s
  | .cpsleep d a => Sys2Proof.Machine.execCpsleep d a s
  | .cpwait d a => Sys2Proof.Machine.execCpwait d a s
  | .hsgath d a b k => Sys2Proof.Machine.execHsgath d a b k s
  | .clred d a b => Sys2Proof.Machine.execClred d a b s
  | .clbcast d a b => Sys2Proof.Machine.execClbcast d a b s
  | .clgather d a b => Sys2Proof.Machine.execClgather d a b s
  | .clwait d a => Sys2Proof.Machine.execClwait d a s
  | .mxreq d a b => Sys2Proof.Machine.execMxreq d a b s
  | .mxrwait d a => Sys2Proof.Machine.execMxrwait d a s
  | .mxset d n => Sys2Proof.Machine.execMxset d n s
  | .mxget d n => Sys2Proof.Machine.execMxget d n s
  | .mxgo d a b => Sys2Proof.Machine.execMxgo d a b s
  | .mxsync d a => Sys2Proof.Machine.execMxsync d a s
  | .mxcvt z a b => Sys2Proof.Machine.execMxcvt z a b s
  | .mxamax d a => Sys2Proof.Machine.execMxamax d a s
  | .zld z a => Sys2Proof.Machine.execZld z a s
  | .zst z a => Sys2Proof.Machine.execZst z a s
  | .zzero z a b => Sys2Proof.Machine.execZzero z a b s
  | .mxtake d a b => Sys2Proof.Machine.execMxtake d a b s
  | .mxreply d a b => Sys2Proof.Machine.execMxreply d a b s
  | .ctxrd d a b => Sys2Proof.Machine.execCtxrd d a b s
  | .ctxwr d a b => Sys2Proof.Machine.execCtxwr d a b s
  | .ctxstat d a b => Sys2Proof.Machine.execCtxstat d a b s
  | .preempt a b => Sys2Proof.Machine.execPreempt a b s
  | .resume a b => Sys2Proof.Machine.execResume a b s
  | .thaw a b => Sys2Proof.Machine.execThaw a b s
  | .kill a b => Sys2Proof.Machine.execKill a b s
  | .ctxsave d a b => Sys2Proof.Machine.execCtxsave d a b s
  | .ctxrest d a b => Sys2Proof.Machine.execCtxrest d a b s
  | .fbpop d a => Sys2Proof.Machine.execFbpop d a s
  | .fbstat d a => Sys2Proof.Machine.execFbstat d a s
  | .plbinv a b => Sys2Proof.Machine.execPlbinv a b s
  | .tlbinv a b => Sys2Proof.Machine.execTlbinv a b s
  | .irqraise a b => Sys2Proof.Machine.execIrqraise a b s
  | .pwrset a b => Sys2Proof.Machine.execPwrset a b s
  | .activate d a b => Sys2Proof.Machine.execActivate d a b s
  | .j => Sys2Proof.Machine.execJ s
  | .call => Sys2Proof.Machine.execCall s
  | .ret => Sys2Proof.Machine.execRet s
  | .endFiring => Sys2Proof.Machine.execEndFiring s
  | .trap => Sys2Proof.Machine.execTrap s
  | .brk => Sys2Proof.Machine.execBrk s
  | .hret => Sys2Proof.Machine.execHret s
  | .swait => Sys2Proof.Machine.execSwait s
  | .swrFlags => Sys2Proof.Machine.execSwrFlags s
  | .swrStrip => Sys2Proof.Machine.execSwrStrip s
  | .swrChksb => Sys2Proof.Machine.execSwrChksb s
  | .swrLpart => Sys2Proof.Machine.execSwrLpart s
  | .lpartTakeEffect => Sys2Proof.Machine.execLpartTakeEffect s
  | .swrShare => Sys2Proof.Machine.execSwrShare s
  | .swrLsplit => Sys2Proof.Machine.execSwrLsplit s
  | .lsplitTakeEffect => Sys2Proof.Machine.execLsplitTakeEffect s
  | .swrPoolgrp => Sys2Proof.Machine.execSwrPoolgrp s
  | .swrTagen => Sys2Proof.Machine.execSwrTagen s
  | .swrTagpend => Sys2Proof.Machine.execSwrTagpend s
  | .swrAgelim => Sys2Proof.Machine.execSwrAgelim s
  | .firmwareCreditRefill => Sys2Proof.Machine.execFirmwareCreditRefill s
  | .memoryConfirm => Sys2Proof.Machine.execMemoryConfirm s
  | .vqEntryStart => Sys2Proof.Machine.execVqEntryStart s
  | .barrierNotice => Sys2Proof.Machine.execBarrierNotice s
  | .waittTimeout => Sys2Proof.Machine.execWaittTimeout s
  | .promiseMissed => Sys2Proof.Machine.execPromiseMissed s
  | .gatherPackageReply => Sys2Proof.Machine.execGatherPackageReply s
  | .copyCommandStart => Sys2Proof.Machine.execCopyCommandStart s
  | .copyCommandComplete => Sys2Proof.Machine.execCopyCommandComplete s
  | .collectivePerform => Sys2Proof.Machine.execCollectivePerform s
  | .collectiveEnd => Sys2Proof.Machine.execCollectiveEnd s
  | .wsetWrite => Sys2Proof.Machine.execWsetWrite s
  | .fill => Sys2Proof.Machine.execFill s
  | .mma => Sys2Proof.Machine.execMma s
  | .unfold => Sys2Proof.Machine.execUnfold s
  | .mxOperationEnd => Sys2Proof.Machine.execMxOperationEnd s
  | .saveComplete => Sys2Proof.Machine.execSaveComplete s
  | .killComplete => Sys2Proof.Machine.execKillComplete s
  | .faultRecordAccept => Sys2Proof.Machine.execFaultRecordAccept s
  | .tailWrite => Sys2Proof.Machine.execTailWrite s
  | .interruptUnmask => Sys2Proof.Machine.execInterruptUnmask s
  | .queueAgeing => Sys2Proof.Machine.execQueueAgeing s
  | .packetTake => Sys2Proof.Machine.execPacketTake s
  | .chunkDeal => Sys2Proof.Machine.execChunkDeal s
  | .gangDeal => Sys2Proof.Machine.execGangDeal s
  | .chunkBind => Sys2Proof.Machine.execChunkBind s
  | .actorFire => Sys2Proof.Machine.execActorFire s
  | .gangPlace => Sys2Proof.Machine.execGangPlace s
  | .gangReserving => Sys2Proof.Machine.execGangReserving s
  | .firingStart => Sys2Proof.Machine.execFiringStart s
  | .firingRetire => Sys2Proof.Machine.execFiringRetire s
  | .packetComplete => Sys2Proof.Machine.execPacketComplete s
  | .messageAccept => Sys2Proof.Machine.execMessageAccept s
  | .handlerStart => Sys2Proof.Machine.execHandlerStart s
  | .migrationArrival => Sys2Proof.Machine.execMigrationArrival s
  | .migrationBind => Sys2Proof.Machine.execMigrationBind s
  | .bundleSlotInstall => Sys2Proof.Machine.execBundleSlotInstall s
  | .coherenceRequest => Sys2Proof.Machine.execCoherenceRequest s
  | .recallAcknowledge => Sys2Proof.Machine.execRecallAcknowledge s
  | .regionMerge => Sys2Proof.Machine.execRegionMerge s
  | .leaseRenewal => Sys2Proof.Machine.execLeaseRenewal s
  | .leaseRelease => Sys2Proof.Machine.execLeaseRelease s
  | .holderLeaseExpiry => Sys2Proof.Machine.execHolderLeaseExpiry s
  | .switchLeaseExpiry => Sys2Proof.Machine.execSwitchLeaseExpiry s
  | .rebuildFlagClear => Sys2Proof.Machine.execRebuildFlagClear s
  | .checkpointBoundary => Sys2Proof.Machine.execCheckpointBoundary s
  | .switchDieLost => Sys2Proof.Machine.execSwitchDieLost s
  | .peerLost => Sys2Proof.Machine.execPeerLost s
  | .hostSnoop => Sys2Proof.Machine.execHostSnoop s
  | .hostMemAccess => Sys2Proof.Machine.execHostMemAccess s
  | .hostBackInvalidateAnswer => Sys2Proof.Machine.execHostBackInvalidateAnswer s
  | .hostBar4Access => Sys2Proof.Machine.execHostBar4Access s
  | .sdrollClearFlag => Sys2Proof.Machine.execSdrollClearFlag s
  | .sdrollRollback => Sys2Proof.Machine.execSdrollRollback s
  | .mgmtevClear => Sys2Proof.Machine.execMgmtevClear s
  | .mgmtRegisterWrite => Sys2Proof.Machine.execMgmtRegisterWrite s
  | .domainSet => Sys2Proof.Machine.execDomainSet s
  | .windowSet => Sys2Proof.Machine.execWindowSet s
  | .queueEnable => Sys2Proof.Machine.execQueueEnable s
  | .queueStop => Sys2Proof.Machine.execQueueStop s
  | .queueStopPreempt => Sys2Proof.Machine.execQueueStopPreempt s
  | .queueResume => Sys2Proof.Machine.execQueueResume s
  | .queueClearReread => Sys2Proof.Machine.execQueueClearReread s
  | .queueClearSkip => Sys2Proof.Machine.execQueueClearSkip s
  | .queueDisable => Sys2Proof.Machine.execQueueDisable s
  | .masterThaw => Sys2Proof.Machine.execMasterThaw s
  | .masterKill => Sys2Proof.Machine.execMasterKill s
  | .masterKillPacket => Sys2Proof.Machine.execMasterKillPacket s
  | .keepBind => Sys2Proof.Machine.execKeepBind s
  | .domainConfigure => Sys2Proof.Machine.execDomainConfigure s
  | .firmwareActivate => Sys2Proof.Machine.execFirmwareActivate s
  | .powerCommand => Sys2Proof.Machine.execPowerCommand s
  | .unknownOp => Sys2Proof.Machine.execUnknownOp s
  | .powerLimiterAction => Sys2Proof.Machine.execPowerLimiterAction s
  | .stopWake => Sys2Proof.Machine.execStopWake s
  | .packageReset => Sys2Proof.Machine.execPackageReset s
  | .linkTraining => Sys2Proof.Machine.execLinkTraining s
  | .getVersion => Sys2Proof.Machine.execGetVersion s
  | .getCapabilities => Sys2Proof.Machine.execGetCapabilities s
  | .negotiateAlgorithms => Sys2Proof.Machine.execNegotiateAlgorithms s
  | .getDigests => Sys2Proof.Machine.execGetDigests s
  | .getCertificate => Sys2Proof.Machine.execGetCertificate s
  | .challenge => Sys2Proof.Machine.execChallenge s
  | .getMeasurements => Sys2Proof.Machine.execGetMeasurements s
  | .unsupportedRequest => Sys2Proof.Machine.execUnsupportedRequest s
  | .vqEntryLeave => Sys2Proof.Machine.execVqEntryLeave s
  | .accessPerformed => Sys2Proof.Machine.execAccessPerformed s
  | .invalidateComplete => Sys2Proof.Machine.execInvalidateComplete s
  | .linkReplay => Sys2Proof.Machine.execLinkReplay s
  | .berperLinkLoss => Sys2Proof.Machine.execBerperLinkLoss s

end Sys2Proof.Machine
end

