-- ==== Sys2Proof/WellFormed.lean ====
section
/-! DEFINITION. Well-formed instructions: the operands that the encodings admit (spec/04_encoding.md R108, R110, R118 to
R126), and for the part's own steps the units that exist (spec/00_scope.md R4, R10). -/

namespace Sys2Proof

/-- A rounding override that R110 defines. -/
def roundOk (rm : BitVec 3) : Bool := decide (rm.toNat < 6)

/-- A size code of an atomic that R340 defines. -/
def sizeOk (sz : BitVec 2) : Bool := decide (sz.toNat < 2)

/-- A reduction of `VSTRED` that R213 defines. -/
def redOk (op : BitVec 3) : Bool := decide (op.toNat < 6)

/-- A context that the part has (R4, R75, R284). -/
def ctxOk (c : CtxId) : Bool :=
  if c.keep then decide (c.unit < 96) && !c.side && decide (c.slot < 4) else decide (c.unit < 768) && decide (c.slot < 10)

/-- The instruction takes no operand from the latch. -/
def noOpd (o : Operand) : Bool := o == .none

/-- The latch holds an immediate that fits `w` bits as a signed value. -/
def immS (w : Nat) (o : Operand) : Bool :=
  match o with
  | .imm v => fitsS w v
  | _ => false

/-- The latch holds an immediate less than `n`. -/
def immU (n : Nat) (o : Operand) : Bool :=
  match o with
  | .imm v => decide (v.toNat < n)
  | _ => false

/-- The operands of the instruction, those in the latch `o` among them, are those that an encoding, or the part, can name. -/
def WellFormed (i : Instr) (o : Operand) : Bool :=
  match i with
  | .add _ _ _ => noOpd o
  | .sub _ _ _ => noOpd o
  | .and _ _ _ => noOpd o
  | .or _ _ _ => noOpd o
  | .xor _ _ _ => noOpd o
  | .slt _ _ _ => noOpd o
  | .sltu _ _ _ => noOpd o
  | .seq _ _ _ => noOpd o
  | .sll _ _ _ => noOpd o
  | .srl _ _ _ => noOpd o
  | .sra _ _ _ => noOpd o
  | .ror _ _ _ => noOpd o
  | .mul _ _ _ => noOpd o
  | .mhigh _ _ _ => noOpd o
  | .mhighu _ _ _ => noOpd o
  | .mhighx _ _ _ => noOpd o
  | .div _ _ _ => noOpd o
  | .divu _ _ _ => noOpd o
  | .rem _ _ _ => noOpd o
  | .remu _ _ _ => noOpd o
  | .clz _ _ => noOpd o
  | .ctz _ _ => noOpd o
  | .popc _ _ => noOpd o
  | .brev _ _ => noOpd o
  | .sextb _ _ => noOpd o
  | .sexth _ _ => noOpd o
  | .sextw _ _ => noOpd o
  | .zextw _ _ => noOpd o
  | .addi _ _ imm => fitsS 23 imm && noOpd o
  | .andi _ _ imm => fitsS 23 imm && noOpd o
  | .ori _ _ imm => fitsU 23 imm && noOpd o
  | .xori _ _ imm => fitsU 23 imm && noOpd o
  | .slti _ _ imm => fitsS 23 imm && noOpd o
  | .slli _ _ _ => noOpd o
  | .srli _ _ _ => noOpd o
  | .srai _ _ _ => noOpd o
  | .li _ imm => fitsS 26 imm && noOpd o
  | .lis _ _ => noOpd o
  | .lea _ _ _ _ => noOpd o
  | .ld _ _ imm => fitsS 23 imm && noOpd o
  | .lw _ _ imm => fitsS 23 imm && noOpd o
  | .lwu _ _ imm => fitsS 23 imm && noOpd o
  | .lh _ _ imm => fitsS 23 imm && noOpd o
  | .lhu _ _ imm => fitsS 23 imm && noOpd o
  | .lb _ _ imm => fitsS 23 imm && noOpd o
  | .lbu _ _ imm => fitsS 23 imm && noOpd o
  | .lq _ _ imm => fitsS 23 imm && noOpd o
  | .sd _ _ imm _ => fitsS 23 imm && noOpd o
  | .sw _ _ imm _ => fitsS 23 imm && noOpd o
  | .sh _ _ imm _ => fitsS 23 imm && noOpd o
  | .sb _ _ imm _ => fitsS 23 imm && noOpd o
  | .sq _ _ imm _ => fitsS 23 imm && noOpd o
  | .beqz _ imm => fitsS 26 imm && noOpd o
  | .bnez _ imm => fitsS 26 imm && noOpd o
  | .bltz _ imm => fitsS 26 imm && noOpd o
  | .bgez _ imm => fitsS 26 imm && noOpd o
  | .j => immS 29 o
  | .call => immS 29 o
  | .jr _ => noOpd o
  | .callr _ => noOpd o
  | .ret => noOpd o
  | .endFiring => noOpd o
  | .srd _ _ => noOpd o
  | .swr _ _ => noOpd o
  | .trap => immU 256 o
  | .brk => immU 256 o
  | .vcfg _ _ _ => noOpd o
  | .vcfgw _ => noOpd o
  | .vcfgs _ _ _ => noOpd o
  | .vcfgi _ _ imm => fitsU 23 imm && noOpd o
  | .vadd _ _ _ _ => noOpd o
  | .vsub _ _ _ _ => noOpd o
  | .vmul _ _ _ _ => noOpd o
  | .vmhigh _ _ _ _ => noOpd o
  | .vand _ _ _ _ => noOpd o
  | .vor _ _ _ _ => noOpd o
  | .vxor _ _ _ _ => noOpd o
  | .vandn _ _ _ _ => noOpd o
  | .vsll _ _ _ _ => noOpd o
  | .vsrl _ _ _ _ => noOpd o
  | .vsra _ _ _ _ => noOpd o
  | .vror _ _ _ _ => noOpd o
  | .vmin _ _ _ _ => noOpd o
  | .vmax _ _ _ _ => noOpd o
  | .vminu _ _ _ _ => noOpd o
  | .vmaxu _ _ _ _ => noOpd o
  | .vsadd _ _ _ _ => noOpd o
  | .vssub _ _ _ _ => noOpd o
  | .vsaddu _ _ _ _ => noOpd o
  | .vssubu _ _ _ _ => noOpd o
  | .vdiv _ _ _ _ => noOpd o
  | .vdivu _ _ _ _ => noOpd o
  | .vrem _ _ _ _ => noOpd o
  | .vremu _ _ _ _ => noOpd o
  | .vfadd _ _ _ _ rm => roundOk rm && noOpd o
  | .vfsub _ _ _ _ rm => roundOk rm && noOpd o
  | .vfmul _ _ _ _ rm => roundOk rm && noOpd o
  | .vfdiv _ _ _ _ rm => roundOk rm && noOpd o
  | .vfmin _ _ _ _ => noOpd o
  | .vfmax _ _ _ _ => noOpd o
  | .vfsqrt _ _ _ rm => roundOk rm && noOpd o
  | .vfneg _ _ _ => noOpd o
  | .vfma _ _ _ _ rm => roundOk rm && noOpd o
  | .vfms _ _ _ _ rm => roundOk rm && noOpd o
  | .vfnma _ _ _ _ rm => roundOk rm && noOpd o
  | .vfnms _ _ _ _ rm => roundOk rm && noOpd o
  | .vcvtff _ _ _ rm => roundOk rm && noOpd o
  | .vcvtif _ _ _ rm => roundOk rm && noOpd o
  | .vcvtfi _ _ _ rm => roundOk rm && noOpd o
  | .vcvtii _ _ _ => noOpd o
  | .vwadd _ _ _ _ fp rm => roundOk rm && (fp || rm == 0) && noOpd o
  | .vwmul _ _ _ _ fp rm => roundOk rm && (fp || rm == 0) && noOpd o
  | .vwmacc _ _ _ _ fp rm => roundOk rm && (fp || rm == 0) && noOpd o
  | .vdot _ _ _ _ fp rm => roundOk rm && (fp || rm == 0) && noOpd o
  | .vcmpeq _ _ _ _ => noOpd o
  | .vcmpne _ _ _ _ => noOpd o
  | .vcmplt _ _ _ _ => noOpd o
  | .vcmple _ _ _ _ => noOpd o
  | .vfcmpeq _ _ _ _ => noOpd o
  | .vfcmplt _ _ _ _ => noOpd o
  | .vfcmple _ _ _ _ => noOpd o
  | .vfcmpun _ _ _ _ => noOpd o
  | .mand _ _ _ => noOpd o
  | .mor _ _ _ => noOpd o
  | .mxor _ _ _ => noOpd o
  | .mandn _ _ _ => noOpd o
  | .vany _ _ => noOpd o
  | .vnone _ _ => noOpd o
  | .vmcnt _ _ => noOpd o
  | .vfind _ _ => noOpd o
  | .vmv _ _ _ _ => noOpd o
  | .vbcast _ _ _ => noOpd o
  | .vgetx _ _ _ _ => noOpd o
  | .vmerge _ _ _ _ => noOpd o
  | .vperm _ _ _ _ => noOpd o
  | .vshup _ _ _ _ => noOpd o
  | .vshdn _ _ _ _ => noOpd o
  | .vpack _ _ _ _ => noOpd o
  | .vilv _ _ _ _ => noOpd o
  | .vdilv _ _ _ _ _ => noOpd o
  | .vrev _ _ _ => noOpd o
  | .vrank _ _ _ _ => noOpd o
  | .vredsum _ _ _ _ => noOpd o
  | .vredmin _ _ _ _ => noOpd o
  | .vredmax _ _ _ _ => noOpd o
  | .vfredsum _ _ _ _ rm => roundOk rm && noOpd o
  | .vfredmin _ _ _ _ => noOpd o
  | .vfredmax _ _ _ _ => noOpd o
  | .vredand _ _ _ _ => noOpd o
  | .vredor _ _ _ _ => noOpd o
  | .vaddi _ _ imm _ => fitsS 23 imm && noOpd o
  | .vld _ _ imm _ => fitsS 23 imm && noOpd o
  | .vst _ _ imm _ _ => fitsS 23 imm && noOpd o
  | .vlds _ _ _ _ => noOpd o
  | .vsts _ _ _ _ _ => noOpd o
  | .vldx _ _ _ _ => noOpd o
  | .vstx _ _ _ _ _ => noOpd o
  | .vldb _ _ _ _ => noOpd o
  | .vstb _ _ _ _ _ => noOpd o
  | .vstmc _ _ _ _ => noOpd o
  | .vstred _ _ _ _ op => redOk op && noOpd o
  | .vldff _ _ imm _ => fitsS 23 imm && noOpd o
  | .vpref _ imm => fitsS 23 imm && noOpd o
  | .vedge _ _ _ _ => noOpd o
  | .vedgetl _ _ _ _ => noOpd o
  | .vcover _ _ _ _ => noOpd o
  | .vbary _ _ _ _ => noOpd o
  | .vbaryp _ _ _ _ => noOpd o
  | .boxt _ _ _ _ => noOpd o
  | .trit _ _ _ _ => noOpd o
  | .callst _ _ _ => noOpd o
  | .texadr _ _ _ _ => noOpd o
  | .texld _ _ _ _ => noOpd o
  | .texbil _ _ _ _ => noOpd o
  | .textri _ _ _ _ => noOpd o
  | .send _ _ _ => noOpd o
  | .reply _ _ => noOpd o
  | .hret => noOpd o
  | .migrate _ _ => noOpd o
  | .fetake _ _ _ => noOpd o
  | .fefill _ _ _ _ => noOpd o
  | .fepeek _ _ _ => noOpd o
  | .atadd _ _ _ _ sz => sizeOk sz && noOpd o
  | .atswap _ _ _ _ sz => sizeOk sz && noOpd o
  | .atcas _ _ _ _ sz => sizeOk sz && noOpd o
  | .atmax _ _ _ _ sz => sizeOk sz && noOpd o
  | .atand _ _ _ _ sz => sizeOk sz && noOpd o
  | .ator _ _ _ _ sz => sizeOk sz && noOpd o
  | .atmin _ _ _ _ sz => sizeOk sz && noOpd o
  | .amaxm _ _ _ _ sz => sizeOk sz && noOpd o
  | .ipost _ _ _ _ => noOpd o
  | .iwait _ _ _ => noOpd o
  | .post _ _ _ _ _ => noOpd o
  | .pwait _ _ _ _ _ => noOpd o
  | .swait => immU (2 ^ 23) o
  | .waitt _ _ _ _ _ => noOpd o
  | .tcwait _ _ _ _ => noOpd o
  | .tcdone _ _ _ _ => noOpd o
  | .tkget _ _ _ _ => noOpd o
  | .penq _ _ _ => noOpd o
  | .fence _ _ => noOpd o
  | .fencex _ _ => noOpd o
  | .bopen _ _ _ => noOpd o
  | .bcommit _ => noOpd o
  | .bsnap _ _ => noOpd o
  | .bend _ => noOpd o
  | .breclaim _ _ => noOpd o
  | .lda _ _ imm _ => fitsS 23 imm && noOpd o
  | .ldaw _ _ imm _ => fitsS 23 imm && noOpd o
  | .ldah _ _ imm _ => fitsS 23 imm && noOpd o
  | .ldab _ _ imm _ => fitsS 23 imm && noOpd o
  | .stl _ _ imm _ => fitsS 23 imm && noOpd o
  | .stlw _ _ imm _ => fitsS 23 imm && noOpd o
  | .stlh _ _ imm _ => fitsS 23 imm && noOpd o
  | .stlb _ _ imm _ => fitsS 23 imm && noOpd o
  | .cpbatch _ _ _ _ => noOpd o
  | .cpsleep _ _ => noOpd o
  | .cpwait _ _ => noOpd o
  | .hsgath _ _ _ _ => noOpd o
  | .clred _ _ _ => noOpd o
  | .clbcast _ _ _ => noOpd o
  | .clgather _ _ _ => noOpd o
  | .clwait _ _ => noOpd o
  | .mxreq _ _ _ => noOpd o
  | .mxrwait _ _ => noOpd o
  | .mxset _ _ => noOpd o
  | .mxget _ _ => noOpd o
  | .mxgo _ _ _ => noOpd o
  | .mxsync _ _ => noOpd o
  | .mxcvt _ _ _ => noOpd o
  | .mxamax _ _ => noOpd o
  | .zld _ _ => noOpd o
  | .zst _ _ => noOpd o
  | .zzero _ _ _ => noOpd o
  | .mxtake _ _ _ => noOpd o
  | .mxreply _ _ _ => noOpd o
  | .ctxrd _ _ _ => noOpd o
  | .ctxwr _ _ _ => noOpd o
  | .ctxstat _ _ _ => noOpd o
  | .preempt _ _ => noOpd o
  | .resume _ _ => noOpd o
  | .thaw _ _ => noOpd o
  | .kill _ _ => noOpd o
  | .ctxsave _ _ _ => noOpd o
  | .ctxrest _ _ _ => noOpd o
  | .fbpop _ _ => noOpd o
  | .fbstat _ _ => noOpd o
  | .plbinv _ _ => noOpd o
  | .tlbinv _ _ => noOpd o
  | .irqraise _ _ => noOpd o
  | .pwrset _ _ => noOpd o
  | .activate _ _ _ => noOpd o
  | .swrFlags => match o with | .reg _ => true | _ => false
  | .swrStrip => match o with | .reg _ => true | _ => false
  | .swrChksb => match o with | .reg _ => true | _ => false
  | .swrLpart => match o with | .reg _ => true | _ => false
  | .lpartTakeEffect => match o with | .unit n => decide (n < 768) | _ => false
  | .swrShare => match o with | .reg _ => true | _ => false
  | .swrLsplit => match o with | .reg _ => true | _ => false
  | .lsplitTakeEffect => match o with | .unit n => decide (n < 768) | _ => false
  | .swrPoolgrp => match o with | .reg _ => true | _ => false
  | .swrTagen => match o with | .reg _ => true | _ => false
  | .swrTagpend => match o with | .reg _ => true | _ => false
  | .swrAgelim => match o with | .reg _ => true | _ => false
  | .firmwareCreditRefill => match o with | .side core _ => decide (core < 768) | _ => false
  | .memoryConfirm => match o with | .ctxOp c _ => ctxOk c | _ => false
  | .vqEntryStart => match o with | .side core _ => decide (core < 768) | _ => false
  | .barrierNotice => match o with | .ctxPhase c _ => ctxOk c | _ => false
  | .waittTimeout => match o with | .ctx c => ctxOk c | _ => false
  | .promiseMissed => match o with | .ctx c => ctxOk c | _ => false
  | .gatherPackageReply => match o with | .ctxPkg c _ => ctxOk c | _ => false
  | .copyCommandStart => match o with | .engine die eng => decide (die < 8) && decide (eng < 5) | _ => false
  | .copyCommandComplete => match o with | .engine die eng => decide (die < 8) && decide (eng < 5) | _ => false
  | .collectivePerform => match o with | .coll _ _ => true | _ => false
  | .collectiveEnd => match o with | .coll _ _ => true | _ => false
  | .wsetWrite => match o with | .wset _ _ => true | _ => false
  | .fill => match o with | .unit n => decide (n < 96) | _ => false
  | .mma => match o with | .unit n => decide (n < 96) | _ => false
  | .unfold => match o with | .unit n => decide (n < 96) | _ => false
  | .mxOperationEnd => match o with | .unit n => decide (n < 96) | _ => false
  | .saveComplete => match o with | .ctx c => ctxOk c | _ => false
  | .killComplete => match o with | .ctx c => ctxOk c | _ => false
  | .faultRecordAccept => match o with | .unit n => decide (n < 8) | _ => false
  | .tailWrite => match o with | .tail q _ _ => decide (q < 4096) | .bar _ _ => true | _ => false
  | .interruptUnmask => match o with | .vector _ _ => true | _ => false
  | .queueAgeing => match o with | .unit n => decide (n < 4096) | _ => false
  | .packetTake => match o with | .unit n => decide (n < 4096) | _ => false
  | .chunkDeal => match o with | .unit n => decide (n < 4096) | _ => false
  | .gangDeal => match o with | .unit n => decide (n < 4096) | _ => false
  | .chunkBind => match o with | .unit n => decide (n < 8) | _ => false
  | .actorFire => match o with | .actor q _ _ => decide (q < 4096) | _ => false
  | .gangPlace => match o with | .place _ => true | _ => false
  | .gangReserving => match o with | .place _ => true | _ => false
  | .firingStart => match o with | .ctx c => ctxOk c | _ => false
  | .firingRetire => match o with | .ctx c => ctxOk c | _ => false
  | .packetComplete => match o with | .packet q _ => decide (q < 4096) | _ => false
  | .messageAccept => match o with | .message _ => true | _ => false
  | .handlerStart => match o with | .side core _ => decide (core < 768) | _ => false
  | .migrationArrival => match o with | .migration core _ => decide (core < 768) | _ => false
  | .migrationBind => match o with | .unit n => decide (n < 768) | _ => false
  | .bundleSlotInstall => match o with | .bundleSlot _ slot => decide (slot < 4096) | _ => false
  | .coherenceRequest => match o with | .request agent _ _ => decide (agent < 2048) | _ => false
  | .recallAcknowledge => match o with | .line agent _ _ => decide (agent < 2048) | _ => false
  | .regionMerge => match o with | .region _ _ => true | _ => false
  | .leaseRenewal => match o with | .lease agent _ => decide (agent < 2048) | _ => false
  | .leaseRelease => match o with | .lease agent _ => decide (agent < 2048) | _ => false
  | .holderLeaseExpiry => match o with | .lease agent _ => decide (agent < 2048) | _ => false
  | .switchLeaseExpiry => match o with | .lease agent _ => decide (agent < 2048) | _ => false
  | .rebuildFlagClear => match o with | .region _ _ => true | _ => false
  | .checkpointBoundary => noOpd o
  | .switchDieLost => match o with | .sdie _ => true | _ => false
  | .peerLost => match o with | .pkg _ => true | _ => false
  | .hostSnoop => match o with | .snoop _ _ => true | _ => false
  | .hostMemAccess => match o with | .host _ => true | _ => false
  | .hostBackInvalidateAnswer => match o with | .addr _ => true | _ => false
  | .hostBar4Access => match o with | .host _ => true | _ => false
  | .sdrollClearFlag => match o with | .region _ _ => true | _ => false
  | .sdrollRollback => match o with | .rollback _ _ _ => true | _ => false
  | .mgmtevClear => match o with | .imm _ => true | _ => false
  | .mgmtRegisterWrite => match o with | .mgmt _ _ => true | .mgmtRead _ c _ => ctxOk c | .bar _ _ => true | _ => false
  | .domainSet => match o with | .domain _ _ => true | _ => false
  | .windowSet => match o with | .window _ _ _ => true | _ => false
  | .queueEnable => match o with | .enable q _ => decide (q < 4096) | _ => false
  | .queueStop => match o with | .unit n => decide (n < 4096) | _ => false
  | .queueStopPreempt => match o with | .preempt q _ _ => decide (q < 4096) | _ => false
  | .queueResume => match o with | .unit n => decide (n < 4096) | _ => false
  | .queueClearReread => match o with | .unit n => decide (n < 4096) | _ => false
  | .queueClearSkip => match o with | .unit n => decide (n < 4096) | _ => false
  | .queueDisable => match o with | .unit n => decide (n < 4096) | _ => false
  | .masterThaw => match o with | .master die _ => decide (die < 8) | _ => false
  | .masterKill => match o with | .kill die _ _ => decide (die < 8) | _ => false
  | .masterKillPacket => match o with | .master die _ => decide (die < 8) | _ => false
  | .keepBind => match o with | .keep pod slot _ _ _ => decide (pod < 96) && decide (slot < 4) | _ => false
  | .domainConfigure => match o with | .configure _ _ _ => true | _ => false
  | .firmwareActivate => match o with | .activate _ _ => true | _ => false
  | .powerCommand => match o with | .power _ _ _ => true | _ => false
  | .unknownOp => noOpd o
  | .powerLimiterAction => noOpd o
  | .stopWake => match o with | .unit n => decide (n < 8) | _ => false
  | .packageReset => noOpd o
  | .linkTraining => match o with | .link _ _ _ => true | _ => false
  | .getVersion => noOpd o
  | .getCapabilities => noOpd o
  | .negotiateAlgorithms => noOpd o
  | .getDigests => noOpd o
  | .getCertificate => match o with | .cert slot _ _ => decide (slot < 8) | _ => false
  | .challenge => match o with | .challenge slot _ => decide (slot < 8) | _ => false
  | .getMeasurements => match o with | .unit _ => true | _ => false
  | .unsupportedRequest => match o with | .code _ => true | _ => false
  | .vqEntryLeave => match o with | .side core _ => decide (core < 768) | _ => false
  | .accessPerformed => match o with | .ctxOp c _ => ctxOk c | _ => false
  | .invalidateComplete => match o with | .ctx c => ctxOk c | _ => false
  | .linkReplay => match o with | .replay src _ => ctxOk src | _ => false
  | .berperLinkLoss => match o with | .port _ _ => true | _ => false

end Sys2Proof
end

