-- ==== Sys2Proof/Decode.lean ====
section
/-! DEFINITION. The decoder and the encoder of instruction chains (spec/04_encoding.md R104 to R113, R118 to R130). -/

namespace Sys2Proof

/-- What the encoding tables key a form by: page, major, and the selection within the major (R113): fn of an `RRR` cell, the
`VAR` bits of page-0 majors 18 and 19 and of page-4 majors 13 and 14, or the rd field of page-0 major 29. `sp` is `VAR`[3], which
is `SP` on the forms that have it (R340). -/
structure FormKey where
  page : Nat
  major : Nat
  sel : Nat
  sp : Bool
  deriving DecidableEq, Repr

/-- Why a chain gives no instruction: it runs on at halfword `n` of the list, or it is illegal for reason `k` (R113), with the
page and major once the base word has been read. -/
inductive DecodeError where
  | needMore (n : Nat)
  | illegal (k : BitVec 4) (form : Option FormKey)
  deriving DecidableEq, Repr

/-- The formats of R105. -/
inductive Format where
  | rrr | rri | ri8 | j11
  deriving DecidableEq, Repr

/-- A chain taken apart: the fields of its prefixes (R108 to R111), and of its base word by R105. `n` is its length in
halfwords. -/
structure Chain where
  page : BitVec 4
  var : BitVec 5
  rdh : BitVec 2
  rah : BitVec 2
  rbh : BitVec 2
  msel : BitVec 3
  stall : BitVec 4
  bj : Bool
  lk : Bool
  nt : Bool
  is : List (BitVec 9)
  major : BitVec 5
  rd3 : BitVec 3
  ra3 : BitVec 3
  rb3 : BitVec 3
  fn : BitVec 2
  n : Nat
  deriving DecidableEq, Repr

/-- A decoded instruction, with the operand that its constructor leaves to the latch, and its marks: the stall count and hints of `PFX.W` (R111), and its length in halfwords. -/
structure Decoded where
  instr : Instr
  opd : Operand
  stall : BitVec 4
  lk : Bool
  nt : Bool
  n : Nat
  deriving DecidableEq, Repr

/-- Number of rd: the high bits of `PFX.R` over the base field (R106). -/
def Chain.d (c : Chain) : BitVec 5 := c.rdh ++ c.rd3
/-- Number of ra (R106). -/
def Chain.a (c : Chain) : BitVec 5 := c.rah ++ c.ra3
/-- Number of rb (R106). -/
def Chain.b (c : Chain) : BitVec 5 := c.rbh ++ c.rb3

/-- Bit `i` of `VAR`. -/
def Chain.varBit (c : Chain) (i : Nat) : Bool := c.var.getLsbD i

/-- The base immediate of a format and its width (R105). -/
def Chain.baseImm (c : Chain) (f : Format) : Nat × Nat :=
  match f with
  | .rrr => (0, 0)
  | .rri => ((c.rb3 ++ c.fn).toNat, 5)
  | .ri8 => ((c.ra3 ++ (c.rb3 ++ c.fn)).toNat, 8)
  | .j11 => ((c.rd3 ++ (c.ra3 ++ (c.rb3 ++ c.fn))).toNat, 11)

/-- The immediate field and its width (R108). -/
def Chain.imm (c : Chain) (f : Format) : Nat × Nat := immField (c.baseImm f).1 (c.baseImm f).2 c.is

/-- The unsigned immediate as a number. -/
def Chain.immNat (c : Chain) (f : Format) : Nat := (c.imm f).1
/-- The signed immediate (R108). -/
def Chain.simm (c : Chain) (f : Format) : Word := sextNat (c.imm f).2 (c.imm f).1
/-- The unsigned immediate (R108). -/
def Chain.uimm (c : Chain) (f : Format) : Word := BitVec.ofNat 64 (c.imm f).1

/-- The rb operand of a form that may name an `x` register. -/
def vsrc (x : Bool) (r : BitVec 5) : VSrc := if x then .x r else .v r

/-- The payload of the prefix of a kind, 0 where the chain has none. -/
def payload (p : Option (BitVec 9)) : BitVec 9 := p.getD 0

/-- The chain of given prefix payloads and base word. -/
def mkChain (p r w : Option (BitVec 9)) (is : List (BitVec 9)) (h : Half) (n : Nat) : Chain :=
  { page := (payload p).extractLsb' 5 4, var := (payload p).extractLsb' 0 5,
    rdh := (payload r).extractLsb' 7 2, rah := (payload r).extractLsb' 5 2, rbh := (payload r).extractLsb' 3 2,
    msel := (payload r).extractLsb' 0 3,
    stall := (payload w).extractLsb' 5 4, bj := (payload w).getLsbD 4, lk := (payload w).getLsbD 1, nt := (payload w).getLsbD 0,
    is := is, major := h.extractLsb' 11 5, rd3 := h.extractLsb' 8 3, ra3 := h.extractLsb' 5 3, rb3 := h.extractLsb' 2 3,
    fn := h.extractLsb' 0 2, n := n }

/-- The prefix part of `Decode` (R113): `n` prefix words have been read, with the payloads given. -/
def parseFrom (ws : List Half) (n : Nat) (p r w : Option (BitVec 9)) (is : List (BitVec 9)) : Except DecodeError Chain :=
  match ws with
  | [] => .error (.needMore n)
  | h :: t =>
    if h.extractLsb' 11 5 = 31 then
      if n = 4 then .error (.illegal 0 none)
      else match (h.extractLsb' 9 2).toNat with
        | 0 => if is.length = 2 then .error (.illegal 2 none) else parseFrom t (n + 1) p r w (is ++ [h.extractLsb' 0 9])
        | 1 => if r.isSome then .error (.illegal 1 none) else parseFrom t (n + 1) p (some (h.extractLsb' 0 9)) w is
        | 2 => if p.isSome then .error (.illegal 1 none) else parseFrom t (n + 1) (some (h.extractLsb' 0 9)) r w is
        | _ => if w.isSome then .error (.illegal 1 none) else parseFrom t (n + 1) p r (some (h.extractLsb' 0 9)) is
    else .ok (mkChain p r w is h (n + 1))

/-- The chain at the head of a list of halfwords. -/
def parse (ws : List Half) : Except DecodeError Chain := parseFrom ws 0 none none none []

/-- The selection that R113 makes within the cell of a chain's page and major. -/
def Chain.sel (c : Chain) : Nat :=
  match c.page.toNat, c.major.toNat with
  | 0, 17 => 0
  | 0, 18 => (c.var.extractLsb' 0 3).toNat
  | 0, 19 => (c.var.extractLsb' 0 3).toNat
  | 0, 29 => c.rd3.toNat
  | 4, 13 => (c.var.extractLsb' 3 2).toNat
  | 4, 14 => (c.var.extractLsb' 3 2).toNat
  | _, _ => c.fn.toNat

/-- The form key of a chain. -/
def Chain.key (c : Chain) : FormKey := { page := c.page.toNat, major := c.major.toNat, sel := c.sel, sp := c.var.getLsbD 3 }

/-- The chain is illegal for reason `k`. -/
def Chain.bad {α : Type} (c : Chain) (k : BitVec 4) : Except DecodeError α := .error (.illegal k (some c.key))

/-- What a form allows of its prefixes: its format, the `VAR` bits it defines, and whether it takes `MSEL` and `BJOIN`. -/
structure Form where
  fmt : Format
  vars : BitVec 5
  masked : Bool
  joins : Bool

/-- A prefix field is set that the form does not use, or an immediate given to a form without one (R108 to R111). -/
def Chain.extra (c : Chain) (f : Form) : Bool :=
  (c.var &&& ~~~f.vars != 0) || (!f.masked && c.msel != 0) || (!f.joins && c.bj) ||
  (match f.fmt with
   | .rrr => !c.is.isEmpty
   | .rri => c.rbh != 0
   | .ri8 => c.rah != 0 || c.rbh != 0
   | .j11 => c.rdh != 0 || c.rah != 0 || c.rbh != 0)

/-- A form's instruction, after its checks in the order of R113: reason 0x6 for a prefix field that it does not use, with the
form's own (`bad6`), then reason 0x7 for an operand outside its limit (`bad7`). -/
def arm (c : Chain) (f : Form) (bad6 bad7 : Bool) (i : Instr) : Except DecodeError Instr :=
  if c.extra f || bad6 then c.bad 6 else if bad7 then c.bad 7 else .ok i

/-- The forms of page 0 (R119), after the checks that R113 makes on their fields. -/
def buildPage0 (c : Chain) : Except DecodeError Instr :=
  match c.major.toNat with
  | 0 =>
    match c.fn.toNat with
    | 0 => arm c ⟨.rrr, 0, false, false⟩ (false) (false) (.add c.d c.a c.b)
    | 1 => arm c ⟨.rrr, 0, false, false⟩ (false) (false) (.sub c.d c.a c.b)
    | 2 => arm c ⟨.rrr, 0, false, false⟩ (false) (false) (.and c.d c.a c.b)
    | 3 => arm c ⟨.rrr, 0, false, false⟩ (false) (false) (.or c.d c.a c.b)
    | _ => c.bad 4
  | 1 =>
    match c.fn.toNat with
    | 0 => arm c ⟨.rrr, 0, false, false⟩ (false) (false) (.xor c.d c.a c.b)
    | 1 => arm c ⟨.rrr, 0, false, false⟩ (false) (false) (.slt c.d c.a c.b)
    | 2 => arm c ⟨.rrr, 0, false, false⟩ (false) (false) (.sltu c.d c.a c.b)
    | 3 => arm c ⟨.rrr, 0, false, false⟩ (false) (false) (.seq c.d c.a c.b)
    | _ => c.bad 4
  | 2 =>
    match c.fn.toNat with
    | 0 => arm c ⟨.rrr, 0, false, false⟩ (false) (false) (.sll c.d c.a c.b)
    | 1 => arm c ⟨.rrr, 0, false, false⟩ (false) (false) (.srl c.d c.a c.b)
    | 2 => arm c ⟨.rrr, 0, false, false⟩ (false) (false) (.sra c.d c.a c.b)
    | 3 => arm c ⟨.rrr, 0, false, false⟩ (false) (false) (.ror c.d c.a c.b)
    | _ => c.bad 4
  | 3 =>
    match c.fn.toNat with
    | 0 => arm c ⟨.rrr, 0, false, false⟩ (false) (false) (.mul c.d c.a c.b)
    | 1 => arm c ⟨.rrr, 0, false, false⟩ (false) (false) (.mhigh c.d c.a c.b)
    | 2 => arm c ⟨.rrr, 0, false, false⟩ (false) (false) (.mhighu c.d c.a c.b)
    | 3 => arm c ⟨.rrr, 0, false, false⟩ (false) (false) (.mhighx c.d c.a c.b)
    | _ => c.bad 4
  | 4 =>
    match c.fn.toNat with
    | 0 => arm c ⟨.rrr, 0, false, false⟩ (false) (false) (.div c.d c.a c.b)
    | 1 => arm c ⟨.rrr, 0, false, false⟩ (false) (false) (.divu c.d c.a c.b)
    | 2 => arm c ⟨.rrr, 0, false, false⟩ (false) (false) (.rem c.d c.a c.b)
    | 3 => arm c ⟨.rrr, 0, false, false⟩ (false) (false) (.remu c.d c.a c.b)
    | _ => c.bad 4
  | 5 =>
    match c.fn.toNat with
    | 0 => arm c ⟨.rrr, 0, false, false⟩ (false) (c.b != 0) (.clz c.d c.a)
    | 1 => arm c ⟨.rrr, 0, false, false⟩ (false) (c.b != 0) (.ctz c.d c.a)
    | 2 => arm c ⟨.rrr, 0, false, false⟩ (false) (c.b != 0) (.popc c.d c.a)
    | 3 => arm c ⟨.rrr, 0, false, false⟩ (false) (c.b != 0) (.brev c.d c.a)
    | _ => c.bad 4
  | 6 =>
    match c.fn.toNat with
    | 0 => arm c ⟨.rrr, 0, false, false⟩ (false) (c.b != 0) (.sextb c.d c.a)
    | 1 => arm c ⟨.rrr, 0, false, false⟩ (false) (c.b != 0) (.sexth c.d c.a)
    | 2 => arm c ⟨.rrr, 0, false, false⟩ (false) (c.b != 0) (.sextw c.d c.a)
    | 3 => arm c ⟨.rrr, 0, false, false⟩ (false) (c.b != 0) (.zextw c.d c.a)
    | _ => c.bad 4
  | 7 => arm c ⟨.rri, 0, false, false⟩ (false) (false) (.addi c.d c.a (c.simm .rri))
  | 8 => arm c ⟨.rri, 0, false, false⟩ (false) (false) (.andi c.d c.a (c.simm .rri))
  | 9 => arm c ⟨.rri, 0, false, false⟩ (false) (false) (.ori c.d c.a (c.uimm .rri))
  | 10 => arm c ⟨.rri, 0, false, false⟩ (false) (false) (.xori c.d c.a (c.uimm .rri))
  | 11 => arm c ⟨.rri, 0, false, false⟩ (false) (false) (.slti c.d c.a (c.simm .rri))
  | 12 => arm c ⟨.rri, 0, false, false⟩ (false) (decide (64 ≤ c.immNat .rri)) (.slli c.d c.a (BitVec.ofNat 6 (c.immNat .rri)))
  | 13 => arm c ⟨.rri, 0, false, false⟩ (false) (decide (64 ≤ c.immNat .rri)) (.srli c.d c.a (BitVec.ofNat 6 (c.immNat .rri)))
  | 14 => arm c ⟨.rri, 0, false, false⟩ (false) (decide (64 ≤ c.immNat .rri)) (.srai c.d c.a (BitVec.ofNat 6 (c.immNat .rri)))
  | 15 => arm c ⟨.ri8, 0, false, false⟩ (false) (false) (.li c.d (c.simm .ri8))
  | 16 => arm c ⟨.ri8, 0, false, false⟩ (false) (decide (65536 ≤ c.immNat .ri8)) (.lis c.d (BitVec.ofNat 16 (c.immNat .ri8)))
  | 17 => arm c ⟨.rrr, 0, false, false⟩ (false) (false) (.lea c.d c.a c.b c.fn)
  | 18 =>
    match (c.var.extractLsb' 0 3).toNat with
    | 0 => arm c ⟨.rri, 7, false, false⟩ (false) (false) (.ld c.d c.a (c.simm .rri))
    | 1 => arm c ⟨.rri, 7, false, false⟩ (false) (false) (.lw c.d c.a (c.simm .rri))
    | 2 => arm c ⟨.rri, 7, false, false⟩ (false) (false) (.lwu c.d c.a (c.simm .rri))
    | 3 => arm c ⟨.rri, 7, false, false⟩ (false) (false) (.lh c.d c.a (c.simm .rri))
    | 4 => arm c ⟨.rri, 7, false, false⟩ (false) (false) (.lhu c.d c.a (c.simm .rri))
    | 5 => arm c ⟨.rri, 7, false, false⟩ (false) (false) (.lb c.d c.a (c.simm .rri))
    | 6 => arm c ⟨.rri, 7, false, false⟩ (false) (false) (.lbu c.d c.a (c.simm .rri))
    | 7 => arm c ⟨.rri, 7, false, false⟩ (false) (false) (.lq c.d c.a (c.simm .rri))
    | _ => c.bad 4
  | 19 =>
    match (c.var.extractLsb' 0 3).toNat with
    | 0 => arm c ⟨.rri, 7, false, true⟩ (false) (false) (.sd c.d c.a (c.simm .rri) c.bj)
    | 1 => arm c ⟨.rri, 7, false, true⟩ (false) (false) (.sw c.d c.a (c.simm .rri) c.bj)
    | 2 => arm c ⟨.rri, 7, false, true⟩ (false) (false) (.sh c.d c.a (c.simm .rri) c.bj)
    | 3 => arm c ⟨.rri, 7, false, true⟩ (false) (false) (.sb c.d c.a (c.simm .rri) c.bj)
    | 4 => arm c ⟨.rri, 7, false, true⟩ (false) (false) (.sq c.d c.a (c.simm .rri) c.bj)
    | _ => c.bad 4
  | 20 => arm c ⟨.ri8, 0, false, false⟩ (false) (false) (.beqz c.d (c.simm .ri8))
  | 21 => arm c ⟨.ri8, 0, false, false⟩ (false) (false) (.bnez c.d (c.simm .ri8))
  | 22 => arm c ⟨.ri8, 0, false, false⟩ (false) (false) (.bltz c.d (c.simm .ri8))
  | 23 => arm c ⟨.ri8, 0, false, false⟩ (false) (false) (.bgez c.d (c.simm .ri8))
  | 24 => arm c ⟨.j11, 0, false, false⟩ (false) (false) .j
  | 25 => arm c ⟨.j11, 0, false, false⟩ (false) (false) .call
  | 26 =>
    match c.fn.toNat with
    | 0 => arm c ⟨.rrr, 0, false, false⟩ (false) (c.d != 0 || c.b != 0) (.jr c.a)
    | 1 => arm c ⟨.rrr, 0, false, false⟩ (false) (c.d != 0 || c.b != 0) (.callr c.a)
    | 2 => arm c ⟨.rrr, 0, false, false⟩ (false) (c.d != 0 || c.a != 0 || c.b != 0) .ret
    | 3 => arm c ⟨.rrr, 0, false, false⟩ (false) (c.d != 0 || c.a != 0 || c.b != 0) .endFiring
    | _ => c.bad 4
  | 27 => arm c ⟨.ri8, 0, false, false⟩ (false) (decide (256 ≤ c.immNat .ri8)) (.srd c.d (BitVec.ofNat 8 (c.immNat .ri8)))
  | 28 => arm c ⟨.ri8, 0, false, false⟩ (false) (decide (256 ≤ c.immNat .ri8)) (.swr c.d (BitVec.ofNat 8 (c.immNat .ri8)))
  | 29 =>
    match c.rd3.toNat with
    | 0 => arm c ⟨.ri8, 0, false, false⟩ (c.rdh != 0) (decide (256 ≤ c.immNat .ri8)) .trap
    | 1 => arm c ⟨.ri8, 0, false, false⟩ (c.rdh != 0) (decide (256 ≤ c.immNat .ri8)) .brk
    | _ => c.bad 4
  | _ => c.bad 4

/-- The forms of page 1 (R120), after the checks that R113 makes on their fields. -/
def buildPage1 (c : Chain) : Except DecodeError Instr :=
  match c.major.toNat with
  | 0 =>
    match c.fn.toNat with
    | 0 => arm c ⟨.rrr, 0, false, false⟩ (false) (false) (.vcfg c.d c.a c.b)
    | 1 => arm c ⟨.rrr, 0, false, false⟩ (false) (c.d != 0 || c.b != 0) (.vcfgw c.a)
    | 2 => arm c ⟨.rrr, 0, false, false⟩ (false) (false) (.vcfgs c.d c.a c.b)
    | _ => c.bad 4
  | 1 => arm c ⟨.rri, 0, false, false⟩ (false) (false) (.vcfgi c.d c.a (c.uimm .rri))
  | 2 =>
    match c.fn.toNat with
    | 0 => arm c ⟨.rrr, 1, true, false⟩ (false) (false) (.vadd c.d c.a (vsrc (c.varBit 0) c.b) c.msel)
    | 1 => arm c ⟨.rrr, 1, true, false⟩ (false) (false) (.vsub c.d c.a (vsrc (c.varBit 0) c.b) c.msel)
    | 2 => arm c ⟨.rrr, 1, true, false⟩ (false) (false) (.vmul c.d c.a (vsrc (c.varBit 0) c.b) c.msel)
    | 3 => arm c ⟨.rrr, 1, true, false⟩ (false) (false) (.vmhigh c.d c.a (vsrc (c.varBit 0) c.b) c.msel)
    | _ => c.bad 4
  | 3 =>
    match c.fn.toNat with
    | 0 => arm c ⟨.rrr, 1, true, false⟩ (false) (false) (.vand c.d c.a (vsrc (c.varBit 0) c.b) c.msel)
    | 1 => arm c ⟨.rrr, 1, true, false⟩ (false) (false) (.vor c.d c.a (vsrc (c.varBit 0) c.b) c.msel)
    | 2 => arm c ⟨.rrr, 1, true, false⟩ (false) (false) (.vxor c.d c.a (vsrc (c.varBit 0) c.b) c.msel)
    | 3 => arm c ⟨.rrr, 1, true, false⟩ (false) (false) (.vandn c.d c.a (vsrc (c.varBit 0) c.b) c.msel)
    | _ => c.bad 4
  | 4 =>
    match c.fn.toNat with
    | 0 => arm c ⟨.rrr, 1, true, false⟩ (false) (false) (.vsll c.d c.a (vsrc (c.varBit 0) c.b) c.msel)
    | 1 => arm c ⟨.rrr, 1, true, false⟩ (false) (false) (.vsrl c.d c.a (vsrc (c.varBit 0) c.b) c.msel)
    | 2 => arm c ⟨.rrr, 1, true, false⟩ (false) (false) (.vsra c.d c.a (vsrc (c.varBit 0) c.b) c.msel)
    | 3 => arm c ⟨.rrr, 1, true, false⟩ (false) (false) (.vror c.d c.a (vsrc (c.varBit 0) c.b) c.msel)
    | _ => c.bad 4
  | 5 =>
    match c.fn.toNat with
    | 0 => arm c ⟨.rrr, 1, true, false⟩ (false) (false) (.vmin c.d c.a (vsrc (c.varBit 0) c.b) c.msel)
    | 1 => arm c ⟨.rrr, 1, true, false⟩ (false) (false) (.vmax c.d c.a (vsrc (c.varBit 0) c.b) c.msel)
    | 2 => arm c ⟨.rrr, 1, true, false⟩ (false) (false) (.vminu c.d c.a (vsrc (c.varBit 0) c.b) c.msel)
    | 3 => arm c ⟨.rrr, 1, true, false⟩ (false) (false) (.vmaxu c.d c.a (vsrc (c.varBit 0) c.b) c.msel)
    | _ => c.bad 4
  | 6 =>
    match c.fn.toNat with
    | 0 => arm c ⟨.rrr, 1, true, false⟩ (false) (false) (.vsadd c.d c.a (vsrc (c.varBit 0) c.b) c.msel)
    | 1 => arm c ⟨.rrr, 1, true, false⟩ (false) (false) (.vssub c.d c.a (vsrc (c.varBit 0) c.b) c.msel)
    | 2 => arm c ⟨.rrr, 1, true, false⟩ (false) (false) (.vsaddu c.d c.a (vsrc (c.varBit 0) c.b) c.msel)
    | 3 => arm c ⟨.rrr, 1, true, false⟩ (false) (false) (.vssubu c.d c.a (vsrc (c.varBit 0) c.b) c.msel)
    | _ => c.bad 4
  | 7 =>
    match c.fn.toNat with
    | 0 => arm c ⟨.rrr, 1, true, false⟩ (false) (false) (.vdiv c.d c.a (vsrc (c.varBit 0) c.b) c.msel)
    | 1 => arm c ⟨.rrr, 1, true, false⟩ (false) (false) (.vdivu c.d c.a (vsrc (c.varBit 0) c.b) c.msel)
    | 2 => arm c ⟨.rrr, 1, true, false⟩ (false) (false) (.vrem c.d c.a (vsrc (c.varBit 0) c.b) c.msel)
    | 3 => arm c ⟨.rrr, 1, true, false⟩ (false) (false) (.vremu c.d c.a (vsrc (c.varBit 0) c.b) c.msel)
    | _ => c.bad 4
  | 8 =>
    match c.fn.toNat with
    | 0 => arm c ⟨.rrr, 29, true, false⟩ (!roundOk (c.var.extractLsb' 2 3)) (false) (.vfadd c.d c.a (vsrc (c.varBit 0) c.b) c.msel (c.var.extractLsb' 2 3))
    | 1 => arm c ⟨.rrr, 29, true, false⟩ (!roundOk (c.var.extractLsb' 2 3)) (false) (.vfsub c.d c.a (vsrc (c.varBit 0) c.b) c.msel (c.var.extractLsb' 2 3))
    | 2 => arm c ⟨.rrr, 29, true, false⟩ (!roundOk (c.var.extractLsb' 2 3)) (false) (.vfmul c.d c.a (vsrc (c.varBit 0) c.b) c.msel (c.var.extractLsb' 2 3))
    | 3 => arm c ⟨.rrr, 29, true, false⟩ (!roundOk (c.var.extractLsb' 2 3)) (false) (.vfdiv c.d c.a (vsrc (c.varBit 0) c.b) c.msel (c.var.extractLsb' 2 3))
    | _ => c.bad 4
  | 9 =>
    match c.fn.toNat with
    | 0 => arm c ⟨.rrr, 1, true, false⟩ (false) (false) (.vfmin c.d c.a (vsrc (c.varBit 0) c.b) c.msel)
    | 1 => arm c ⟨.rrr, 1, true, false⟩ (false) (false) (.vfmax c.d c.a (vsrc (c.varBit 0) c.b) c.msel)
    | 2 => arm c ⟨.rrr, 28, true, false⟩ (!roundOk (c.var.extractLsb' 2 3)) (c.b != 0) (.vfsqrt c.d c.a c.msel (c.var.extractLsb' 2 3))
    | 3 => arm c ⟨.rrr, 0, true, false⟩ (false) (c.b != 0) (.vfneg c.d c.a c.msel)
    | _ => c.bad 4
  | 10 =>
    match c.fn.toNat with
    | 0 => arm c ⟨.rrr, 29, true, false⟩ (!roundOk (c.var.extractLsb' 2 3)) (false) (.vfma c.d c.a (vsrc (c.varBit 0) c.b) c.msel (c.var.extractLsb' 2 3))
    | 1 => arm c ⟨.rrr, 29, true, false⟩ (!roundOk (c.var.extractLsb' 2 3)) (false) (.vfms c.d c.a (vsrc (c.varBit 0) c.b) c.msel (c.var.extractLsb' 2 3))
    | 2 => arm c ⟨.rrr, 29, true, false⟩ (!roundOk (c.var.extractLsb' 2 3)) (false) (.vfnma c.d c.a (vsrc (c.varBit 0) c.b) c.msel (c.var.extractLsb' 2 3))
    | 3 => arm c ⟨.rrr, 29, true, false⟩ (!roundOk (c.var.extractLsb' 2 3)) (false) (.vfnms c.d c.a (vsrc (c.varBit 0) c.b) c.msel (c.var.extractLsb' 2 3))
    | _ => c.bad 4
  | 11 =>
    match c.fn.toNat with
    | 0 => arm c ⟨.rrr, 28, true, false⟩ (!roundOk (c.var.extractLsb' 2 3)) (c.b != 0) (.vcvtff c.d c.a c.msel (c.var.extractLsb' 2 3))
    | 1 => arm c ⟨.rrr, 28, true, false⟩ (!roundOk (c.var.extractLsb' 2 3)) (c.b != 0) (.vcvtif c.d c.a c.msel (c.var.extractLsb' 2 3))
    | 2 => arm c ⟨.rrr, 28, true, false⟩ (!roundOk (c.var.extractLsb' 2 3)) (c.b != 0) (.vcvtfi c.d c.a c.msel (c.var.extractLsb' 2 3))
    | 3 => arm c ⟨.rrr, 0, true, false⟩ (false) (c.b != 0) (.vcvtii c.d c.a c.msel)
    | _ => c.bad 4
  | 12 =>
    match c.fn.toNat with
    | 0 => arm c ⟨.rrr, 31, true, false⟩ (!roundOk (c.var.extractLsb' 2 3) || (!c.varBit 1 && c.var.extractLsb' 2 3 != 0)) (false) (.vwadd c.d c.a (vsrc (c.varBit 0) c.b) c.msel (c.varBit 1) (c.var.extractLsb' 2 3))
    | 1 => arm c ⟨.rrr, 31, true, false⟩ (!roundOk (c.var.extractLsb' 2 3) || (!c.varBit 1 && c.var.extractLsb' 2 3 != 0)) (false) (.vwmul c.d c.a (vsrc (c.varBit 0) c.b) c.msel (c.varBit 1) (c.var.extractLsb' 2 3))
    | 2 => arm c ⟨.rrr, 31, true, false⟩ (!roundOk (c.var.extractLsb' 2 3) || (!c.varBit 1 && c.var.extractLsb' 2 3 != 0)) (false) (.vwmacc c.d c.a (vsrc (c.varBit 0) c.b) c.msel (c.varBit 1) (c.var.extractLsb' 2 3))
    | 3 => arm c ⟨.rrr, 31, true, false⟩ (!roundOk (c.var.extractLsb' 2 3) || (!c.varBit 1 && c.var.extractLsb' 2 3 != 0)) (false) (.vdot c.d c.a (vsrc (c.varBit 0) c.b) c.msel (c.varBit 1) (c.var.extractLsb' 2 3))
    | _ => c.bad 4
  | 13 =>
    match c.fn.toNat with
    | 0 => arm c ⟨.rrr, 1, true, false⟩ (false) (c.rdh != 0) (.vcmpeq c.rd3 c.a (vsrc (c.varBit 0) c.b) c.msel)
    | 1 => arm c ⟨.rrr, 1, true, false⟩ (false) (c.rdh != 0) (.vcmpne c.rd3 c.a (vsrc (c.varBit 0) c.b) c.msel)
    | 2 => arm c ⟨.rrr, 1, true, false⟩ (false) (c.rdh != 0) (.vcmplt c.rd3 c.a (vsrc (c.varBit 0) c.b) c.msel)
    | 3 => arm c ⟨.rrr, 1, true, false⟩ (false) (c.rdh != 0) (.vcmple c.rd3 c.a (vsrc (c.varBit 0) c.b) c.msel)
    | _ => c.bad 4
  | 14 =>
    match c.fn.toNat with
    | 0 => arm c ⟨.rrr, 1, true, false⟩ (false) (c.rdh != 0) (.vfcmpeq c.rd3 c.a (vsrc (c.varBit 0) c.b) c.msel)
    | 1 => arm c ⟨.rrr, 1, true, false⟩ (false) (c.rdh != 0) (.vfcmplt c.rd3 c.a (vsrc (c.varBit 0) c.b) c.msel)
    | 2 => arm c ⟨.rrr, 1, true, false⟩ (false) (c.rdh != 0) (.vfcmple c.rd3 c.a (vsrc (c.varBit 0) c.b) c.msel)
    | 3 => arm c ⟨.rrr, 1, true, false⟩ (false) (c.rdh != 0) (.vfcmpun c.rd3 c.a (vsrc (c.varBit 0) c.b) c.msel)
    | _ => c.bad 4
  | 15 =>
    match c.fn.toNat with
    | 0 => arm c ⟨.rrr, 0, false, false⟩ (false) (c.rdh != 0 || c.rah != 0 || c.rbh != 0) (.mand c.rd3 c.ra3 c.rb3)
    | 1 => arm c ⟨.rrr, 0, false, false⟩ (false) (c.rdh != 0 || c.rah != 0 || c.rbh != 0) (.mor c.rd3 c.ra3 c.rb3)
    | 2 => arm c ⟨.rrr, 0, false, false⟩ (false) (c.rdh != 0 || c.rah != 0 || c.rbh != 0) (.mxor c.rd3 c.ra3 c.rb3)
    | 3 => arm c ⟨.rrr, 0, false, false⟩ (false) (c.rdh != 0 || c.rah != 0 || c.rbh != 0) (.mandn c.rd3 c.ra3 c.rb3)
    | _ => c.bad 4
  | 16 =>
    match c.fn.toNat with
    | 0 => arm c ⟨.rrr, 0, false, false⟩ (false) (c.b != 0 || c.rah != 0) (.vany c.d c.ra3)
    | 1 => arm c ⟨.rrr, 0, false, false⟩ (false) (c.b != 0 || c.rah != 0) (.vnone c.d c.ra3)
    | 2 => arm c ⟨.rrr, 0, false, false⟩ (false) (c.b != 0 || c.rah != 0) (.vmcnt c.d c.ra3)
    | 3 => arm c ⟨.rrr, 0, false, false⟩ (false) (c.b != 0 || c.rah != 0) (.vfind c.d c.ra3)
    | _ => c.bad 4
  | 17 =>
    match c.fn.toNat with
    | 0 => arm c ⟨.rrr, 0, true, false⟩ (false) (false) (.vmv c.d c.a c.b c.msel)
    | 1 => arm c ⟨.rrr, 0, true, false⟩ (false) (c.b != 0) (.vbcast c.d c.a c.msel)
    | 2 => arm c ⟨.rrr, 0, true, false⟩ (false) (false) (.vgetx c.d c.a c.b c.msel)
    | 3 => arm c ⟨.rrr, 0, true, false⟩ (false) (false) (.vmerge c.d c.a c.b c.msel)
    | _ => c.bad 4
  | 18 =>
    match c.fn.toNat with
    | 0 => arm c ⟨.rrr, 2, true, false⟩ (false) (false) (.vperm c.d c.a (vsrc (c.varBit 1) c.b) c.msel)
    | 1 => arm c ⟨.rrr, 2, true, false⟩ (false) (false) (.vshup c.d c.a (vsrc (c.varBit 1) c.b) c.msel)
    | 2 => arm c ⟨.rrr, 2, true, false⟩ (false) (false) (.vshdn c.d c.a (vsrc (c.varBit 1) c.b) c.msel)
    | 3 => arm c ⟨.rrr, 2, true, false⟩ (false) (false) (.vpack c.d c.a (vsrc (c.varBit 1) c.b) c.msel)
    | _ => c.bad 4
  | 19 =>
    match c.fn.toNat with
    | 0 => arm c ⟨.rrr, 0, true, false⟩ (false) (false) (.vilv c.d c.a c.b c.msel)
    | 1 => arm c ⟨.rrr, 2, true, false⟩ (false) (false) (.vdilv c.d c.a c.b c.msel (c.varBit 1))
    | 2 => arm c ⟨.rrr, 0, true, false⟩ (false) (c.b != 0) (.vrev c.d c.a c.msel)
    | 3 => arm c ⟨.rrr, 2, true, false⟩ (false) (c.b != 0) (.vrank c.d c.a c.msel (c.varBit 1))
    | _ => c.bad 4
  | 20 =>
    match c.fn.toNat with
    | 0 => arm c ⟨.rrr, 0, true, false⟩ (false) (false) (.vredsum c.d c.a c.b c.msel)
    | 1 => arm c ⟨.rrr, 0, true, false⟩ (false) (false) (.vredmin c.d c.a c.b c.msel)
    | 2 => arm c ⟨.rrr, 0, true, false⟩ (false) (false) (.vredmax c.d c.a c.b c.msel)
    | 3 => arm c ⟨.rrr, 28, true, false⟩ (!roundOk (c.var.extractLsb' 2 3)) (false) (.vfredsum c.d c.a c.b c.msel (c.var.extractLsb' 2 3))
    | _ => c.bad 4
  | 21 =>
    match c.fn.toNat with
    | 0 => arm c ⟨.rrr, 0, true, false⟩ (false) (false) (.vfredmin c.d c.a c.b c.msel)
    | 1 => arm c ⟨.rrr, 0, true, false⟩ (false) (false) (.vfredmax c.d c.a c.b c.msel)
    | 2 => arm c ⟨.rrr, 0, true, false⟩ (false) (false) (.vredand c.d c.a c.b c.msel)
    | 3 => arm c ⟨.rrr, 0, true, false⟩ (false) (false) (.vredor c.d c.a c.b c.msel)
    | _ => c.bad 4
  | 22 => arm c ⟨.rri, 0, true, false⟩ (false) (false) (.vaddi c.d c.a (c.simm .rri) c.msel)
  | _ => c.bad 4

/-- The forms of page 2 (R121), after the checks that R113 makes on their fields. -/
def buildPage2 (c : Chain) : Except DecodeError Instr :=
  match c.major.toNat with
  | 0 => arm c ⟨.rri, 0, true, false⟩ (false) (false) (.vld c.d c.a (c.simm .rri) c.msel)
  | 1 => arm c ⟨.rri, 0, true, true⟩ (false) (false) (.vst c.d c.a (c.simm .rri) c.msel c.bj)
  | 2 =>
    match c.fn.toNat with
    | 0 => arm c ⟨.rrr, 0, true, false⟩ (false) (false) (.vlds c.d c.a c.b c.msel)
    | 1 => arm c ⟨.rrr, 0, true, true⟩ (false) (false) (.vsts c.d c.a c.b c.msel c.bj)
    | _ => c.bad 4
  | 3 =>
    match c.fn.toNat with
    | 0 => arm c ⟨.rrr, 0, true, false⟩ (false) (false) (.vldx c.d c.a c.b c.msel)
    | 1 => arm c ⟨.rrr, 0, true, true⟩ (false) (false) (.vstx c.d c.a c.b c.msel c.bj)
    | _ => c.bad 4
  | 4 =>
    match c.fn.toNat with
    | 0 => arm c ⟨.rrr, 0, true, false⟩ (false) (false) (.vldb c.d c.a c.b c.msel)
    | 1 => arm c ⟨.rrr, 0, true, true⟩ (false) (false) (.vstb c.d c.a c.b c.msel c.bj)
    | _ => c.bad 4
  | 5 =>
    match c.fn.toNat with
    | 0 => arm c ⟨.rrr, 0, true, false⟩ (false) (false) (.vstmc c.d c.a c.b c.msel)
    | 1 => arm c ⟨.rrr, 7, true, false⟩ (!redOk (c.var.extractLsb' 0 3)) (false) (.vstred c.d c.a c.b c.msel (c.var.extractLsb' 0 3))
    | _ => c.bad 4
  | 6 => arm c ⟨.rri, 0, true, false⟩ (false) (false) (.vldff c.d c.a (c.simm .rri) c.msel)
  | 7 => arm c ⟨.rri, 0, false, false⟩ (false) (c.d != 0) (.vpref c.a (c.simm .rri))
  | _ => c.bad 4

/-- The forms of page 3 (R122), after the checks that R113 makes on their fields. -/
def buildPage3 (c : Chain) : Except DecodeError Instr :=
  match c.major.toNat with
  | 0 =>
    match c.fn.toNat with
    | 0 => arm c ⟨.rrr, 0, true, false⟩ (false) (false) (.vedge c.d c.a c.b c.msel)
    | 1 => arm c ⟨.rrr, 0, true, false⟩ (false) (false) (.vedgetl c.d c.a c.b c.msel)
    | 2 => arm c ⟨.rrr, 0, true, false⟩ (false) (false) (.vcover c.d c.a c.b c.msel)
    | _ => c.bad 4
  | 1 =>
    match c.fn.toNat with
    | 0 => arm c ⟨.rrr, 0, true, false⟩ (false) (false) (.vbary c.d c.a c.b c.msel)
    | 1 => arm c ⟨.rrr, 0, true, false⟩ (false) (false) (.vbaryp c.d c.a c.b c.msel)
    | _ => c.bad 4
  | 2 =>
    match c.fn.toNat with
    | 0 => arm c ⟨.rrr, 0, true, false⟩ (false) (false) (.boxt c.d c.a c.b c.msel)
    | _ => c.bad 4
  | 3 =>
    match c.fn.toNat with
    | 0 => arm c ⟨.rrr, 0, true, false⟩ (false) (false) (.trit c.d c.a c.b c.msel)
    | _ => c.bad 4
  | 4 =>
    match c.fn.toNat with
    | 0 => arm c ⟨.rrr, 0, false, false⟩ (false) (false) (.callst c.d c.a c.b)
    | _ => c.bad 4
  | 5 =>
    match c.fn.toNat with
    | 0 => arm c ⟨.rrr, 0, true, false⟩ (false) (false) (.texadr c.d c.a c.b c.msel)
    | 1 => arm c ⟨.rrr, 0, true, false⟩ (false) (false) (.texld c.d c.a c.b c.msel)
    | 2 => arm c ⟨.rrr, 0, true, false⟩ (false) (false) (.texbil c.d c.a c.b c.msel)
    | 3 => arm c ⟨.rrr, 0, true, false⟩ (false) (false) (.textri c.d c.a c.b c.msel)
    | _ => c.bad 4
  | _ => c.bad 4

/-- The forms of page 4 (R123), after the checks that R113 makes on their fields. -/
def buildPage4 (c : Chain) : Except DecodeError Instr :=
  match c.major.toNat with
  | 0 =>
    match c.fn.toNat with
    | 0 => arm c ⟨.rrr, 0, false, false⟩ (false) (false) (.send c.d c.a c.b)
    | 1 => arm c ⟨.rrr, 0, false, false⟩ (false) (c.d != 0) (.reply c.a c.b)
    | 2 => arm c ⟨.rrr, 0, false, false⟩ (false) (c.d != 0 || c.a != 0 || c.b != 0) .hret
    | 3 => arm c ⟨.rrr, 0, false, false⟩ (false) (c.b != 0) (.migrate c.d c.a)
    | _ => c.bad 4
  | 1 =>
    match c.fn.toNat with
    | 0 => arm c ⟨.rrr, 7, false, false⟩ (false) (c.b != 0) (.fetake c.d c.a (c.var.extractLsb' 0 3))
    | 1 => arm c ⟨.rrr, 7, false, false⟩ (false) (false) (.fefill c.d c.a c.b (c.var.extractLsb' 0 3))
    | 2 => arm c ⟨.rrr, 7, false, false⟩ (false) (c.b != 0) (.fepeek c.d c.a (c.var.extractLsb' 0 3))
    | _ => c.bad 4
  | 2 =>
    match c.fn.toNat with
    | 0 => arm c ⟨.rrr, 31, false, false⟩ (!sizeOk (c.var.extractLsb' 3 2)) (false) (.atadd c.d c.a c.b (c.var.extractLsb' 0 3) (c.var.extractLsb' 3 2))
    | 1 => arm c ⟨.rrr, 31, false, false⟩ (!sizeOk (c.var.extractLsb' 3 2)) (false) (.atswap c.d c.a c.b (c.var.extractLsb' 0 3) (c.var.extractLsb' 3 2))
    | 2 => arm c ⟨.rrr, 31, false, false⟩ (!sizeOk (c.var.extractLsb' 3 2)) (false) (.atcas c.d c.a c.b (c.var.extractLsb' 0 3) (c.var.extractLsb' 3 2))
    | 3 => arm c ⟨.rrr, 31, false, false⟩ (!sizeOk (c.var.extractLsb' 3 2)) (false) (.atmax c.d c.a c.b (c.var.extractLsb' 0 3) (c.var.extractLsb' 3 2))
    | _ => c.bad 4
  | 3 =>
    match c.fn.toNat with
    | 0 => arm c ⟨.rrr, 31, false, false⟩ (!sizeOk (c.var.extractLsb' 3 2)) (false) (.atand c.d c.a c.b (c.var.extractLsb' 0 3) (c.var.extractLsb' 3 2))
    | 1 => arm c ⟨.rrr, 31, false, false⟩ (!sizeOk (c.var.extractLsb' 3 2)) (false) (.ator c.d c.a c.b (c.var.extractLsb' 0 3) (c.var.extractLsb' 3 2))
    | 2 => arm c ⟨.rrr, 31, false, false⟩ (!sizeOk (c.var.extractLsb' 3 2)) (false) (.atmin c.d c.a c.b (c.var.extractLsb' 0 3) (c.var.extractLsb' 3 2))
    | 3 => arm c ⟨.rrr, 31, false, false⟩ (!sizeOk (c.var.extractLsb' 3 2)) (false) (.amaxm c.d c.a c.b (c.var.extractLsb' 0 3) (c.var.extractLsb' 3 2))
    | _ => c.bad 4
  | 4 =>
    match c.fn.toNat with
    | 0 => arm c ⟨.rrr, 8, false, false⟩ (false) (false) (.ipost c.d c.a c.b (c.varBit 3))
    | 1 => arm c ⟨.rrr, 0, false, false⟩ (false) (false) (.iwait c.d c.a c.b)
    | 2 => arm c ⟨.rrr, 15, false, false⟩ (false) (false) (.post c.d c.a c.b (c.var.extractLsb' 0 3) (c.varBit 3))
    | 3 => arm c ⟨.rrr, 15, false, false⟩ (false) (false) (.pwait c.d c.a c.b (c.var.extractLsb' 0 3) (c.varBit 3))
    | _ => c.bad 4
  | 5 => arm c ⟨.rri, 0, false, false⟩ (false) (c.d != 0 || c.a != 0) .swait
  | 6 =>
    match c.fn.toNat with
    | 0 => arm c ⟨.rrr, 15, false, false⟩ (false) (false) (.waitt c.d c.a c.b (c.var.extractLsb' 0 3) (c.varBit 3))
    | _ => c.bad 4
  | 7 =>
    match c.fn.toNat with
    | 0 => arm c ⟨.rrr, 7, false, false⟩ (false) (false) (.tcwait c.d c.a c.b (c.var.extractLsb' 0 3))
    | 1 => arm c ⟨.rrr, 7, false, false⟩ (false) (false) (.tcdone c.d c.a c.b (c.var.extractLsb' 0 3))
    | 2 => arm c ⟨.rrr, 7, false, false⟩ (false) (false) (.tkget c.d c.a c.b (c.var.extractLsb' 0 3))
    | _ => c.bad 4
  | 8 =>
    match c.fn.toNat with
    | 0 => arm c ⟨.rrr, 0, false, false⟩ (false) (false) (.penq c.d c.a c.b)
    | _ => c.bad 4
  | 9 => arm c ⟨.ri8, 0, false, false⟩ (c.rdh != 0) (decide (256 ≤ c.immNat .ri8)) (.fence c.rd3 (BitVec.ofNat 8 (c.immNat .ri8)))
  | 10 => arm c ⟨.ri8, 0, false, false⟩ (c.rdh != 0) (decide (256 ≤ c.immNat .ri8)) (.fencex c.rd3 (BitVec.ofNat 8 (c.immNat .ri8)))
  | 11 =>
    match c.fn.toNat with
    | 0 => arm c ⟨.rrr, 0, false, false⟩ (false) (false) (.bopen c.d c.a c.b)
    | 1 => arm c ⟨.rrr, 0, false, false⟩ (false) (c.a != 0 || c.b != 0) (.bcommit c.d)
    | 2 => arm c ⟨.rrr, 0, false, false⟩ (false) (c.b != 0) (.bsnap c.d c.a)
    | 3 => arm c ⟨.rrr, 0, false, false⟩ (false) (c.a != 0 || c.b != 0) (.bend c.d)
    | _ => c.bad 4
  | 12 =>
    match c.fn.toNat with
    | 0 => arm c ⟨.rrr, 0, false, false⟩ (false) (c.b != 0) (.breclaim c.d c.a)
    | _ => c.bad 4
  | 13 =>
    match (c.var.extractLsb' 3 2).toNat with
    | 0 => arm c ⟨.rri, 31, false, false⟩ (false) (false) (.lda c.d c.a (c.simm .rri) (c.var.extractLsb' 0 3))
    | 1 => arm c ⟨.rri, 31, false, false⟩ (false) (false) (.ldaw c.d c.a (c.simm .rri) (c.var.extractLsb' 0 3))
    | 2 => arm c ⟨.rri, 31, false, false⟩ (false) (false) (.ldah c.d c.a (c.simm .rri) (c.var.extractLsb' 0 3))
    | 3 => arm c ⟨.rri, 31, false, false⟩ (false) (false) (.ldab c.d c.a (c.simm .rri) (c.var.extractLsb' 0 3))
    | _ => c.bad 4
  | 14 =>
    match (c.var.extractLsb' 3 2).toNat with
    | 0 => arm c ⟨.rri, 31, false, false⟩ (false) (false) (.stl c.d c.a (c.simm .rri) (c.var.extractLsb' 0 3))
    | 1 => arm c ⟨.rri, 31, false, false⟩ (false) (false) (.stlw c.d c.a (c.simm .rri) (c.var.extractLsb' 0 3))
    | 2 => arm c ⟨.rri, 31, false, false⟩ (false) (false) (.stlh c.d c.a (c.simm .rri) (c.var.extractLsb' 0 3))
    | 3 => arm c ⟨.rri, 31, false, false⟩ (false) (false) (.stlb c.d c.a (c.simm .rri) (c.var.extractLsb' 0 3))
    | _ => c.bad 4
  | _ => c.bad 4

/-- The forms of page 5 (R124), after the checks that R113 makes on their fields. -/
def buildPage5 (c : Chain) : Except DecodeError Instr :=
  match c.major.toNat with
  | 0 =>
    match c.fn.toNat with
    | 0 => arm c ⟨.rrr, 0, true, false⟩ (false) (c.rdh != 0) (.cpbatch c.rd3 c.a c.b c.msel)
    | _ => c.bad 4
  | 1 =>
    match c.fn.toNat with
    | 0 => arm c ⟨.rrr, 0, false, false⟩ (false) (c.b != 0) (.cpsleep c.d c.a)
    | 1 => arm c ⟨.rrr, 0, false, false⟩ (false) (c.b != 0) (.cpwait c.d c.a)
    | _ => c.bad 4
  | 2 =>
    match c.fn.toNat with
    | 0 => arm c ⟨.rrr, 0, true, false⟩ (false) (false) (.hsgath c.d c.a c.b c.msel)
    | _ => c.bad 4
  | 3 =>
    match c.fn.toNat with
    | 0 => arm c ⟨.rrr, 0, false, false⟩ (false) (false) (.clred c.d c.a c.b)
    | 1 => arm c ⟨.rrr, 0, false, false⟩ (false) (false) (.clbcast c.d c.a c.b)
    | 2 => arm c ⟨.rrr, 0, false, false⟩ (false) (false) (.clgather c.d c.a c.b)
    | 3 => arm c ⟨.rrr, 0, false, false⟩ (false) (c.b != 0) (.clwait c.d c.a)
    | _ => c.bad 4
  | 4 =>
    match c.fn.toNat with
    | 0 => arm c ⟨.rrr, 0, false, false⟩ (false) (false) (.mxreq c.d c.a c.b)
    | 1 => arm c ⟨.rrr, 0, false, false⟩ (false) (c.b != 0) (.mxrwait c.d c.a)
    | _ => c.bad 4
  | _ => c.bad 4

/-- The forms of page 6 (R125), after the checks that R113 makes on their fields. -/
def buildPage6 (c : Chain) : Except DecodeError Instr :=
  match c.major.toNat with
  | 0 => arm c ⟨.ri8, 0, false, false⟩ (false) (decide (256 ≤ c.immNat .ri8)) (.mxset c.d (BitVec.ofNat 8 (c.immNat .ri8)))
  | 1 => arm c ⟨.ri8, 0, false, false⟩ (false) (decide (256 ≤ c.immNat .ri8)) (.mxget c.d (BitVec.ofNat 8 (c.immNat .ri8)))
  | 2 =>
    match c.fn.toNat with
    | 0 => arm c ⟨.rrr, 0, false, false⟩ (false) (false) (.mxgo c.d c.a c.b)
    | 1 => arm c ⟨.rrr, 0, false, false⟩ (false) (c.b != 0) (.mxsync c.d c.a)
    | _ => c.bad 4
  | 3 =>
    match c.fn.toNat with
    | 0 => arm c ⟨.rrr, 0, false, false⟩ (false) (c.rdh != 0) (.mxcvt c.rd3 c.a c.b)
    | _ => c.bad 4
  | 4 =>
    match c.fn.toNat with
    | 0 => arm c ⟨.rrr, 0, false, false⟩ (false) (c.b != 0) (.mxamax c.d c.a)
    | _ => c.bad 4
  | 5 =>
    match c.fn.toNat with
    | 0 => arm c ⟨.rrr, 0, false, false⟩ (false) (c.b != 0 || c.rdh != 0) (.zld c.rd3 c.a)
    | 1 => arm c ⟨.rrr, 0, false, false⟩ (false) (c.b != 0 || c.rdh != 0) (.zst c.rd3 c.a)
    | 2 => arm c ⟨.rrr, 0, false, false⟩ (false) (c.rdh != 0) (.zzero c.rd3 c.a c.b)
    | _ => c.bad 4
  | 6 =>
    match c.fn.toNat with
    | 0 => arm c ⟨.rrr, 0, false, false⟩ (false) (false) (.mxtake c.d c.a c.b)
    | 1 => arm c ⟨.rrr, 0, false, false⟩ (false) (false) (.mxreply c.d c.a c.b)
    | _ => c.bad 4
  | _ => c.bad 4

/-- The forms of page 7 (R126), after the checks that R113 makes on their fields. -/
def buildPage7 (c : Chain) : Except DecodeError Instr :=
  match c.major.toNat with
  | 0 =>
    match c.fn.toNat with
    | 0 => arm c ⟨.rrr, 0, false, false⟩ (false) (false) (.ctxrd c.d c.a c.b)
    | 1 => arm c ⟨.rrr, 0, false, false⟩ (false) (false) (.ctxwr c.d c.a c.b)
    | 2 => arm c ⟨.rrr, 0, false, false⟩ (false) (false) (.ctxstat c.d c.a c.b)
    | _ => c.bad 4
  | 1 =>
    match c.fn.toNat with
    | 0 => arm c ⟨.rrr, 0, false, false⟩ (false) (c.d != 0) (.preempt c.a c.b)
    | 1 => arm c ⟨.rrr, 0, false, false⟩ (false) (c.d != 0) (.resume c.a c.b)
    | 2 => arm c ⟨.rrr, 0, false, false⟩ (false) (c.d != 0) (.thaw c.a c.b)
    | 3 => arm c ⟨.rrr, 0, false, false⟩ (false) (c.d != 0) (.kill c.a c.b)
    | _ => c.bad 4
  | 2 =>
    match c.fn.toNat with
    | 0 => arm c ⟨.rrr, 0, false, false⟩ (false) (false) (.ctxsave c.d c.a c.b)
    | 1 => arm c ⟨.rrr, 0, false, false⟩ (false) (false) (.ctxrest c.d c.a c.b)
    | _ => c.bad 4
  | 3 =>
    match c.fn.toNat with
    | 0 => arm c ⟨.rrr, 0, false, false⟩ (false) (c.b != 0) (.fbpop c.d c.a)
    | 1 => arm c ⟨.rrr, 0, false, false⟩ (false) (c.b != 0) (.fbstat c.d c.a)
    | _ => c.bad 4
  | 4 =>
    match c.fn.toNat with
    | 0 => arm c ⟨.rrr, 0, false, false⟩ (false) (c.d != 0) (.plbinv c.a c.b)
    | 1 => arm c ⟨.rrr, 0, false, false⟩ (false) (c.d != 0) (.tlbinv c.a c.b)
    | _ => c.bad 4
  | 5 =>
    match c.fn.toNat with
    | 0 => arm c ⟨.rrr, 0, false, false⟩ (false) (c.d != 0) (.irqraise c.a c.b)
    | _ => c.bad 4
  | 6 =>
    match c.fn.toNat with
    | 0 => arm c ⟨.rrr, 0, false, false⟩ (false) (c.d != 0) (.pwrset c.a c.b)
    | _ => c.bad 4
  | 7 =>
    match c.fn.toNat with
    | 0 => arm c ⟨.rrr, 0, false, false⟩ (false) (false) (.activate c.d c.a c.b)
    | _ => c.bad 4
  | _ => c.bad 4

/-- The instruction of a chain by its page (R118). -/
def build (c : Chain) : Except DecodeError Instr :=
  match c.page.toNat with
  | 0 => buildPage0 c
  | 1 => buildPage1 c
  | 2 => buildPage2 c
  | 3 => buildPage3 c
  | 4 => buildPage4 c
  | 5 => buildPage5 c
  | 6 => buildPage6 c
  | 7 => buildPage7 c
  | _ => c.bad 3

/-- The operand that a form leaves to the latch (`Operand`): the immediate of the forms that have no other operand. -/
def opdOf (c : Chain) (i : Instr) : Operand :=
  match i with
  | .j => .imm (c.simm .j11)
  | .call => .imm (c.simm .j11)
  | .trap => .imm (c.uimm .ri8)
  | .brk => .imm (c.uimm .ri8)
  | .swait => .imm (c.uimm .rri)
  | _ => .none

/-- The immediate in an operand. -/
def Operand.word (o : Operand) : Word :=
  match o with
  | .imm v => v
  | _ => 0

/-- `Decode` (R113) on the halfwords at an address, but for the permission of the context's kind, which the machine checks. -/
def decode (ws : List Half) : Except DecodeError Decoded :=
  match parse ws with
  | .error e => .error e
  | .ok c =>
    match build c with
    | .error e => .error e
    | .ok i => .ok { instr := i, opd := opdOf c i, stall := c.stall, lk := c.lk, nt := c.nt, n := c.n }

/-- The number of a `VSrc` register. -/
def VSrc.num (b : VSrc) : BitVec 5 :=
  match b with
  | .v r => r
  | .x r => r

/-- Bit `i` of `VAR`, set where the operand names an `x` register. -/
def VSrc.bit (i : Nat) (b : VSrc) : BitVec 5 :=
  match b with
  | .v _ => 0
  | .x _ => BitVec.ofNat 5 (2 ^ i)

/-- Three low bits in a field of five. -/
def lo3 (v : BitVec 3) : BitVec 5 := v.setWidth 5
/-- `VAR`[4:2]. -/
def up2 (v : BitVec 3) : BitVec 5 := v ++ (0 : BitVec 2)
/-- `VAR`[4:3]. -/
def up3 (v : BitVec 2) : BitVec 5 := v ++ (0 : BitVec 3)
/-- Bit `i` of `VAR`. -/
def flag (i : Nat) (v : Bool) : BitVec 5 := if v then BitVec.ofNat 5 (2 ^ i) else 0

/-- A chain of an `RRR` form. -/
def Chain.ofRrr (page : BitVec 4) (major var d a b : BitVec 5) (fn : BitVec 2) (msel : BitVec 3) (bj : Bool) : Chain :=
  { page := page, var := var, rdh := d.extractLsb' 3 2, rah := a.extractLsb' 3 2, rbh := b.extractLsb' 3 2, msel := msel,
    stall := 0, bj := bj, lk := false, nt := false, is := [], major := major, rd3 := d.extractLsb' 0 3, ra3 := a.extractLsb' 0 3,
    rb3 := b.extractLsb' 0 3, fn := fn, n := 0 }

/-- A chain of an `RRI` form. -/
def Chain.ofRri (page : BitVec 4) (major var d a : BitVec 5) (signed : Bool) (imm : Word) (msel : BitVec 3) (bj : Bool) :
    Chain :=
  { page := page, var := var, rdh := d.extractLsb' 3 2, rah := a.extractLsb' 3 2, rbh := 0, msel := msel,
    stall := 0, bj := bj, lk := false, nt := false, is := (immSplit signed 5 imm).1, major := major,
    rd3 := d.extractLsb' 0 3, ra3 := a.extractLsb' 0 3, rb3 := BitVec.ofNat 3 ((immSplit signed 5 imm).2 / 4),
    fn := BitVec.ofNat 2 (immSplit signed 5 imm).2, n := 0 }

/-- A chain of an `RI8` form. -/
def Chain.ofRi8 (page : BitVec 4) (major var d : BitVec 5) (signed : Bool) (imm : Word) : Chain :=
  { page := page, var := var, rdh := d.extractLsb' 3 2, rah := 0, rbh := 0, msel := 0,
    stall := 0, bj := false, lk := false, nt := false, is := (immSplit signed 8 imm).1, major := major,
    rd3 := d.extractLsb' 0 3, ra3 := BitVec.ofNat 3 ((immSplit signed 8 imm).2 / 32),
    rb3 := BitVec.ofNat 3 ((immSplit signed 8 imm).2 / 4), fn := BitVec.ofNat 2 (immSplit signed 8 imm).2, n := 0 }

/-- A chain of a `J11` form. -/
def Chain.ofJ11 (page : BitVec 4) (major : BitVec 5) (signed : Bool) (imm : Word) : Chain :=
  { page := page, var := 0, rdh := 0, rah := 0, rbh := 0, msel := 0,
    stall := 0, bj := false, lk := false, nt := false, is := (immSplit signed 11 imm).1, major := major,
    rd3 := BitVec.ofNat 3 ((immSplit signed 11 imm).2 / 256), ra3 := BitVec.ofNat 3 ((immSplit signed 11 imm).2 / 32),
    rb3 := BitVec.ofNat 3 ((immSplit signed 11 imm).2 / 4), fn := BitVec.ofNat 2 (immSplit signed 11 imm).2, n := 0 }

/-- The chain of an encoded instruction without stall count or hints; `none` for a step that has no encoding. The
immediate of `J`, `CALL`, `TRAP`, `BRK` and `SWAIT` is that of the operand `o`. Branch
immediates are counted in halfwords from the base word (R116), as the base word holds them. -/
def chainOf (i : Instr) (o : Operand) : Option Chain :=
  match i with
  | .add d a b => some (Chain.ofRrr 0 0 0 d a b 0 0 false)
  | .sub d a b => some (Chain.ofRrr 0 0 0 d a b 1 0 false)
  | .and d a b => some (Chain.ofRrr 0 0 0 d a b 2 0 false)
  | .or d a b => some (Chain.ofRrr 0 0 0 d a b 3 0 false)
  | .xor d a b => some (Chain.ofRrr 0 1 0 d a b 0 0 false)
  | .slt d a b => some (Chain.ofRrr 0 1 0 d a b 1 0 false)
  | .sltu d a b => some (Chain.ofRrr 0 1 0 d a b 2 0 false)
  | .seq d a b => some (Chain.ofRrr 0 1 0 d a b 3 0 false)
  | .sll d a b => some (Chain.ofRrr 0 2 0 d a b 0 0 false)
  | .srl d a b => some (Chain.ofRrr 0 2 0 d a b 1 0 false)
  | .sra d a b => some (Chain.ofRrr 0 2 0 d a b 2 0 false)
  | .ror d a b => some (Chain.ofRrr 0 2 0 d a b 3 0 false)
  | .mul d a b => some (Chain.ofRrr 0 3 0 d a b 0 0 false)
  | .mhigh d a b => some (Chain.ofRrr 0 3 0 d a b 1 0 false)
  | .mhighu d a b => some (Chain.ofRrr 0 3 0 d a b 2 0 false)
  | .mhighx d a b => some (Chain.ofRrr 0 3 0 d a b 3 0 false)
  | .div d a b => some (Chain.ofRrr 0 4 0 d a b 0 0 false)
  | .divu d a b => some (Chain.ofRrr 0 4 0 d a b 1 0 false)
  | .rem d a b => some (Chain.ofRrr 0 4 0 d a b 2 0 false)
  | .remu d a b => some (Chain.ofRrr 0 4 0 d a b 3 0 false)
  | .clz d a => some (Chain.ofRrr 0 5 0 d a 0 0 0 false)
  | .ctz d a => some (Chain.ofRrr 0 5 0 d a 0 1 0 false)
  | .popc d a => some (Chain.ofRrr 0 5 0 d a 0 2 0 false)
  | .brev d a => some (Chain.ofRrr 0 5 0 d a 0 3 0 false)
  | .sextb d a => some (Chain.ofRrr 0 6 0 d a 0 0 0 false)
  | .sexth d a => some (Chain.ofRrr 0 6 0 d a 0 1 0 false)
  | .sextw d a => some (Chain.ofRrr 0 6 0 d a 0 2 0 false)
  | .zextw d a => some (Chain.ofRrr 0 6 0 d a 0 3 0 false)
  | .addi d a imm => some (Chain.ofRri 0 7 0 d a true imm 0 false)
  | .andi d a imm => some (Chain.ofRri 0 8 0 d a true imm 0 false)
  | .ori d a imm => some (Chain.ofRri 0 9 0 d a false imm 0 false)
  | .xori d a imm => some (Chain.ofRri 0 10 0 d a false imm 0 false)
  | .slti d a imm => some (Chain.ofRri 0 11 0 d a true imm 0 false)
  | .slli d a n => some (Chain.ofRri 0 12 0 d a false (n.setWidth 64) 0 false)
  | .srli d a n => some (Chain.ofRri 0 13 0 d a false (n.setWidth 64) 0 false)
  | .srai d a n => some (Chain.ofRri 0 14 0 d a false (n.setWidth 64) 0 false)
  | .li d imm => some (Chain.ofRi8 0 15 0 d true imm)
  | .lis d imm => some (Chain.ofRi8 0 16 0 d false (imm.setWidth 64))
  | .lea d a b sc => some (Chain.ofRrr 0 17 0 d a b sc 0 false)
  | .ld d a imm => some (Chain.ofRri 0 18 0 d a true imm 0 false)
  | .lw d a imm => some (Chain.ofRri 0 18 1 d a true imm 0 false)
  | .lwu d a imm => some (Chain.ofRri 0 18 2 d a true imm 0 false)
  | .lh d a imm => some (Chain.ofRri 0 18 3 d a true imm 0 false)
  | .lhu d a imm => some (Chain.ofRri 0 18 4 d a true imm 0 false)
  | .lb d a imm => some (Chain.ofRri 0 18 5 d a true imm 0 false)
  | .lbu d a imm => some (Chain.ofRri 0 18 6 d a true imm 0 false)
  | .lq d a imm => some (Chain.ofRri 0 18 7 d a true imm 0 false)
  | .sd d a imm bj => some (Chain.ofRri 0 19 0 d a true imm 0 bj)
  | .sw d a imm bj => some (Chain.ofRri 0 19 1 d a true imm 0 bj)
  | .sh d a imm bj => some (Chain.ofRri 0 19 2 d a true imm 0 bj)
  | .sb d a imm bj => some (Chain.ofRri 0 19 3 d a true imm 0 bj)
  | .sq d a imm bj => some (Chain.ofRri 0 19 4 d a true imm 0 bj)
  | .beqz d imm => some (Chain.ofRi8 0 20 0 d true imm)
  | .bnez d imm => some (Chain.ofRi8 0 21 0 d true imm)
  | .bltz d imm => some (Chain.ofRi8 0 22 0 d true imm)
  | .bgez d imm => some (Chain.ofRi8 0 23 0 d true imm)
  | .j => some (Chain.ofJ11 0 24 true o.word)
  | .call => some (Chain.ofJ11 0 25 true o.word)
  | .jr a => some (Chain.ofRrr 0 26 0 0 a 0 0 0 false)
  | .callr a => some (Chain.ofRrr 0 26 0 0 a 0 1 0 false)
  | .ret => some (Chain.ofRrr 0 26 0 0 0 0 2 0 false)
  | .endFiring => some (Chain.ofRrr 0 26 0 0 0 0 3 0 false)
  | .srd d n => some (Chain.ofRi8 0 27 0 d false (n.setWidth 64))
  | .swr d n => some (Chain.ofRi8 0 28 0 d false (n.setWidth 64))
  | .trap => some (Chain.ofRi8 0 29 0 0 false o.word)
  | .brk => some (Chain.ofRi8 0 29 0 1 false o.word)
  | .vcfg d a b => some (Chain.ofRrr 1 0 0 d a b 0 0 false)
  | .vcfgw a => some (Chain.ofRrr 1 0 0 0 a 0 1 0 false)
  | .vcfgs d a b => some (Chain.ofRrr 1 0 0 d a b 2 0 false)
  | .vcfgi d a imm => some (Chain.ofRri 1 1 0 d a false imm 0 false)
  | .vadd d a b k => some (Chain.ofRrr 1 2 ((b.bit 0)) d a b.num 0 k false)
  | .vsub d a b k => some (Chain.ofRrr 1 2 ((b.bit 0)) d a b.num 1 k false)
  | .vmul d a b k => some (Chain.ofRrr 1 2 ((b.bit 0)) d a b.num 2 k false)
  | .vmhigh d a b k => some (Chain.ofRrr 1 2 ((b.bit 0)) d a b.num 3 k false)
  | .vand d a b k => some (Chain.ofRrr 1 3 ((b.bit 0)) d a b.num 0 k false)
  | .vor d a b k => some (Chain.ofRrr 1 3 ((b.bit 0)) d a b.num 1 k false)
  | .vxor d a b k => some (Chain.ofRrr 1 3 ((b.bit 0)) d a b.num 2 k false)
  | .vandn d a b k => some (Chain.ofRrr 1 3 ((b.bit 0)) d a b.num 3 k false)
  | .vsll d a b k => some (Chain.ofRrr 1 4 ((b.bit 0)) d a b.num 0 k false)
  | .vsrl d a b k => some (Chain.ofRrr 1 4 ((b.bit 0)) d a b.num 1 k false)
  | .vsra d a b k => some (Chain.ofRrr 1 4 ((b.bit 0)) d a b.num 2 k false)
  | .vror d a b k => some (Chain.ofRrr 1 4 ((b.bit 0)) d a b.num 3 k false)
  | .vmin d a b k => some (Chain.ofRrr 1 5 ((b.bit 0)) d a b.num 0 k false)
  | .vmax d a b k => some (Chain.ofRrr 1 5 ((b.bit 0)) d a b.num 1 k false)
  | .vminu d a b k => some (Chain.ofRrr 1 5 ((b.bit 0)) d a b.num 2 k false)
  | .vmaxu d a b k => some (Chain.ofRrr 1 5 ((b.bit 0)) d a b.num 3 k false)
  | .vsadd d a b k => some (Chain.ofRrr 1 6 ((b.bit 0)) d a b.num 0 k false)
  | .vssub d a b k => some (Chain.ofRrr 1 6 ((b.bit 0)) d a b.num 1 k false)
  | .vsaddu d a b k => some (Chain.ofRrr 1 6 ((b.bit 0)) d a b.num 2 k false)
  | .vssubu d a b k => some (Chain.ofRrr 1 6 ((b.bit 0)) d a b.num 3 k false)
  | .vdiv d a b k => some (Chain.ofRrr 1 7 ((b.bit 0)) d a b.num 0 k false)
  | .vdivu d a b k => some (Chain.ofRrr 1 7 ((b.bit 0)) d a b.num 1 k false)
  | .vrem d a b k => some (Chain.ofRrr 1 7 ((b.bit 0)) d a b.num 2 k false)
  | .vremu d a b k => some (Chain.ofRrr 1 7 ((b.bit 0)) d a b.num 3 k false)
  | .vfadd d a b k rm => some (Chain.ofRrr 1 8 ((b.bit 0) ||| (up2 rm)) d a b.num 0 k false)
  | .vfsub d a b k rm => some (Chain.ofRrr 1 8 ((b.bit 0) ||| (up2 rm)) d a b.num 1 k false)
  | .vfmul d a b k rm => some (Chain.ofRrr 1 8 ((b.bit 0) ||| (up2 rm)) d a b.num 2 k false)
  | .vfdiv d a b k rm => some (Chain.ofRrr 1 8 ((b.bit 0) ||| (up2 rm)) d a b.num 3 k false)
  | .vfmin d a b k => some (Chain.ofRrr 1 9 ((b.bit 0)) d a b.num 0 k false)
  | .vfmax d a b k => some (Chain.ofRrr 1 9 ((b.bit 0)) d a b.num 1 k false)
  | .vfsqrt d a k rm => some (Chain.ofRrr 1 9 ((up2 rm)) d a 0 2 k false)
  | .vfneg d a k => some (Chain.ofRrr 1 9 0 d a 0 3 k false)
  | .vfma d a b k rm => some (Chain.ofRrr 1 10 ((b.bit 0) ||| (up2 rm)) d a b.num 0 k false)
  | .vfms d a b k rm => some (Chain.ofRrr 1 10 ((b.bit 0) ||| (up2 rm)) d a b.num 1 k false)
  | .vfnma d a b k rm => some (Chain.ofRrr 1 10 ((b.bit 0) ||| (up2 rm)) d a b.num 2 k false)
  | .vfnms d a b k rm => some (Chain.ofRrr 1 10 ((b.bit 0) ||| (up2 rm)) d a b.num 3 k false)
  | .vcvtff d a k rm => some (Chain.ofRrr 1 11 ((up2 rm)) d a 0 0 k false)
  | .vcvtif d a k rm => some (Chain.ofRrr 1 11 ((up2 rm)) d a 0 1 k false)
  | .vcvtfi d a k rm => some (Chain.ofRrr 1 11 ((up2 rm)) d a 0 2 k false)
  | .vcvtii d a k => some (Chain.ofRrr 1 11 0 d a 0 3 k false)
  | .vwadd d a b k fp rm => some (Chain.ofRrr 1 12 ((b.bit 0) ||| (flag 1 fp) ||| (up2 rm)) d a b.num 0 k false)
  | .vwmul d a b k fp rm => some (Chain.ofRrr 1 12 ((b.bit 0) ||| (flag 1 fp) ||| (up2 rm)) d a b.num 1 k false)
  | .vwmacc d a b k fp rm => some (Chain.ofRrr 1 12 ((b.bit 0) ||| (flag 1 fp) ||| (up2 rm)) d a b.num 2 k false)
  | .vdot d a b k fp rm => some (Chain.ofRrr 1 12 ((b.bit 0) ||| (flag 1 fp) ||| (up2 rm)) d a b.num 3 k false)
  | .vcmpeq d a b k => some (Chain.ofRrr 1 13 ((b.bit 0)) (lo3 d) a b.num 0 k false)
  | .vcmpne d a b k => some (Chain.ofRrr 1 13 ((b.bit 0)) (lo3 d) a b.num 1 k false)
  | .vcmplt d a b k => some (Chain.ofRrr 1 13 ((b.bit 0)) (lo3 d) a b.num 2 k false)
  | .vcmple d a b k => some (Chain.ofRrr 1 13 ((b.bit 0)) (lo3 d) a b.num 3 k false)
  | .vfcmpeq d a b k => some (Chain.ofRrr 1 14 ((b.bit 0)) (lo3 d) a b.num 0 k false)
  | .vfcmplt d a b k => some (Chain.ofRrr 1 14 ((b.bit 0)) (lo3 d) a b.num 1 k false)
  | .vfcmple d a b k => some (Chain.ofRrr 1 14 ((b.bit 0)) (lo3 d) a b.num 2 k false)
  | .vfcmpun d a b k => some (Chain.ofRrr 1 14 ((b.bit 0)) (lo3 d) a b.num 3 k false)
  | .mand d a b => some (Chain.ofRrr 1 15 0 (lo3 d) (lo3 a) (lo3 b) 0 0 false)
  | .mor d a b => some (Chain.ofRrr 1 15 0 (lo3 d) (lo3 a) (lo3 b) 1 0 false)
  | .mxor d a b => some (Chain.ofRrr 1 15 0 (lo3 d) (lo3 a) (lo3 b) 2 0 false)
  | .mandn d a b => some (Chain.ofRrr 1 15 0 (lo3 d) (lo3 a) (lo3 b) 3 0 false)
  | .vany d a => some (Chain.ofRrr 1 16 0 d (lo3 a) 0 0 0 false)
  | .vnone d a => some (Chain.ofRrr 1 16 0 d (lo3 a) 0 1 0 false)
  | .vmcnt d a => some (Chain.ofRrr 1 16 0 d (lo3 a) 0 2 0 false)
  | .vfind d a => some (Chain.ofRrr 1 16 0 d (lo3 a) 0 3 0 false)
  | .vmv d a b k => some (Chain.ofRrr 1 17 0 d a b 0 k false)
  | .vbcast d a k => some (Chain.ofRrr 1 17 0 d a 0 1 k false)
  | .vgetx d a b k => some (Chain.ofRrr 1 17 0 d a b 2 k false)
  | .vmerge d a b k => some (Chain.ofRrr 1 17 0 d a b 3 k false)
  | .vperm d a b k => some (Chain.ofRrr 1 18 ((b.bit 1)) d a b.num 0 k false)
  | .vshup d a b k => some (Chain.ofRrr 1 18 ((b.bit 1)) d a b.num 1 k false)
  | .vshdn d a b k => some (Chain.ofRrr 1 18 ((b.bit 1)) d a b.num 2 k false)
  | .vpack d a b k => some (Chain.ofRrr 1 18 ((b.bit 1)) d a b.num 3 k false)
  | .vilv d a b k => some (Chain.ofRrr 1 19 0 d a b 0 k false)
  | .vdilv d a b k odd => some (Chain.ofRrr 1 19 ((flag 1 odd)) d a b 1 k false)
  | .vrev d a k => some (Chain.ofRrr 1 19 0 d a 0 2 k false)
  | .vrank d a k incl => some (Chain.ofRrr 1 19 ((flag 1 incl)) d a 0 3 k false)
  | .vredsum d a b k => some (Chain.ofRrr 1 20 0 d a b 0 k false)
  | .vredmin d a b k => some (Chain.ofRrr 1 20 0 d a b 1 k false)
  | .vredmax d a b k => some (Chain.ofRrr 1 20 0 d a b 2 k false)
  | .vfredsum d a b k rm => some (Chain.ofRrr 1 20 ((up2 rm)) d a b 3 k false)
  | .vfredmin d a b k => some (Chain.ofRrr 1 21 0 d a b 0 k false)
  | .vfredmax d a b k => some (Chain.ofRrr 1 21 0 d a b 1 k false)
  | .vredand d a b k => some (Chain.ofRrr 1 21 0 d a b 2 k false)
  | .vredor d a b k => some (Chain.ofRrr 1 21 0 d a b 3 k false)
  | .vaddi d a imm k => some (Chain.ofRri 1 22 0 d a true imm k false)
  | .vld d a imm k => some (Chain.ofRri 2 0 0 d a true imm k false)
  | .vst d a imm k bj => some (Chain.ofRri 2 1 0 d a true imm k bj)
  | .vlds d a b k => some (Chain.ofRrr 2 2 0 d a b 0 k false)
  | .vsts d a b k bj => some (Chain.ofRrr 2 2 0 d a b 1 k bj)
  | .vldx d a b k => some (Chain.ofRrr 2 3 0 d a b 0 k false)
  | .vstx d a b k bj => some (Chain.ofRrr 2 3 0 d a b 1 k bj)
  | .vldb d a b k => some (Chain.ofRrr 2 4 0 d a b 0 k false)
  | .vstb d a b k bj => some (Chain.ofRrr 2 4 0 d a b 1 k bj)
  | .vstmc d a b k => some (Chain.ofRrr 2 5 0 d a b 0 k false)
  | .vstred d a b k op => some (Chain.ofRrr 2 5 ((lo3 op)) d a b 1 k false)
  | .vldff d a imm k => some (Chain.ofRri 2 6 0 d a true imm k false)
  | .vpref a imm => some (Chain.ofRri 2 7 0 0 a true imm 0 false)
  | .vedge d a b k => some (Chain.ofRrr 3 0 0 d a b 0 k false)
  | .vedgetl d a b k => some (Chain.ofRrr 3 0 0 d a b 1 k false)
  | .vcover d a b k => some (Chain.ofRrr 3 0 0 d a b 2 k false)
  | .vbary d a b k => some (Chain.ofRrr 3 1 0 d a b 0 k false)
  | .vbaryp d a b k => some (Chain.ofRrr 3 1 0 d a b 1 k false)
  | .boxt d a b k => some (Chain.ofRrr 3 2 0 d a b 0 k false)
  | .trit d a b k => some (Chain.ofRrr 3 3 0 d a b 0 k false)
  | .callst d a b => some (Chain.ofRrr 3 4 0 d a b 0 0 false)
  | .texadr d a b k => some (Chain.ofRrr 3 5 0 d a b 0 k false)
  | .texld d a b k => some (Chain.ofRrr 3 5 0 d a b 1 k false)
  | .texbil d a b k => some (Chain.ofRrr 3 5 0 d a b 2 k false)
  | .textri d a b k => some (Chain.ofRrr 3 5 0 d a b 3 k false)
  | .send d a b => some (Chain.ofRrr 4 0 0 d a b 0 0 false)
  | .reply a b => some (Chain.ofRrr 4 0 0 0 a b 1 0 false)
  | .hret => some (Chain.ofRrr 4 0 0 0 0 0 2 0 false)
  | .migrate d a => some (Chain.ofRrr 4 0 0 d a 0 3 0 false)
  | .fetake d a sc => some (Chain.ofRrr 4 1 ((lo3 sc)) d a 0 0 0 false)
  | .fefill d a b sc => some (Chain.ofRrr 4 1 ((lo3 sc)) d a b 1 0 false)
  | .fepeek d a sc => some (Chain.ofRrr 4 1 ((lo3 sc)) d a 0 2 0 false)
  | .atadd d a b sc sz => some (Chain.ofRrr 4 2 ((lo3 sc) ||| (up3 sz)) d a b 0 0 false)
  | .atswap d a b sc sz => some (Chain.ofRrr 4 2 ((lo3 sc) ||| (up3 sz)) d a b 1 0 false)
  | .atcas d a b sc sz => some (Chain.ofRrr 4 2 ((lo3 sc) ||| (up3 sz)) d a b 2 0 false)
  | .atmax d a b sc sz => some (Chain.ofRrr 4 2 ((lo3 sc) ||| (up3 sz)) d a b 3 0 false)
  | .atand d a b sc sz => some (Chain.ofRrr 4 3 ((lo3 sc) ||| (up3 sz)) d a b 0 0 false)
  | .ator d a b sc sz => some (Chain.ofRrr 4 3 ((lo3 sc) ||| (up3 sz)) d a b 1 0 false)
  | .atmin d a b sc sz => some (Chain.ofRrr 4 3 ((lo3 sc) ||| (up3 sz)) d a b 2 0 false)
  | .amaxm d a b sc sz => some (Chain.ofRrr 4 3 ((lo3 sc) ||| (up3 sz)) d a b 3 0 false)
  | .ipost d a b rst => some (Chain.ofRrr 4 4 ((flag 3 rst)) d a b 0 0 false)
  | .iwait d a b => some (Chain.ofRrr 4 4 0 d a b 1 0 false)
  | .post d a b sc sp => some (Chain.ofRrr 4 4 ((lo3 sc) ||| (flag 3 sp)) d a b 2 0 false)
  | .pwait d a b sc sp => some (Chain.ofRrr 4 4 ((lo3 sc) ||| (flag 3 sp)) d a b 3 0 false)
  | .swait => some (Chain.ofRri 4 5 0 0 0 false o.word 0 false)
  | .waitt d a b sc sp => some (Chain.ofRrr 4 6 ((lo3 sc) ||| (flag 3 sp)) d a b 0 0 false)
  | .tcwait d a b sc => some (Chain.ofRrr 4 7 ((lo3 sc)) d a b 0 0 false)
  | .tcdone d a b sc => some (Chain.ofRrr 4 7 ((lo3 sc)) d a b 1 0 false)
  | .tkget d a b sc => some (Chain.ofRrr 4 7 ((lo3 sc)) d a b 2 0 false)
  | .penq d a b => some (Chain.ofRrr 4 8 0 d a b 0 0 false)
  | .fence sc n => some (Chain.ofRi8 4 9 0 (lo3 sc) false (n.setWidth 64))
  | .fencex sc n => some (Chain.ofRi8 4 10 0 (lo3 sc) false (n.setWidth 64))
  | .bopen d a b => some (Chain.ofRrr 4 11 0 d a b 0 0 false)
  | .bcommit d => some (Chain.ofRrr 4 11 0 d 0 0 1 0 false)
  | .bsnap d a => some (Chain.ofRrr 4 11 0 d a 0 2 0 false)
  | .bend d => some (Chain.ofRrr 4 11 0 d 0 0 3 0 false)
  | .breclaim d a => some (Chain.ofRrr 4 12 0 d a 0 0 0 false)
  | .lda d a imm sc => some (Chain.ofRri 4 13 ((lo3 sc) ||| (up3 0)) d a true imm 0 false)
  | .ldaw d a imm sc => some (Chain.ofRri 4 13 ((lo3 sc) ||| (up3 1)) d a true imm 0 false)
  | .ldah d a imm sc => some (Chain.ofRri 4 13 ((lo3 sc) ||| (up3 2)) d a true imm 0 false)
  | .ldab d a imm sc => some (Chain.ofRri 4 13 ((lo3 sc) ||| (up3 3)) d a true imm 0 false)
  | .stl d a imm sc => some (Chain.ofRri 4 14 ((lo3 sc) ||| (up3 0)) d a true imm 0 false)
  | .stlw d a imm sc => some (Chain.ofRri 4 14 ((lo3 sc) ||| (up3 1)) d a true imm 0 false)
  | .stlh d a imm sc => some (Chain.ofRri 4 14 ((lo3 sc) ||| (up3 2)) d a true imm 0 false)
  | .stlb d a imm sc => some (Chain.ofRri 4 14 ((lo3 sc) ||| (up3 3)) d a true imm 0 false)
  | .cpbatch d a b k => some (Chain.ofRrr 5 0 0 (lo3 d) a b 0 k false)
  | .cpsleep d a => some (Chain.ofRrr 5 1 0 d a 0 0 0 false)
  | .cpwait d a => some (Chain.ofRrr 5 1 0 d a 0 1 0 false)
  | .hsgath d a b k => some (Chain.ofRrr 5 2 0 d a b 0 k false)
  | .clred d a b => some (Chain.ofRrr 5 3 0 d a b 0 0 false)
  | .clbcast d a b => some (Chain.ofRrr 5 3 0 d a b 1 0 false)
  | .clgather d a b => some (Chain.ofRrr 5 3 0 d a b 2 0 false)
  | .clwait d a => some (Chain.ofRrr 5 3 0 d a 0 3 0 false)
  | .mxreq d a b => some (Chain.ofRrr 5 4 0 d a b 0 0 false)
  | .mxrwait d a => some (Chain.ofRrr 5 4 0 d a 0 1 0 false)
  | .mxset d n => some (Chain.ofRi8 6 0 0 d false (n.setWidth 64))
  | .mxget d n => some (Chain.ofRi8 6 1 0 d false (n.setWidth 64))
  | .mxgo d a b => some (Chain.ofRrr 6 2 0 d a b 0 0 false)
  | .mxsync d a => some (Chain.ofRrr 6 2 0 d a 0 1 0 false)
  | .mxcvt z a b => some (Chain.ofRrr 6 3 0 (lo3 z) a b 0 0 false)
  | .mxamax d a => some (Chain.ofRrr 6 4 0 d a 0 0 0 false)
  | .zld z a => some (Chain.ofRrr 6 5 0 (lo3 z) a 0 0 0 false)
  | .zst z a => some (Chain.ofRrr 6 5 0 (lo3 z) a 0 1 0 false)
  | .zzero z a b => some (Chain.ofRrr 6 5 0 (lo3 z) a b 2 0 false)
  | .mxtake d a b => some (Chain.ofRrr 6 6 0 d a b 0 0 false)
  | .mxreply d a b => some (Chain.ofRrr 6 6 0 d a b 1 0 false)
  | .ctxrd d a b => some (Chain.ofRrr 7 0 0 d a b 0 0 false)
  | .ctxwr d a b => some (Chain.ofRrr 7 0 0 d a b 1 0 false)
  | .ctxstat d a b => some (Chain.ofRrr 7 0 0 d a b 2 0 false)
  | .preempt a b => some (Chain.ofRrr 7 1 0 0 a b 0 0 false)
  | .resume a b => some (Chain.ofRrr 7 1 0 0 a b 1 0 false)
  | .thaw a b => some (Chain.ofRrr 7 1 0 0 a b 2 0 false)
  | .kill a b => some (Chain.ofRrr 7 1 0 0 a b 3 0 false)
  | .ctxsave d a b => some (Chain.ofRrr 7 2 0 d a b 0 0 false)
  | .ctxrest d a b => some (Chain.ofRrr 7 2 0 d a b 1 0 false)
  | .fbpop d a => some (Chain.ofRrr 7 3 0 d a 0 0 0 false)
  | .fbstat d a => some (Chain.ofRrr 7 3 0 d a 0 1 0 false)
  | .plbinv a b => some (Chain.ofRrr 7 4 0 0 a b 0 0 false)
  | .tlbinv a b => some (Chain.ofRrr 7 4 0 0 a b 1 0 false)
  | .irqraise a b => some (Chain.ofRrr 7 5 0 0 a b 0 0 false)
  | .pwrset a b => some (Chain.ofRrr 7 6 0 0 a b 0 0 false)
  | .activate d a b => some (Chain.ofRrr 7 7 0 d a b 0 0 false)
  | .swrFlags => none
  | .swrStrip => none
  | .swrChksb => none
  | .swrLpart => none
  | .lpartTakeEffect => none
  | .swrShare => none
  | .swrLsplit => none
  | .lsplitTakeEffect => none
  | .swrPoolgrp => none
  | .swrTagen => none
  | .swrTagpend => none
  | .swrAgelim => none
  | .firmwareCreditRefill => none
  | .memoryConfirm => none
  | .vqEntryStart => none
  | .barrierNotice => none
  | .waittTimeout => none
  | .promiseMissed => none
  | .gatherPackageReply => none
  | .copyCommandStart => none
  | .copyCommandComplete => none
  | .collectivePerform => none
  | .collectiveEnd => none
  | .wsetWrite => none
  | .fill => none
  | .mma => none
  | .unfold => none
  | .mxOperationEnd => none
  | .saveComplete => none
  | .killComplete => none
  | .faultRecordAccept => none
  | .tailWrite => none
  | .interruptUnmask => none
  | .queueAgeing => none
  | .packetTake => none
  | .chunkDeal => none
  | .gangDeal => none
  | .chunkBind => none
  | .actorFire => none
  | .gangPlace => none
  | .gangReserving => none
  | .firingStart => none
  | .firingRetire => none
  | .packetComplete => none
  | .messageAccept => none
  | .handlerStart => none
  | .migrationArrival => none
  | .migrationBind => none
  | .bundleSlotInstall => none
  | .coherenceRequest => none
  | .recallAcknowledge => none
  | .regionMerge => none
  | .leaseRenewal => none
  | .leaseRelease => none
  | .holderLeaseExpiry => none
  | .switchLeaseExpiry => none
  | .rebuildFlagClear => none
  | .checkpointBoundary => none
  | .switchDieLost => none
  | .peerLost => none
  | .hostSnoop => none
  | .hostMemAccess => none
  | .hostBackInvalidateAnswer => none
  | .hostBar4Access => none
  | .sdrollClearFlag => none
  | .sdrollRollback => none
  | .mgmtevClear => none
  | .mgmtRegisterWrite => none
  | .domainSet => none
  | .windowSet => none
  | .queueEnable => none
  | .queueStop => none
  | .queueStopPreempt => none
  | .queueResume => none
  | .queueClearReread => none
  | .queueClearSkip => none
  | .queueDisable => none
  | .masterThaw => none
  | .masterKill => none
  | .masterKillPacket => none
  | .keepBind => none
  | .domainConfigure => none
  | .firmwareActivate => none
  | .powerCommand => none
  | .unknownOp => none
  | .powerLimiterAction => none
  | .stopWake => none
  | .packageReset => none
  | .linkTraining => none
  | .getVersion => none
  | .getCapabilities => none
  | .negotiateAlgorithms => none
  | .getDigests => none
  | .getCertificate => none
  | .challenge => none
  | .getMeasurements => none
  | .unsupportedRequest => none
  | .vqEntryLeave => none
  | .accessPerformed => none
  | .invalidateComplete => none
  | .linkReplay => none
  | .berperLinkLoss => none

/-- A prefix word (R107). -/
def prefixWord (kind : BitVec 2) (pay : BitVec 9) : Half := (31 : BitVec 5) ++ (kind ++ pay)

/-- The prefix words of a payload that is there only when it is not 0. -/
def prefixIf (kind : BitVec 2) (pay : BitVec 9) : List Half := if pay = 0 then [] else [prefixWord kind pay]

/-- The words of a chain, in the order of R130. -/
def Chain.words (c : Chain) : List Half :=
  prefixIf 2 (c.page ++ c.var) ++
  prefixIf 1 (c.rdh ++ (c.rah ++ (c.rbh ++ c.msel))) ++
  c.is.map (prefixWord 0) ++
  prefixIf 3 (c.stall ++ (BitVec.ofBool c.bj ++ ((0 : BitVec 2) ++ (BitVec.ofBool c.lk ++ BitVec.ofBool c.nt)))) ++
  [c.major ++ (c.rd3 ++ (c.ra3 ++ (c.rb3 ++ c.fn)))]

/-- The chain with the marks of `PFX.W`. -/
def Chain.marked (c : Chain) (stall : BitVec 4) (lk nt : Bool) : Chain := { c with stall := stall, lk := lk, nt := nt }

/-- The words that `lanas` emits for an instruction with a stall count and hints (R130); `none` for a step without an
encoding. -/
def encodeMarked (i : Instr) (o : Operand) (stall : BitVec 4) (lk nt : Bool) : Option (List Half) :=
  (chainOf i o).map (fun c => (c.marked stall lk nt).words)

/-- The words of an instruction without marks. -/
def encode (i : Instr) (o : Operand) : Option (List Half) := encodeMarked i o 0 false false

/-- The halfwords that a row of spec/opcode_table.json gives, in chain order. The table numbers the base word as bits 15:0 and
a prefix as bits 31:16; a prefix stands before its base word (R104). -/
def tableHalves (nbits w : Nat) : List Half :=
  if nbits ≤ 16 then [BitVec.ofNat 16 w]
  else if w % 65536 / 2048 = 31 then [BitVec.ofNat 16 w, BitVec.ofNat 16 (w / 65536)]
  else [BitVec.ofNat 16 (w / 65536), BitVec.ofNat 16 w]

/-- The instruction that the decoder reads from a row's bits. -/
def decodeTableWord (nbits w : Nat) : Option Instr :=
  match decode (tableHalves nbits w) with
  | .ok d => some d.instr
  | .error _ => none

end Sys2Proof
end

