-- ==== Sys2Proof/Machine/Sources.lean ====
section
/-! DEFINITION. The `x` registers that an instruction reads, in the order of its fields: what the checking scoreboard of
spec/03_core.md R98 and R99 tests. -/

namespace Sys2Proof.Machine

/-- The register of a source that may be an `x` register. -/
def srcX (b : VSrc) : List XReg :=
  match b with
  | .v _ => []
  | .x r => [r]

/-- `n` registers from `r` on. -/
def regRun (r : XReg) (n : Nat) : List XReg := (List.range n).map (fun k => r + BitVec.ofNat 5 k)

/-- Payload registers of a header or reply word (R345, R349). -/
def payloadRegs (s : State) (a b : XReg) : List XReg := a :: regRun b (bitsOf (xGet s.me.x a).toNat 8 4)

/-- The `x` registers that an instruction reads. -/
def sourcesOf (s : State) (i : Instr) : List XReg :=
  match i with
  | .add _ a b => [a, b]
  | .sub _ a b => [a, b]
  | .and _ a b => [a, b]
  | .or _ a b => [a, b]
  | .xor _ a b => [a, b]
  | .slt _ a b => [a, b]
  | .sltu _ a b => [a, b]
  | .seq _ a b => [a, b]
  | .sll _ a b => [a, b]
  | .srl _ a b => [a, b]
  | .sra _ a b => [a, b]
  | .ror _ a b => [a, b]
  | .mul _ a b => [a, b]
  | .mhigh _ a b => [a, b]
  | .mhighu _ a b => [a, b]
  | .mhighx _ a b => [a, b]
  | .div _ a b => [a, b]
  | .divu _ a b => [a, b]
  | .rem _ a b => [a, b]
  | .remu _ a b => [a, b]
  | .clz _ a => [a]
  | .ctz _ a => [a]
  | .popc _ a => [a]
  | .brev _ a => [a]
  | .sextb _ a => [a]
  | .sexth _ a => [a]
  | .sextw _ a => [a]
  | .zextw _ a => [a]
  | .addi _ a _ => [a]
  | .andi _ a _ => [a]
  | .ori _ a _ => [a]
  | .xori _ a _ => [a]
  | .slti _ a _ => [a]
  | .slli _ a _ => [a]
  | .srli _ a _ => [a]
  | .srai _ a _ => [a]
  | .lis d _ => [d]
  | .lea _ a b _ => [a, b]
  | .ld _ a _ => [a]
  | .lw _ a _ => [a]
  | .lwu _ a _ => [a]
  | .lh _ a _ => [a]
  | .lhu _ a _ => [a]
  | .lb _ a _ => [a]
  | .lbu _ a _ => [a]
  | .lq _ a _ => [a]
  | .sd d a _ _ => [d, a]
  | .sw d a _ _ => [d, a]
  | .sh d a _ _ => [d, a]
  | .sb d a _ _ => [d, a]
  | .sq d a _ _ => [d, d ||| 1, a]
  | .beqz d _ => [d]
  | .bnez d _ => [d]
  | .bltz d _ => [d]
  | .bgez d _ => [d]
  | .jr a => [a]
  | .callr a => [a]
  | .swr d _ => [d]
  | .vcfg _ a b => [a, b]
  | .vcfgw a => [a]
  | .vcfgs _ a b => [a, b]
  | .vcfgi _ a _ => [a]
  | .vadd _ _ b _ => srcX b
  | .vsub _ _ b _ => srcX b
  | .vmul _ _ b _ => srcX b
  | .vmhigh _ _ b _ => srcX b
  | .vand _ _ b _ => srcX b
  | .vor _ _ b _ => srcX b
  | .vxor _ _ b _ => srcX b
  | .vandn _ _ b _ => srcX b
  | .vsll _ _ b _ => srcX b
  | .vsrl _ _ b _ => srcX b
  | .vsra _ _ b _ => srcX b
  | .vror _ _ b _ => srcX b
  | .vmin _ _ b _ => srcX b
  | .vmax _ _ b _ => srcX b
  | .vminu _ _ b _ => srcX b
  | .vmaxu _ _ b _ => srcX b
  | .vsadd _ _ b _ => srcX b
  | .vssub _ _ b _ => srcX b
  | .vsaddu _ _ b _ => srcX b
  | .vssubu _ _ b _ => srcX b
  | .vdiv _ _ b _ => srcX b
  | .vdivu _ _ b _ => srcX b
  | .vrem _ _ b _ => srcX b
  | .vremu _ _ b _ => srcX b
  | .vfadd _ _ b _ _ => srcX b
  | .vfsub _ _ b _ _ => srcX b
  | .vfmul _ _ b _ _ => srcX b
  | .vfdiv _ _ b _ _ => srcX b
  | .vfmin _ _ b _ => srcX b
  | .vfmax _ _ b _ => srcX b
  | .vfma _ _ b _ _ => srcX b
  | .vfms _ _ b _ _ => srcX b
  | .vfnma _ _ b _ _ => srcX b
  | .vfnms _ _ b _ _ => srcX b
  | .vwadd _ _ b _ _ _ => srcX b
  | .vwmul _ _ b _ _ _ => srcX b
  | .vwmacc _ _ b _ _ _ => srcX b
  | .vdot _ _ b _ _ _ => srcX b
  | .vcmpeq _ _ b _ => srcX b
  | .vcmpne _ _ b _ => srcX b
  | .vcmplt _ _ b _ => srcX b
  | .vcmple _ _ b _ => srcX b
  | .vfcmpeq _ _ b _ => srcX b
  | .vfcmplt _ _ b _ => srcX b
  | .vfcmple _ _ b _ => srcX b
  | .vfcmpun _ _ b _ => srcX b
  | .vbcast _ a _ => [a]
  | .vgetx _ _ b _ => [b]
  | .vperm _ _ b _ => srcX b
  | .vshup _ _ b _ => srcX b
  | .vshdn _ _ b _ => srcX b
  | .vpack _ _ b _ => srcX b
  | .vld _ a _ _ => [a]
  | .vst _ a _ _ _ => [a]
  | .vlds _ a b _ => [a, b]
  | .vsts _ a b _ _ => [a, b]
  | .vldx _ a _ _ => [a]
  | .vstx _ a _ _ _ => [a]
  | .vldb _ a _ _ => [a]
  | .vstb _ a _ _ _ => [a]
  | .vstmc _ a b _ => [a, b]
  | .vstred _ a _ _ _ => [a]
  | .vldff _ a _ _ => [a]
  | .vpref a _ => [a]
  | .callst _ a b => [a, b]
  | .texadr _ a _ _ => [a]
  | .texld _ a _ _ => [a]
  | .texbil _ a _ _ => [a]
  | .textri _ a _ _ => [a]
  | .send _ a b => payloadRegs s a b
  | .reply a b => payloadRegs s a b
  | .migrate _ a => [a]
  | .fetake _ a _ => [a]
  | .fefill _ a b _ => [a, b]
  | .fepeek _ a _ => [a]
  | .atadd _ a b _ _ => [a, b]
  | .atswap _ a b _ _ => [a, b]
  | .atcas d a b _ _ => [d, a, b]
  | .atmax _ a b _ _ => [a, b]
  | .atand _ a b _ _ => [a, b]
  | .ator _ a b _ _ => [a, b]
  | .atmin _ a b _ _ => [a, b]
  | .amaxm _ a b _ _ => [a, b]
  | .ipost _ a b _ => [a, b]
  | .iwait _ a b => [a, b]
  | .post _ a b _ sp => if sp then [a] else [a, b]
  | .pwait _ a b _ sp => if sp then [a] else [a, b]
  | .waitt d a b _ sp => if sp then [a, b] else [d, a, b]
  | .tcwait _ a b _ => [a, b]
  | .tcdone _ a b _ => [a, b]
  | .tkget _ a b _ => [a, b]
  | .penq d a b => [d, a, b]
  | .bopen _ a b => [a, b]
  | .bsnap _ a => [a]
  | .breclaim _ a => [a]
  | .lda _ a _ _ => [a]
  | .ldaw _ a _ _ => [a]
  | .ldah _ a _ _ => [a]
  | .ldab _ a _ _ => [a]
  | .stl d a _ _ => [d, a]
  | .stlw d a _ _ => [d, a]
  | .stlh d a _ _ => [d, a]
  | .stlb d a _ _ => [d, a]
  | .cpbatch _ a _ _ => [a]
  | .cpsleep _ a => [a]
  | .cpwait _ a => [a]
  | .hsgath _ a _ _ => [a]
  | .clred _ a b => [a, b]
  | .clbcast _ a b => [a, b]
  | .clgather _ a b => [a, b]
  | .clwait _ a => [a]
  | .mxreq _ a b => [a, b]
  | .mxrwait _ a => [a]
  | .mxset d _ => [d]
  | .mxgo _ a b => [a, b]
  | .mxsync _ a => [a]
  | .mxcvt _ a b => [a, b]
  | .mxamax _ a => [a]
  | .zld _ a => [a]
  | .zst _ a => [a]
  | .zzero _ a b => [a, b]
  | .mxtake _ a b => [a, b]
  | .mxreply _ a b => [a, b]
  | .ctxrd _ a b => [a, b]
  | .ctxwr d a b => [d, a, b]
  | .ctxstat _ a b => [a, b]
  | .preempt a b => [a, b]
  | .resume a b => [a, b]
  | .thaw a b => [a, b]
  | .kill a b => [a, b]
  | .ctxsave _ a b => [a, b]
  | .ctxrest _ a b => [a, b]
  | .fbpop _ a => [a]
  | .fbstat _ a => [a]
  | .plbinv a b => [a, b]
  | .tlbinv a b => [a, b]
  | .irqraise a b => [a, b]
  | .pwrset a b => [a, b]
  | .activate _ a b => [a, b]
  | _ => []

end Sys2Proof.Machine
end

