-- ==== Sys2Proof/Machine/Fetch.lean ====
section
/-! DEFINITION. Fetching and decoding the next chain of a context, and the checks before it executes
(spec/04_encoding.md R113 to R115, spec/03_core.md R98, R99, spec/06_scalar.md R170). -/

namespace Sys2Proof.Machine

/-- A halfword at a location. -/
def Stores.half (st : Stores) (l : Loc) : Half := BitVec.ofNat 16 (ofBytes (st.get l 2))

/-- The view that covers an address. -/
def FetchView.covers (w : FetchView) (va : Nat) : Bool := decide (w.base ≤ va) && decide (va < w.base + w.size)

/-- A halfword that the context fetches: one that anyone has stored to since the context last fetched nothing ahead there reads
as it was then or as it is, a free choice (R170). -/
def State.fetchedHalf (s : State) (l : Loc) (va : Nat) : Half :=
  match s.me.views.find? (fun w => w.covers va) with
  | some w => if w.st.half l != s.st.half l && Config.pick s.free (16 * va + 4) then w.st.half l else s.st.half l
  | none => s.st.half l

/-- The halfword at a location as the context fetches it: from a `BV` line by `BvRead` (R335, log entry 14). -/
def State.fetchAt (s : State) (l : Loc) (va : Nat) : State × Half :=
  if s.attr va = 3 && s.memHomed va then
    let r := s.bytesOn pCore l va 2
    (r.1, BitVec.ofNat 16 (ofBytes r.2))
  else (s, s.fetchedHalf l va)

/-- Fetching the halfword at an address (R114, R236); a doorbell page holds no instructions (R33). -/
def State.fetchHalf (s : State) (va : Nat) : Except Stop (State × Half) :=
  if s.isDoorbell va then .error (.trap cDbellAccess 0 (BitVec.ofNat 64 va))
  else match orStop cFetchXlate (s.locate s.req rX va) with
  | .error e => .error e
  | .ok (t, l) =>
    match t.claim false va l with
    | .error e => .error e
    | .ok u => .ok (u.fetchAt l va)

/-- Address of word `n` of the chain at the program counter. -/
def State.wordVa (s : State) (n : Nat) : Nat := (s.me.pc + BitVec.ofNat 56 (2 * n)).toNat

/-- `Decode` (R113) at the program counter, reading no word beyond the base word (R114): the words so far, and as many as
`fuel` more. -/
def State.fetchChain (s : State) (ws : List Half) (fuel : Nat) : Except Stop (State × Except DecodeError Decoded) :=
  match decode ws with
  | .error (.needMore n) =>
    match fuel with
    | 0 => .ok (s, .error (.needMore n))
    | k + 1 =>
      match s.fetchHalf (s.wordVa n) with
      | .error e => .error e
      | .ok (t, h) => t.fetchChain (ws ++ [h]) k
  | r => .ok (s, r)

/-- The form takes its phase from the strip index (R340 `SP`): `POST`, `PWAIT` and `WAITT`, in user contexts only. -/
def stripPhase (f : FormKey) : Bool :=
  f.sp && f.page == 4 && (f.major == 6 || (f.major == 4 && decide (2 ≤ f.sel)))

/-- The executing context may execute the form as it is encoded: its kind, its side's lanes, and `SP` (R76, R340). -/
def State.mayForm (s : State) (f : FormKey) : Bool :=
  s.mayExec f.page f.major f.sel && (!stripPhase f || kindOf s.cur == .user)

/-- `CAUSE.INFO` of an illegal chain; a form that the context's kind may not execute is refused for that first (R113). -/
def State.illegalStop (s : State) (e : DecodeError) : Stop :=
  match e with
  | .needMore _ => .trap cIllegal 0 0
  | .illegal r none => .trap cIllegal (illegalInfo r 0 0) 0
  | .illegal r (some f) =>
    if (r == 6 || r == 7) && !s.mayForm f then .trap cIllegal (illegalInfo 5 f.page f.major) 0
    else .trap cIllegal (illegalInfo r f.page f.major) 0

/-- The executing context may execute a decoded form. -/
def State.permitted (s : State) (i : Instr) : Bool :=
  match chainOf i .none with
  | some c => s.mayForm c.key
  | none => true

/-- The checking scoreboard (R99): the first register that the instruction reads and whose producer is not yet safe. -/
def State.unsafeSource (s : State) (i : Instr) : Option Hazard :=
  if s.me.chksb then (sourcesOf s i).findSome? (fun r => if r = 0 then none else hazardOf s.me.haz r) else none

/-- `CAUSE.INFO` of `STALL_SHORT` (R99): the register in [20:16] and the latency less D in [23:21]. -/
def stallInfo (h : Hazard) : BitVec 16 := BitVec.ofNat 16 (h.reg.toNat + 32 * (h.lat - h.d))

/-- The state in which a decoded chain executes: its length, stall count, operand and cycles of mid-dispatch latched; under
`CHKSB` after every earlier VQ entry has left (R99). -/
def State.latch (s : State) (d : Decoded) (mid : Nat) : State :=
  let t := if s.me.chksb then s.resync else s
  { t with ilen := d.n, istall := d.stall, opd := d.opd, imid := mid }

end Sys2Proof.Machine
end

