-- ==== Sys2Proof/Machine/Issue.lean ====
section
/-! DEFINITION. Issue (spec/03_core.md R86, R87; spec/11_matrix.md R286): which context of a unit issues, and the issue of its
next chain. A unit, a core side or a Keep, is named by the identifier of its context 0. -/

namespace Sys2Proof.Machine

/-- A `LPART` or `LSPLIT` write of the context's own is pending (R85, R247). -/
def State.heldByWrite (s : State) (c : CtxId) : Bool :=
  !c.keep && (((s.core c.unit).lpartPend.map (·.2)) == some c || ((s.core c.unit).lsplitPend.map (·.2)) == some c)

/-- The context's gather waits for other packages (R277): it is held from issue. -/
def Ctx.awaits (x : Ctx) : Bool :=
  match x.wait with
  | some (.gather (_ :: _) _) => true
  | _ => false

/-- Firmware of a side is not eligible while a vector instruction of another context is mid-dispatch (R87). -/
def State.fwMid (s : State) (c : CtxId) : Bool := kindOf c == .firmware && decide (0 < (s.side c.unit c.side).mid)

/-- The context has been killed, and waits for its end or for the kills before its own (R397): it issues nothing more. -/
def State.dying (s : State) (c : CtxId) : Bool := (s.ctx c).killed || s.kills.contains (.ctx c)

/-- The context may issue (R86), but for what only its next instruction tells. -/
def State.eligible (s : State) (c : CtxId) : Bool :=
  (s.ctx c).st == .run && !s.dying c && (s.ctx c).late.isEmpty && (s.ctx c).stall == 0 && !s.heldByWrite c && !(s.ctx c).awaits && !s.fwMid c

/-- Context `k` of a unit. -/
def inUnit (u : CtxId) (k : Nat) : CtxId := { u with slot := k }

/-- Contexts 0 to `n` − 1 of a unit in round-robin order, starting after the one that issued last. -/
def roundRobin (u : CtxId) (n : Nat) (last : Option Nat) : List CtxId :=
  (List.range n).map (fun k => inUnit u ((last.map (· + 1)).getD 0 + k) ) |>.map (fun c => { c with slot := c.slot % n })

/-- The contexts of a core side in the order of R86: firmware with credit, the message context, the user contexts, and
firmware without credit. -/
def State.sideOrder (s : State) (u : CtxId) : List CtxId :=
  let x := s.side u.unit u.side
  let fw := inUnit u 9
  if x.credit = 0 then inUnit u 8 :: roundRobin u 8 x.lastUser ++ [fw] else fw :: inUnit u 8 :: roundRobin u 8 x.lastUser

/-- The contexts of a Keep in the order of R286. -/
def State.keepOrder (s : State) (u : CtxId) : List CtxId := inUnit u 3 :: roundRobin u 3 (s.pod u.unit).lastKeep

/-- The contexts of a unit in the order in which they may issue. -/
def State.unitOrder (s : State) (u : CtxId) : List CtxId := if u.keep then s.keepOrder u else s.sideOrder u

/-! ## Holds that the next instruction decides (R86) -/

/-- The instruction issues only when every earlier VQ entry of its context has left the VQ: it resynchronises (R93), or it waits
for every earlier access (R92). -/
def drainsVq (i : Instr) : Bool :=
  match i with
  | .vany _ _ => true
  | .vnone _ _ => true
  | .vmcnt _ _ => true
  | .vfind _ _ => true
  | .vgetx _ _ _ _ => true
  | .srd _ n => sysResyncs n.toNat
  | .swr _ n => sysResyncs n.toNat || n == 0x02
  | .send _ _ _ => true
  | .migrate _ _ => true
  | .fetake _ _ _ => true
  | .fefill _ _ _ _ => true
  | .fepeek _ _ _ => true
  | .atadd _ _ _ _ _ => true
  | .atswap _ _ _ _ _ => true
  | .atcas _ _ _ _ _ => true
  | .atmax _ _ _ _ _ => true
  | .atand _ _ _ _ _ => true
  | .ator _ _ _ _ _ => true
  | .atmin _ _ _ _ _ => true
  | .amaxm _ _ _ _ _ => true
  | .ipost _ _ _ _ => true
  | .post _ _ _ _ _ => true
  | .pwait _ _ _ _ _ => true
  | .waitt _ _ _ _ _ => true
  | .tcwait _ _ _ _ => true
  | .tcdone _ _ _ _ => true
  | .tkget _ _ _ _ => true
  | .penq _ _ _ => true
  | .fence _ _ => true
  | .fencex _ _ => true
  | .bopen _ _ _ => true
  | .bcommit _ => true
  | .bsnap _ _ => true
  | .bend _ => true
  | .breclaim _ _ => true
  | .stl _ _ _ _ => true
  | .stlw _ _ _ _ => true
  | .stlh _ _ _ _ => true
  | .stlb _ _ _ _ => true
  | .cpsleep _ _ => true
  | .cpwait _ _ => true
  | .clred _ _ _ => true
  | .clbcast _ _ _ => true
  | .clgather _ _ _ => true
  | .clwait _ _ => true
  | _ => false

/-- Where the instruction takes a VQ entry, the load-data entries that it takes with a group of `g` registers (R89, R208,
R228): a vector instruction but for the configuration forms and those that the access unit performs at issue (R93). -/
def vqTakes (g : Nat) (i : Instr) : Option Nat :=
  match chainOf i .none with
  | none => none
  | some c =>
    match c.key.page with
    | 1 => if decide (c.key.major < 2) || c.key.major == 16 || (c.key.major == 17 && c.key.sel == 2) then none else some 0
    | 2 =>
      if c.key.major == 4 && c.key.sel == 0 then some (g + 1)
      else if c.key.major == 0 || c.key.major == 6 || ((c.key.major == 2 || c.key.major == 3) && c.key.sel == 0) then some g
      else some 0
    | 3 => if c.key.major = 4 then none else if c.key.major = 5 then some g else some 0
    | 5 => if c.key.major = 0 then some 0 else if c.key.major = 2 then some g else none
    | _ => none

/-- A memory instruction (R86): a load, store, atomic, block or texture access, or another form that names a word of memory. DESIGN CHOICE:
a send and an engine command, which R90 counts among the memory operations, are none (log entry 128). -/
def memoryForm (i : Instr) : Bool :=
  match chainOf i .none with
  | none => false
  | some c =>
    match c.key.page with
    | 0 => c.key.major == 18 || c.key.major == 19
    | 2 => true
    | 3 => c.key.major == 5
    | 4 => c.key.major != 0 && c.key.major != 5 && c.key.major != 9 && c.key.major != 10
    | 5 => c.key.major == 2
    | _ => false

/-- The list with `x` in it. -/
def addNew (l : List Nat) (x : Nat) : List Nat := if l.contains x then l else x :: l

/-- The 128-byte lines that an access of `n` bytes at each of a list of addresses touches. -/
def linesOf (n : Nat) (l : List Nat) : Nat := (l.foldl (fun m a => addNew (addNew m (a / 128)) ((a + n - 1) / 128)) []).length

/-- Lines that the active elements of a unit-stride access touch (R87). -/
def State.unitLines (s : State) (a : XReg) (imm : Word) (k : MReg) : Nat :=
  let v := s.me.vec
  linesOf (v.sew / 8) ((v.active k).map (fun i => vaOf (s.rx a + imm) + i * (v.sew / 8)))

/-- Lines that the active elements of a block access touch (R87). -/
def State.blockLines (s : State) (a : XReg) (k : MReg) : Nat :=
  let p := s.rx a
  match fatMx (bitsOf p.toNat 59 5) with
  | some x => linesOf 1 ((s.me.vec.mxAccs k p (bitsOf p.toNat 56 3) x.width).map (fun c => (vaOf p + c.off.toNat)))
  | none => s.unitLines a 0 k

/-- Cycles for which a vector instruction is mid-dispatch (R87): one for each line of a unit-stride or block access, one for
each four elements of a strided access, and one for every other, which the rule does not all name (log entry 100). -/
def State.midCycles (s : State) (i : Instr) : Nat :=
  match i with
  | .vld _ a imm k => max 1 (s.unitLines a imm k)
  | .vst _ a imm k _ => max 1 (s.unitLines a imm k)
  | .vldff _ a imm k => max 1 (s.unitLines a imm k)
  | .vldb _ a _ k => max 1 (s.blockLines a k)
  | .vstb _ a _ k _ => max 1 (s.blockLines a k)
  | .vlds _ _ _ _ => max 1 ((s.me.vec.len + 3) / 4)
  | .vsts _ _ _ _ _ => max 1 ((s.me.vec.len + 3) / 4)
  | _ => 1

/-- The executing context's next instruction is held (R86, R89, R92, R93, R99): earlier entries of its context are in the VQ, no VQ
entry or too few load-data entries are free, or another context's memory instruction is mid-dispatch. A `VLDB` that would take more
load-data entries than there are is not held: it traps, g being 8 (R211). -/
def State.issueHeld (s : State) (i : Instr) : Bool :=
  let x := s.mySide
  !s.cur.keep && (
    (kindOf s.cur == .user && (
      ((s.me.chksb || drainsVq i) && x.vq.any (fun e => e.slot == s.cur.slot)) ||
      (match vqTakes s.me.vec.g i with
       | some r => decide (32 ≤ x.vq.length) || (decide (r ≤ 8) && decide (8 < ldqOf x.vq s.cur.slot + r))
       | none => false))) ||
    (decide (0 < x.mid) && x.midSlot != s.cur.slot && memoryForm i))

/-! ## Issue -/

/-- Of these forms an execution that ends in reason 0x7 has found an operand outside its limit (R53, R106, R185), whatever its registers hold:
the vector forms, quadword pairs, and the page-4 and page-5 forms whose fields are limited. -/
def limitForm (f : FormKey) : Bool :=
  match f.page with
  | 0 => f.major == 18 || f.major == 19
  | 1 => true
  | 2 => true
  | 3 => true
  | 4 => f.major == 3 || (f.major == 4 && decide (2 ≤ f.sel)) || f.major == 6 || f.major == 9 || f.major == 10
  | 5 => f.major == 0 || f.major == 2 || f.major == 3
  | _ => false

/-- Decoding finds an operand of the instruction outside its limit by the context's budget and types (R113): its execution takes `ILLEGAL`
with reason 0x7. -/
def State.outsideLimit (s : State) (i : Instr) : Bool :=
  (match chainOf i .none with
   | some c => limitForm c.key
   | none => false) &&
  (match exec i s with
   | .next t => t.me.st == .faulted && t.me.causeCode == cIllegal && t.me.causeInfo.extractLsb' 0 4 == 7
   | _ => false)

/-- A decoded chain of the executing context at issue: refused to its kind, held, found outside a limit, caught by the scoreboard, or
executed: what decoding finds comes before the scoreboard (R113, R99). -/
def State.issueDecoded (s : State) (d : Decoded) : Host.Outcome State Fault Refusal :=
  if !s.permitted d.instr then
    act s (match chainOf d.instr .none with
      | some c => illegal 5 c.key.page c.key.major
      | none => .ok s)
  else if s.issueHeld d.instr then .next (s.stop (.hold s))
  else match s.unsafeSource d.instr with
    | some h =>
      if (s.latch d 1).outsideLimit d.instr then exec d.instr (s.latch d 1)
      else act s (.error (.trap cStallShort (stallInfo h) 0))
    | none => exec d.instr (s.latch d (s.midCycles d.instr))

/-- The issue of the next chain of the executing context. -/
def State.issueMe (s : State) : Host.Outcome State Fault Refusal :=
  match s.fetchChain [] 5 with
  | .error e => .next (s.stop e)
  | .ok (t, .error e) => .next (t.stop (t.illegalStop e))
  | .ok (t, .ok d) => t.issueDecoded d

/-- The issue of the next chain of context `c`, with a fresh count for free values. -/
def State.issue (s : State) (c : CtxId) : Host.Outcome State Fault Refusal :=
  State.issueMe { s.focus c with free := s.free + 1, held := false, imid := 0 }

/-- What an issue of context `c` takes of its unit: the turn of a user or tenant context, a credit of firmware that has one
(R86, R87, R286), and the cycles for which it is mid-dispatch. -/
def State.charge (s : State) (c : CtxId) : State :=
  match kindOf c with
  | .keepFw => s
  | .keep => s.setPod c.unit { s.pod c.unit with lastKeep := some c.slot }
  | .message => s
  | .firmware => s.setSide c.unit c.side { s.side c.unit c.side with credit := (s.side c.unit c.side).credit - 1 }
  | .user =>
    let x := s.side c.unit c.side
    s.setSide c.unit c.side
      (if x.mid < s.imid then { x with lastUser := some c.slot, mid := s.imid, midSlot := c.slot } else { x with lastUser := some c.slot })

/-- The first context of a list that is eligible and whose next chain is not held issues (R86). -/
def State.tryIssue (s : State) (l : List CtxId) : Host.Outcome State Fault Refusal :=
  match l with
  | [] => .next s
  | c :: r =>
    if s.eligible c then
      match s.issue c with
      | .next t => if t.held then t.tryIssue r else .next (t.charge c)
      | .fault f => .fault f
      | .refused f => .refused f
    else s.tryIssue r

/-- A unit's turn in the cycle: a context of it issues, or none may. -/
def State.unitTurn (s : State) (u : CtxId) : Host.Outcome State Fault Refusal := s.tryIssue (s.unitOrder u)

/-- The state that begins to take a happening: its operand is latched. -/
def State.begin_ (s : State) (h : Happening) (r : List Happening) : State :=
  { s with events := r, opd := h.opd, free := s.free + 1 }

/-- The executing context and chain that `withFetchWord` sets up for a decoded instruction: Keep context 0 of pod 0 for page
6, the message context for `REPLY` and `HRET`, the firmware context for page 7, and user context 0 of core 0 otherwise. -/
def hostCtx (nbits w : Nat) : CtxId :=
  match decode (tableHalves nbits w) with
  | .error _ => { keep := false, unit := 0, side := false, slot := 0 }
  | .ok d =>
    match chainOf d.instr .none with
    | none => { keep := false, unit := 0, side := false, slot := 0 }
    | some c =>
      if c.key.page = 6 then { keep := true, unit := 0, side := false, slot := 0 }
      else if c.key.page = 7 then { keep := false, unit := 0, side := false, slot := 9 }
      else if c.key.page = 4 && c.key.major == 0 && (c.key.sel == 1 || c.key.sel == 2) then
        { keep := false, unit := 0, side := false, slot := 8 }
      else { keep := false, unit := 0, side := false, slot := 0 }

/-- The physical address of the program that `withFetchWord` places: the context runs at local address 0 under `PDID` 0 with
translation disabled (log entry 7). -/
def placeWord (m : Memory) (nbits w : Nat) : Memory :=
  (m.writeN 0 (List.replicate 10 0)).writeN 0 (bytesOfHalves (tableHalves nbits w))

end Sys2Proof.Machine
end

