-- ==== Sys2Proof/Machine/Tick.lean ====
section
/-! DEFINITION. The passing of a cycle: the counters, and what falls due in it (spec/03_core.md R87, R89, R100; spec/02_placement.md
R60 to R73; spec/14_coherence.md R372 to R382; spec/15_interruption.md). What falls due happens before the units have their turns. -/

namespace Sys2Proof.Machine

/-! ## Units -/

/-- A unit in ascending order: cores' sides, then Keeps. -/
def unitKey (c : CtxId) : Nat := if c.keep then 4096 + c.unit else 2 * c.unit + c.side.toNat

/-- The list of units with one more, in ascending order and without repeats. -/
def addUnit (l : List CtxId) (u : CtxId) : List CtxId :=
  match l with
  | [] => [u]
  | v :: r => if unitKey u = unitKey v then v :: r else if unitKey u < unitKey v then u :: v :: r else v :: addUnit r u

/-- The units that hold a context in `RUN` and whose die's clock runs. -/
def State.runUnits (s : State) : List CtxId :=
  s.allCtx.foldl (fun l (c, x) => if x.st == .run && s.clocked (dieOf c) then addUnit l (inUnit c 0) else l) []

/-- The instruction at which a context stands. -/
def State.nextInstr (s : State) (c : CtxId) : Option Instr :=
  match (s.focus c).fetchChain [] 5 with
  | .ok (_, .ok d) => some d.instr
  | _ => none

/-- A context has its unit's turn: it is eligible and its next chain is not held. -/
def State.wouldIssue (s : State) (c : CtxId) : Bool :=
  s.eligible c && (match s.issue c with
    | .next t => !t.held
    | _ => true)

/-- The instruction that a unit's firmware context has the turn for, where no context before it has. -/
def State.firmwareNext (s : State) (u : CtxId) : Option Instr :=
  match (s.unitOrder u).find? s.wouldIssue with
  | some c => if isFw c then s.nextInstr c else none
  | none => none

/-- A unit's firmware stands at an instruction that `p` names. -/
def State.firmwareAt (s : State) (p : Instr → Bool) (u : CtxId) : Bool :=
  let fw := inUnit u (if u.keep then 3 else 9)
  s.eligible fw && (s.nextInstr fw).any p && (s.firmwareNext u).any p

/-- A firmware kill, and a pre-emption request. -/
def isKill (i : Instr) : Bool :=
  match i with
  | .kill _ _ => true
  | _ => false
def isPreempt (i : Instr) : Bool :=
  match i with
  | .preempt _ _ => true
  | _ => false

/-- The units that kill in the cycle (R78), in ascending order. -/
def State.killTurns (s : State) : List CtxId := s.runUnits.filter (s.firmwareAt isKill)

/-- The turns of the cycle that are left: those of units that pre-empt come last (R78), and each part is in ascending order. -/
def State.turns (s : State) : List CtxId :=
  let l := (s.runUnits.filter (fun u => !s.cycle.turned.contains u)).map (fun u => (u, s.firmwareAt isPreempt u))
  ((l.filter (fun p => !p.2)) ++ l.filter (·.2)).map (·.1)

/-! ## Counters -/

/-- A lease's count in a cycle of its holder's clock (R373). -/
def State.countLease (s : State) (h : HolderLease) : HolderLease :=
  if s.localAgent h.agent && s.clocked (h.agent % 8) then { h with left := h.left - 1 } else h

/-- A waiting request's count in a cycle of its requester's clock (R373). -/
def State.countReq (s : State) (r : CohReq) : CohReq :=
  if s.localAgent r.agent && s.clocked (r.agent % 8) then { r with left := r.left - 1 } else r

/-- A context after a cycle of its clock: its stall count runs (R96). -/
def Ctx.cool (x : Ctx) : Ctx := { x with stall := x.stall - 1 }

/-- A die one step on: its clock comes nearer its next cycle, and where it comes to one `DCYC` counts it (R100, R409). -/
def Die.advance (x : Die) : Die :=
  let p := phaseAfter x.phase (clockOf x.power)
  { x with phase := p, dcyc := if p < clockOf x.power then x.dcyc + 1 else x.dcyc }

/-- A switch die one step on (R10). -/
def SwitchDie.advance (x : SwitchDie) : SwitchDie :=
  let p := phaseAfter x.phase switchClock
  if x.lost then x else { x with phase := p, cyc := if p < switchClock then x.cyc + 1 else x.cyc }

/-- The clocks of the dies and of the switch dies one step on (R10). -/
def State.advanceClocks (s : State) : State :=
  { (List.range 8).foldl (fun (t : State) d => t.setDie d (t.die d).advance) s with sd0 := s.sd0.advance, sd1 := s.sd1.advance }

/-- What counts cycles of the dies whose clock has come to one: stall counts and dispatches (R87, R96), and the leases that they hold
(R373) or have asked for. -/
def State.countCycles (s : State) : State :=
  { s with
    leases := s.leases.map s.countLease,
    cohWait := s.cohWait.map s.countReq,
    me := if s.clocked (dieOf s.cur) then s.me.cool else s.me,
    others := s.others.map (fun (c, x) => if s.clocked (dieOf c) then (c, x.cool) else (c, x)),
    sides := s.sides.map (fun (k, x) => if s.clocked (k / 192) then (k, { x with mid := x.mid - 1 }) else (k, x)) }

/-- What has happened in the cycle of each die whose clock has not come to another, and the classes of the queues (R70). -/
def State.newCycle (s : State) : Cycle :=
  let on (d : Nat) : Bool := !s.clocked d
  { pods := s.cycle.pods.filter (fun p => on (p / 12)), walked := s.cycle.walked.filter on,
    classes := s.queues.map (fun (k, _) => (k, s.effClass k)), lparts := s.cycle.lparts.filter (fun k => on (k / 96)),
    popped := s.cycle.popped.filter on, turned := [], early := none, bind := none }

/-- One step of every clock, with what counts their cycles; what the bindings of a cycle turn on begins anew with it. -/
def State.advance (s : State) : State :=
  let t := s.advanceClocks.countCycles
  { t with free := s.free + 1, cycle := t.newCycle }

/-- Firmware credit refilled on the sides of the dies whose `DCYC` calls for it (R87). -/
def State.refillCredit (s : State) : State :=
  s.sides.foldl (fun t e => if decide (e.1 < 1536) && s.clocked (e.1 / 192) then t.creditRefill (e.1 / 2) (e.1 % 2 == 1) else t) s

/-- The step is a cycle of the switch die that keeps the package's time. -/
def State.switchBeat (s : State) : Bool := s.mainSd.clocked

/-- Queues that are not ready do not age: their class is their `PRIO` (R60). -/
def State.idleQueues (s : State) : State :=
  { s with queues := s.queues.map (fun (k, q) =>
      if q.state == .disabled || s.queueReady k then (k, q) else (k, { q with eff := q.prio.toNat, since := s.sdcyc })) }

/-- What an actor is ready by: that of a cycle of its deciding die (R67, R70). -/
def State.readyBy (s : State) (g : Graph) (i : Nat) (a : Actor) : Option (Nat × Nat) :=
  let d := (g.tq (a.ins.headD (0, 0)).1).home
  if s.actorReady g false a then some (i, g.ready.get (s.die d).dcyc.toNat i) else none

/-- The actors of a graph that are ready, each with the cycle since which it has been (R70). -/
def State.markReady (s : State) (g : Graph) : Graph :=
  { g with ready := (List.range g.actors.length).filterMap (fun i => (g.actors[i]?).bind (s.readyBy g i)) }

/-- The actors of the open graphs looked at (R66, R70). -/
def State.markActors (s : State) : State :=
  { s with packets := s.packets.map (fun p =>
      match p.work with
      | .graph g => { p with work := .graph (s.markReady g) }
      | _ => p) }

/-! ## What falls due -/

/-- The core and side of a side's number. -/
def sideOf (k : Nat) : Operand := .side (k / 2) (k % 2 == 1)

/-- What a side does in a cycle: the vector queue (R89), the message context (R347), and its requests that wait at another package
(R346). -/
def State.dueSide (s : State) (k : Nat) (x : Side) : List Happening :=
  (match x.vq with
   | [] => []
   | e :: _ => if e.started then [⟨.vqEntryLeave, sideOf k⟩] else [⟨.vqEntryStart, sideOf k⟩]) ++
  (if x.nextArrival.isSome then [⟨.handlerStart, sideOf k⟩] else []) ++
  (x.sendq.filter (fun m => m.dstPkg != s.pkg)).map (fun m => ⟨.messageAccept, .message m⟩)

/-- What every side of a die whose clock runs does; the numbers above those of the sides are other sources of requests (R342). -/
def State.dueSides (s : State) : List Happening :=
  s.sides.flatMap (fun (k, x) => if decide (k < 1536) && s.clocked (k / 192) then s.dueSide k x else [])

/-- Pending partitions of a core (R85, R247). -/
def State.dueCores (s : State) : List Happening :=
  s.cores.flatMap (fun (k, c) =>
    if !s.clocked (k / 96) then [] else
    (if c.lpartPend.isSome then [⟨.lpartTakeEffect, .unit k⟩] else []) ++
    (if c.lsplitPend.isSome then [⟨.lsplitTakeEffect, .unit k⟩] else []))

/-- What a waiting context may be woken by without a notice: a deadline, the end of an invalidation. -/
def State.dueWait (s : State) (c : CtxId) (w : Wait) : List Happening :=
  let now := (s.die (dieOf c)).dcyc.toNat
  match w with
  | .timed _ _ deadline _ _ => if deadline ≤ now then [⟨.waittTimeout, .ctx c⟩] else []
  | .invalidate _ _ => [⟨.invalidateComplete, .ctx c⟩]
  | _ => []

/-- The kills of user contexts under way, in the order in which they were issued (R397). -/
def State.dueKills (s : State) : List Happening :=
  s.kills.filterMap (fun k => match k with
    | .ctx c => some ⟨.killComplete, .ctx c⟩
    | _ => none)

/-- What a context that is not running may come to: its end (R402), or that of its save (R399); and its faults that wait for a record
(R391). -/
def State.dueCtx (c : CtxId) (x : Ctx) : List Happening :=
  x.late.map (fun op => ⟨.memoryConfirm, .ctxOp c op⟩) ++
  (if x.killed then []
   else match x.st with
    | .drain => [⟨.firingRetire, .ctx c⟩]
    | .saving => [⟨.saveComplete, .ctx c⟩]
    | .binding => [⟨.firingStart, .ctx c⟩]
    | _ => [])

/-- What the copy engines of a die do (R269). -/
def Die.dueEngines (d : Die) (k : Nat) : List Happening :=
  d.engines.flatMap (fun (e, q) =>
    if q.isEmpty then [] else if q.any (·.started) then [⟨.copyCommandComplete, .engine k e⟩] else [⟨.copyCommandStart, .engine k e⟩])

/-- What a die does besides: its engines, and its fault buffer, where it has room or new records find none (R391). -/
def State.dueDies (s : State) : List Happening :=
  s.dies.flatMap (fun (k, d) =>
    if !s.clocked k then []
    else d.dueEngines k ++
      (if d.fbHeld.isEmpty || (decide (fbSize ≤ d.fb.length) && !d.fbNew) then [] else [⟨.faultRecordAccept, .unit k⟩]))

/-- The collectives that every rank has joined and that are still to be carried out (R280). -/
def State.dueColls (s : State) : List Happening :=
  s.collectives.flatMap (fun k =>
    if k.status.isNone && decide ((collDesc (ofBytes k.image)).npart ≤ k.parts.length) then
      [⟨.collectivePerform, .coll k.desc k.epoch⟩]
    else [])

/-- What the matrix engines do: the operation that runs is carried out, and then ends (R293). -/
def State.dueMatrix (s : State) : List Happening :=
  s.pods.flatMap (fun (k, p) =>
    match p.running with
    | some o => if !s.clocked (k / 12) then [] else if o.done.isSome then [⟨.mxOperationEnd, .unit k⟩] else [⟨mxInstr o.kind, .unit k⟩]
    | none => [])

/-- The vectors whose write is owed: unmasked by firmware with `PENDING` set (R29). -/
def State.dueVectors (s : State) : List Happening :=
  s.domains.flatMap (fun (k, d) =>
    if d.state = 0 then []
    else (List.range 16).flatMap (fun v =>
      if s.fwRead (d.ivtab.toNat + 16 * v + 12) 4 % 4 = 2 then [⟨.interruptUnmask, .vector (BitVec.ofNat 12 k) (BitVec.ofNat 4 v)⟩] else []))

/-! ## The queue engine (R60, R61) -/

/-- A queue's next packet can be taken, or fails its checks. -/
def State.canTake (s : State) (q : Nat) : Bool :=
  s.hasNext q && (match s.readPacket q with
    | .error _ => true
    | .ok (p, w) => s.mayTake q p w)

/-- The dealing that a queue's open work allows: of its open packets the oldest that can be dealt, and chunks before gangs (DESIGN
CHOICE, log entry 111). -/
def State.dealing (s : State) (q : Nat) : Option Happening :=
  if (s.deal false q).isSome then some ⟨.chunkDeal, .unit q⟩
  else if (s.deal true q).isSome then some ⟨.gangDeal, .unit q⟩
  else none

/-- What serving a queue does, where it can be served: which of taking and dealing comes first is free (log entry 3). -/
def State.service (s : State) (q : Nat) : Option Happening :=
  let take : Option Happening := if s.canTake q then some ⟨.packetTake, .unit q⟩ else none
  if Config.pick s.free (16 * q + 8) then take <|> s.dealing q else s.dealing q <|> take

/-- The ready queues of an effective class, round-robin after the last served in it. -/
def State.classOrder (s : State) (k : Nat) : List Nat :=
  let l := (s.queues.filter (fun (q, _) => s.queueReady q && s.effClass q == k)).map (·.1)
  let last := s.engine.lastServed.get 4096 k
  l.filter (fun q => decide (last < q)) ++ l.filter (fun q => decide (q ≤ last))

/-- The service of the switch cycle: the first queue in order that can be served. -/
def State.dueService (s : State) : List Happening :=
  match ((List.range 4).flatMap s.classOrder).findSome? s.service with
  | some h => [h]
  | none => []

/-- The queues that fall a class (R60). -/
def State.dueAgeing (s : State) : List Happening :=
  s.queues.flatMap (fun (k, q) =>
    if s.queueReady k && s.engine.ageStep != 0 && decide (0 < q.eff) && decide (s.engine.ageStep.toNat ≤ s.sdcyc - q.since) then
      [⟨.queueAgeing, .unit k⟩]
    else [])

/-! ## Binding (R70 to R73, R352) -/

/-- A candidate for a context: its happening, with the class, the time for which it has been ready, kind and queue that R70 orders it by. -/
structure BindCand where
  cls : Nat
  age : Nat
  kind : Nat
  q : Nat
  h : Happening

/-- The order of R70. -/
def BindCand.before (a b : BindCand) : Bool :=
  if a.cls != b.cls then decide (a.cls < b.cls)
  else if a.age != b.age then decide (b.age < a.age)
  else if a.kind != b.kind then decide (a.kind < b.kind)
  else decide (a.q < b.q)

/-- A candidate put in that order. -/
def putCand (c : BindCand) (l : List BindCand) : List BindCand :=
  match l with
  | [] => [c]
  | d :: r => if c.before d then c :: d :: r else d :: putCand c r

/-- The time that `n` cycles of a clock of `f` take, in a unit in which a cycle of each clock is whole: the lengths of time of candidates
that count cycles of different clocks are compared in it (R70; DESIGN CHOICE, log entry 67). -/
def timeOf (f n : Nat) : Nat := n * (23760 / f)

/-- How long something has been ready on a die since a value of its `DCYC`. -/
def State.readyFor (s : State) (d since : Nat) : Nat := timeOf (max 10 (clockOf (s.die d).power)) ((s.die d).dcyc.toNat - since)

/-- The clock that decides for a gang queue has a cycle in this step (R71, R72). -/
def State.gangBeat (s : State) (q : Option Nat) : Bool :=
  match q with
  | some d => s.clocked d
  | none => s.switchBeat

/-- How long a gang queue's head has been head, which is taken for how long it has been ready (R70; DESIGN CHOICE, log entry 67). -/
def State.headFor (s : State) (q : Option Nat) : Nat :=
  match q with
  | some d => s.readyFor d (s.gangq q).headSince
  | none => timeOf switchClock (s.sdcyc - (s.gangq q).headSince)

/-- The head gangs: the one after a gang that has been placed is head from the next cycle of the queue's clock on (R72). -/
def State.gangCands (s : State) : List BindCand :=
  ((none : Option Nat) :: (List.range 8).map some).filterMap (fun q =>
    if !s.gangBeat q || decide (s.gangClock q < (s.gangq q).headSince) then none
    else (s.gangq q).gangs.head?.map (fun g =>
      { cls := s.classNow g.pkt.q, age := s.headFor q, kind := 0, q := g.pkt.q, h := ⟨.gangPlace, .place q⟩ }))

/-- Effective class of an arrival's queue (R352): that of another package's packet is not known here, and is free (log entry 3). -/
def State.arrivalClass (s : State) (r : PktRef) : Nat :=
  if r.pkg == s.pkg then s.classNow r.q else (Config.word s.free 28).toNat % 4

/-- The first migration arrivals of the cores, where a context takes them. -/
def State.arrivalCands (s : State) : List BindCand :=
  s.cores.filterMap (fun (k, c) =>
    match c.migHw.head? with
    | none => none
    | some e =>
      if (s.clocked (k / 96) || !s.dieAwake (k / 96)) && (s.migCtx k e.1).isSome then
        some { cls := s.arrivalClass e.1.pkt, age := s.readyFor (k / 96) e.2, kind := 1, q := e.1.pkt.q, h := ⟨.migrationBind, .unit k⟩ }
      else none)

/-- The chunks that the walkers of the dies bind next, one of each die (R64). A chunk counts as ready from its dealing on (R70; DESIGN CHOICE,
log entry 67). -/
def State.chunkHeads (s : State) : List BindCand :=
  s.dies.filterMap (fun (k, _) =>
    if s.clocked k && !s.cycle.walked.contains k then
      (s.bestChunk (s.chunkCands k)).map (fun x =>
        { cls := s.classNow x.p.ref.q, age := s.readyFor k x.k.since, kind := 2, q := x.p.ref.q, h := ⟨.chunkBind, .unit k⟩ })
    else none)

/-- The ready actors of the open graphs that a context takes, each decided in a cycle of its deciding die (R67). -/
def State.actorCands (s : State) : List BindCand :=
  s.packets.flatMap (fun p =>
    match p.work with
    | .graph g =>
      (List.range g.actors.length).filterMap (fun i =>
        match g.actors[i]? with
        | some a =>
          let q0 := g.tq (a.ins.headD (0, 0)).1
          let tile := if q0.sorted then q0.next.map (fun e => tileOfKey e.key) else none
          if (s.clocked q0.home || !s.dieAwake q0.home) && s.actorReady g false a && s.mayStart p.ref &&
              (s.actorCtx p g a q0.home tile).isSome then
            some { cls := s.classNow p.ref.q, age := s.readyFor q0.home (g.ready.get (s.die q0.home).dcyc.toNat i), kind := 3, q := p.ref.q,
                   h := ⟨.actorFire, .actor p.ref.q p.ref.num i⟩ }
          else none
        | none => none)
    | _ => [])

/-- The head gangs that may begin to reserve (R73), those that a clock has made head. -/
def State.dueReserves (s : State) : List Happening :=
  ((none : Option Nat) :: (List.range 8).map some).flatMap (fun q =>
    if (s.gangq q).gangs.isEmpty || decide (s.gangClock q < (s.gangq q).headSince) then [] else [⟨.gangReserving, .place q⟩])

/-- The candidates that could be bound now, in the order of R70. -/
def State.bindCands (s : State) : List BindCand :=
  (s.gangCands ++ s.arrivalCands ++ s.chunkHeads ++ s.actorCands).foldl (fun l c => putCand c l) []

/-- What the bindings of the cycle come to next: the reservations take effect before them (R73, R74), and each candidate has one place in the
cycle, given as the contexts then are. -/
def State.nextBind (s : State) (tried : List Happening) : Option Happening :=
  (s.dueReserves ++ s.bindCands.map (·.h)).find? (fun h => !tried.contains h)

/-- The slots that wait to be installed (R333). -/
def State.dueSlots (s : State) : List Happening :=
  s.sets.flatMap (fun (k, e) => match e.pending with
    | c :: _ =>
      let r := c.record.toNat
      (List.range (s.recLines r)).flatMap (fun i => if c.done.contains i then [] else [⟨.bundleSlotInstall, .bundleSlot (BitVec.ofNat 56 k) i⟩])
    | [] => [])

/-- The packets whose work has ended (R58). -/
def State.duePackets (s : State) : List Happening :=
  s.packets.flatMap (fun p => if s.packetDone p then [⟨.packetComplete, .packet p.ref.q p.ref.num⟩] else [])

/-! ## Coherence (R372 to R382) -/

/-- The address of a line number. -/
def lineVa (line : Nat) : VAddr := BitVec.ofNat 56 (line * 128)

/-- What the holders do: expiry; the release of what has not been renewed when a quarter of its count is left; renewal (R374). One that
has left a recall unanswered neither renews nor releases (R375). -/
def State.dueLeases (s : State) : List Happening :=
  s.leases.flatMap (fun h =>
    if !s.localAgent h.agent then []
    else if h.left = 0 then [⟨.holderLeaseExpiry, .lease h.agent (lineVa h.line)⟩]
    else if h.mute then []
    else if 4 * h.left ≤ h.total then [⟨.leaseRelease, .lease h.agent (lineVa h.line)⟩]
    else if h.dueRenew then [⟨.leaseRenewal, .lease h.agent (lineVa h.line)⟩]
    else [])

/-- What the switch dies do with their entries in a cycle of theirs: lapses, flags, merges (R372, R375, R380). -/
def State.dueDir (s : State) : List Happening :=
  s.dir.flatMap (fun e =>
    let base := lineVa e.line
    let now := s.cycOf e.line
    if !(s.sd (s.tracker e.line)).clocked then []
    else
      e.sharers.flatMap (fun a => match e.endOf a with
        | some n => if n ≤ now then [⟨.switchLeaseExpiry, .lease a base⟩] else []
        | none => []) ++
      (if e.flag == .rebuild && decide (e.flagEnd ≤ now) then [⟨.rebuildFlagClear, .region (s.tracker e.line) base⟩] else []) ++
      (if s.dir.any (fun f => s.mayMerge e f) then [⟨.regionMerge, .region (s.tracker e.line) base⟩] else []))

/-- The checkpoint boundary falls due: the interval is as long as it is to be, or holders still owe what its end waits for (R377). -/
def State.dueBoundary (s : State) : Bool :=
  s.switchBeat && (s.ckptOwed.isSome || (s.mainSd.interval != 0 && decide (s.ckptSince + s.mainSd.interval.toNat ≤ s.sdcyc)))

/-- Checkpoints (R377) and lost peers (R382). -/
def State.dueSwitch (s : State) : List Happening :=
  (if s.dueBoundary then [⟨.checkpointBoundary, .none⟩] else []) ++
  (if s.switchBeat then
    s.mainSd.noRoute.flatMap (fun (p, since) =>
      if decide (since + s.mainSd.tmo.toNat ≤ s.sdcyc) && !s.hasRoute p then [⟨.peerLost, .pkg (BitVec.ofNat 8 p)⟩] else [])
   else [])

/-! ## The cycle -/

/-- Everything that falls due in a cycle, in the order in which it happens. -/
def State.due (s : State) : List Happening :=
  s.dueDir ++ s.dueLeases ++ s.dueSwitch ++ s.dueSlots ++ s.dueSides ++ s.dueCores ++ s.waiters.flatMap (fun (c, w) => s.dueWait c w) ++
    s.dueKills ++ s.allCtx.flatMap (fun (c, x) => if s.clocked (dieOf c) then State.dueCtx c x else []) ++ s.dueDies ++ s.dueColls ++
    s.dueMatrix ++ s.dueVectors ++ (if s.switchBeat then s.dueAgeing ++ s.dueService ++ s.duePackets else [])

/-- What a cycle settles at once: words that waiting contexts watch, held pre-emption requests, pending stops of dies, and what the
host asks and waits. -/
def State.settleCycle (s : State) : State :=
  let t := s.waiters.foldl (fun (u : State) (c, w) => u.pollWait c w) s
  let t1 := (t.preempts.map (·.who)).foldl (fun (u : State) c => u.heldPreempts c) t
  ((List.range 8).foldl (fun (u : State) d => u.tryStop d) t1).hostRetry

/-- A die's clock comes to its next cycle with the next step: the one it is in ends. -/
def State.cycleEnds (s : State) (d : Nat) : Bool := decide (phaseAfter (s.die d).phase (clockOf (s.die d).power) < clockOf (s.die d).power)

/-- The end of a cycle: a context that sleeps on a promise of the cycle and whose command has not completed in it misses it
(R272), a thaw or kill of the cycle having taken effect before. -/
def State.missPromises (s : State) : State :=
  s.waiters.foldl (fun t (c, w) => match w with
    | .copy _ (some _) _ _ => if s.cycleEnds (dieOf c) then t.promiseReached c else t
    | _ => t) s

/-- What the cycle holds once its kills have taken effect (R78): waits end, what falls due is pending, contexts are bound, and every other unit
with a context in `RUN` gets its turn. -/
def State.openCycle (s : State) : State :=
  let t := s.settleCycle
  { t with events := t.events ++ t.due, todo := t.turns, cycle := { t.cycle with early := none, bind := some [] } }

/-- A cycle ends and the next begins: promises that it has reached are missed, the counters advance, and firmware that kills has its turn
before anything else of the cycle takes effect. -/
def State.tick (s : State) : State :=
  let t := s.missPromises.advance.refillCredit.idleQueues.markActors
  match t.killTurns with
  | [] => t.openCycle
  | l => { t with cycle := { t.cycle with early := some l } }

end Sys2Proof.Machine
end

