-- ==== Sys2Proof/Machine/Step.lean ====
section
/-! DEFINITION. The step: what is pending happens first, oldest first; then the units that kill have their turns, what falls due in the
cycle is listed, contexts are bound, and each other unit has its turn; then a cycle passes. -/

namespace Sys2Proof.Machine

/-- One step of the package. -/
def step (s : State) : Host.Outcome State Fault Refusal :=
  match s.events with
  | h :: r => exec h.i (s.begin_ h r)
  | [] =>
    match s.cycle.early with
    | some (u :: r) => State.unitTurn { s with cycle := { s.cycle with early := some r, turned := u :: s.cycle.turned } } u
    | some [] => .next s.openCycle
    | none =>
      match s.cycle.bind with
      | some tried =>
        (match s.nextBind tried with
         | some h => exec h.i (State.begin_ { s with cycle := { s.cycle with bind := some (h :: tried) } } h [])
         | none => .next { s with cycle := { s.cycle with bind := none } })
      | none =>
        match s.todo with
        | u :: r => State.unitTurn { s with todo := r } u
        | [] => .next s.tick

/-- The state whose next step fetches and runs the instruction of a row of spec/opcode_table.json (log entry 7): nothing else
is pending, and a context that may execute it is the only one of its unit, in `RUN` at the word, under `PDID` 0 with
translation disabled. -/
def State.withFetchWord (s : State) (nbits w : Nat) : State :=
  let c := hostCtx nbits w
  let t := s.focus c
  { t with
    events := [], todo := [inUnit c 0], cycle := { t.cycle with early := none, bind := none },
    others := t.others.filter (fun (k, _) => k.keep != c.keep || k.unit != c.unit || k.side != c.side),
    me := { t.me with st := .run, pc := t.pkg.setWidth 56 <<< 48, pdid := 0, haz := [], stall := 0, chksb := false, wait := none, views := [] },
    sides := if c.keep then t.sides else t.sides.set (sideKey c.unit c.side) { t.side c.unit c.side with vq := [], mid := 0 },
    cores := t.cores.set c.unit { t.core c.unit with lpartPend := none, lsplitPend := none },
    dies := t.dies.set (dieOf c) { t.die (dieOf c) with pgEn := false, tlb := [] },
    sd0 := { t.sd0 with hostEn := false },
    st := { t.st with dram := { t.st.dram with bytes := placeWord t.st.dram.bytes nbits w } } }

end Sys2Proof.Machine
end

