-- ==== Sys2Proof/Safety.lean ====
section
/-! DEFINITION. What counts as a safe run, and what an instruction may leave changed: the terms that the statements of
Certificates/Slice0 are written in. -/

namespace Sys2Proof.Machine

/-- `exec` of the instruction answers a next state, of which `P` holds. -/
def Answers (i : Instr) (s : State) (P : State → Prop) : Prop := ∃ t, exec i s = .next t ∧ P t

/-- Every byte store of the state is in its canonical form (log entry 1). -/
def State.memWf (s : State) : Prop := s.st.wf = true

/-- A run that has gone on: every step so far has answered a next state. -/
inductive Reaches : State → State → Prop where
  | refl (s : State) : Reaches s s
  | tail (s t u : State) (h : Reaches s t) (h1 : step t = .next u) : Reaches s u

/-- A state from which no run stops: each state that it reaches steps on. -/
def Safe (s : State) : Prop := ∀ t, Reaches s t → ∃ u, step t = .next u

/-- The byte at an address of a store; pod scratch is none of the spaces that an address names. -/
def State.byteAt (s : State) (sp : Space) (a : Nat) : Byte := (s.st.of sp).read a

/-- No byte of any store has changed. -/
def SameBytes (s t : State) : Prop :=
  (∀ sp a, t.byteAt sp a = s.byteAt sp a) ∧ ∀ a, t.st.podScratch.read a = s.st.podScratch.read a

/-- Only the `n` bytes from a location may have changed. -/
def SameBytesBut (l : Loc) (n : Nat) (s t : State) : Prop :=
  (∀ sp a, sp ≠ l.sp ∨ a < l.a ∨ l.a + n ≤ a → t.byteAt sp a = s.byteAt sp a) ∧
    ∀ a, t.st.podScratch.read a = s.st.podScratch.read a

/-- Only what coherence keeps has changed: the lines that dies hold, leases, the directory, waiting requests, and what has been asked of
the host (R369 to R375, R384, R385). -/
def OnlyLines (s t : State) : Prop :=
  t = { s with dies := t.dies, leases := t.leases, dir := t.dir, cohWait := t.cohWait, hostHeld := t.hostHeld,
               hostCopies := t.hostCopies, hostOut := t.hostOut }

/-- No register of the executing context has changed but for its program counter, its scoreboard and `MISSACK`. -/
def OnlyPc (s t : State) : Prop :=
  t = { s with me := { s.me with pc := t.me.pc, haz := t.me.haz, stall := t.me.stall, missack := t.me.missack } }

/-- The registers named hold what they held, and nothing but `x` registers of the executing context, its program counter,
its scoreboard, its stall and `MISSACK` has changed. -/
def OnlyX (ds : List XReg) (s t : State) : Prop :=
  (∀ r, r ∉ ds → xGet t.me.x r = xGet s.me.x r) ∧
  t = { s with me := { s.me with x := t.me.x, pc := t.me.pc, haz := t.me.haz, stall := t.me.stall, missack := t.me.missack } }

/-- As `OnlyX`, and `FLAGS` as well. -/
def OnlyXFlags (ds : List XReg) (s t : State) : Prop :=
  (∀ r, r ∉ ds → xGet t.me.x r = xGet s.me.x r) ∧
  t = { s with me := { s.me with x := t.me.x, flags := t.me.flags, pc := t.me.pc, haz := t.me.haz, stall := t.me.stall, missack := t.me.missack } }

/-- Register `d` holds `v`; a write of `x0` is discarded. -/
def HoldsX (t : State) (s : State) (d : XReg) (v : Word) : Prop :=
  xGet t.me.x d = if d = 0 then xGet s.me.x 0 else v

/-- The next chain of the context is the one that follows. -/
def NextChain (s t : State) : Prop := t.me.pc = s.me.pc + BitVec.ofNat 56 (2 * s.ilen)

/-- What an instruction with one `x` register result leaves: the result, the following chain, every byte of memory and
everything else as it was. -/
def SetsX (s t : State) (d : XReg) (v : Word) : Prop :=
  HoldsX t s d v ∧ NextChain s t ∧ OnlyX [d] s t ∧ SameBytes s t

/-- As `SetsX`, with the flags `f` raised as well. -/
def SetsXFlags (s t : State) (d : XReg) (v : Word) (f : BitVec 8) : Prop :=
  HoldsX t s d v ∧ t.me.flags = s.me.flags ||| f ∧ NextChain s t ∧ OnlyXFlags [d] s t ∧ SameBytes s t

/-- The context has taken a trap or fault with a cause (R388, R389): it is `FAULTED`, `FPC` and its program counter name the
chain, the cause is recorded, and no register and no byte of its own has changed. -/
def TookFault (s t : State) (code : BitVec 8) (info : BitVec 16) (faddr : Word) : Prop :=
  t.me.st = faultState s.me false ∧ t.me.causeCode = code ∧ t.me.causeInfo = info ∧ t.me.faddr = faddr ∧
  t.me.fpc = s.me.pc ∧ t.me.pc = s.me.pc ∧ t.me.x = s.me.x ∧ t.me.vec = s.me.vec ∧ t.me.rs = s.me.rs ∧
  t.me.flags = s.me.flags ∧ t.cur = s.cur

/-- The instruction ends in a trap or fault with a cause, and no byte has changed. While the buffer has not accepted the context's last
record (R391), the instruction is held instead, and nothing of the context has changed (log entry 110). -/
def Faults (i : Instr) (s : State) (code : BitVec 8) (info : BitVec 16) (faddr : Word) : Prop :=
  Answers i s (fun t => SameBytes s t ∧
    if s.recordHeld s.cur then t.held = true ∧ t.me = s.me ∧ t.cur = s.cur else TookFault s t code info faddr)

/-- As `Faults`, for a cause to which the rules give no `CAUSE.INFO` (log entry 8): it is said of the address alone. -/
def FaultsAt (i : Instr) (s : State) (code : BitVec 8) (faddr : Word) : Prop :=
  Answers i s (fun t => SameBytes s t ∧
    if s.recordHeld s.cur then t.held = true ∧ t.me = s.me ∧ t.cur = s.cur else TookFault s t code t.me.causeInfo faddr)

/-- The instruction is held from issue, in a state where what it waits for has been asked for (R86, R375, R385). -/
def Held (i : Instr) (s u : State) : Prop := exec i s = .next { u with held := true }

/-- The `n` bytes at a location hold `v`, least significant first, and every other byte is as it was. -/
def SetsBytes (s t : State) (l : Loc) (n v : Nat) : Prop :=
  (∀ k : Nat, k < n → t.byteAt l.sp (l.a + k) = BitVec.ofNat 8 (v / 256 ^ k)) ∧ SameBytesBut l n s t

/-- As `SetsBytes`, for a strong write: a byte that an unordered strong write of another context, of another size or place, has
written as well is undefined (R317). -/
def SetsWord (s t : State) (l : Loc) (n v : Nat) : Prop :=
  (∀ k : Nat, k < n → (∀ h ∈ s.strongHits (some s.cur) l n, h.covers (l.add k) = false) → t.byteAt l.sp (l.a + k) = BitVec.ofNat 8 (v / 256 ^ k)) ∧
  SameBytesBut l n s t

/-- As `SetsX`, but that entries of the vector queue may have left, and caches, predictions and other hidden parts of the
part may have changed: the result, the other registers of the context, the following chain and every byte of memory. -/
def SetsXOnly (s t : State) (d : XReg) (v : Word) : Prop :=
  HoldsX t s d v ∧ (∀ r, r ≠ d → xGet t.me.x r = xGet s.me.x r) ∧ t.me.vec = s.me.vec ∧ t.me.rs = s.me.rs ∧
  NextChain s t ∧ SameBytes s t

/-- Register `d` holds `v`, the other registers of the context are as they were, and the following chain is next; memory is
said apart. -/
def Result (s t : State) (d : XReg) (v : Word) : Prop :=
  HoldsX t s d v ∧ (∀ r, r ≠ d → xGet t.me.x r = xGet s.me.x r) ∧ t.me.vec = s.me.vec ∧ t.me.rs = s.me.rs ∧ NextChain s t

/-- The executing context has parked on its instruction (R77): it waits for `w`, and its registers and every byte are as they
were. -/
def ParkedOn (s t : State) (w : Wait) : Prop :=
  t.me.st = .wait ∧ t.me.wait = some w ∧ t.me.pc = s.me.pc ∧ t.me.x = s.me.x ∧ t.me.vec = s.me.vec ∧ SameBytes s t

/-- With nothing pending, unit `v` has the next turn, and `r` is the state that gives it: the turns of units that kill come first in the
cycle (R78), then its bindings, and then the other turns. -/
def State.GivesTurn (s : State) (v : CtxId) (r : State) : Prop :=
  s.events = [] ∧
  ((∃ l, s.cycle.early = some (v :: l) ∧ r = { s with cycle := { s.cycle with early := some l, turned := v :: s.cycle.turned } }) ∨
   s.cycle.early = none ∧ s.cycle.bind = none ∧ ∃ l, s.todo = v :: l ∧ r = { s with todo := l })

/-- It is the turn of unit `v`, given by `r`; of its contexts in their order (R86, R286) `c` is the first that may issue, and `post`
come after it. -/
def State.TurnOf (s : State) (v c : CtxId) (r : State) (post : List CtxId) : Prop :=
  s.GivesTurn v r ∧ ∃ pre, r.unitOrder v = pre ++ c :: post ∧ (∀ k ∈ pre, r.eligible k = false) ∧ r.eligible c = true

/-- Context `c` begins to issue and fetches the words `ws` one after another, `F k` being the state after `k` of them (R114). -/
def State.Fetches (s : State) (c : CtxId) (ws : List Half) (F : Nat → State) : Prop :=
  F 0 = { s.focus c with free := s.free + 1, held := false, imid := 0 } ∧
  ∀ (k : Nat) (h : Half), ws[k]? = some h → (F k).fetchHalf ((F k).me.pc + BitVec.ofNat 56 (2 * k)).toNat = .ok (F (k + 1), h)

/-- A vector instruction may be performed: a user context whose side has lanes, with no write of `LPART` pending (R76, R83, R85). -/
def VecReady (s : State) : Prop :=
  kindOf s.cur = .user ∧ 0 < lanesOf (s.core s.cur.unit).lpart s.cur.side ∧ s.myCore.lpartPend = none

/-- A vector state that an execution can reach: a legal type, a length within it, and a budget (R53, R84, R183). -/
def VecOk (v : VecState) : Prop :=
  v.vclass ≤ 3 ∧ v.vregs ≤ 32 ∧ typeValid v.vt.toNat = true ∧ v.len ≤ vlMax v.rlen v.sew v.g

/-- A group of `G` registers that R185 admits. -/
def GroupOk (v : VecState) (n G : Nat) : Prop := G ≤ 8 ∧ n % G = 0 ∧ n + G ≤ v.vregs

/-- An rb operand that R189 admits: a group, or an `x` register. -/
def SrcOk (v : VecState) (b : VSrc) (G : Nat) : Prop :=
  match b with
  | .v r => GroupOk v r.toNat G
  | .x _ => True

/-- What a vector instruction leaves that writes registers `lo` to `lo + n − 1` only. -/
def VecFrame (lo n : Nat) (s t : State) : Prop :=
  (∀ j, j < 32 → j < lo ∨ lo + n ≤ j → t.me.vec.reg j = s.me.vec.reg j) ∧ t.me.vec.m = s.me.vec.m ∧
  t.me.vec.vl = s.me.vec.vl ∧ t.me.vec.vt = s.me.vec.vt ∧ t.me.vec.vw2 = s.me.vec.vw2 ∧ t.me.vec.vregs = s.me.vec.vregs ∧
  t.me.vec.vclass = s.me.vec.vclass ∧ t.me.x = s.me.x ∧ t.me.rs = s.me.rs ∧ NextChain s t ∧ SameBytes s t

/-- The elements below `vl` that `which` names hold `r`; every other element of the group, the tail among them, is as it
was. -/
def SetsElems (s t : State) (d : VNum) (which : Nat → Bool) (r : Nat → Nat) : Prop :=
  (∀ i, i < vlMax s.me.vec.rlen s.me.vec.sew s.me.vec.g →
    t.me.vec.elem d.toNat i s.me.vec.sew =
      if decide (i < s.me.vec.len) && which i then r i % 2 ^ s.me.vec.sew else s.me.vec.elem d.toNat i s.me.vec.sew) ∧
  VecFrame d.toNat s.me.vec.g s t

/-- `FLAGS` has gained the flags of the elements of a list, and none else. -/
def RaisesOver (s t : State) (l : List Nat) (fl : Nat → Raised) : Prop :=
  ∀ b : Nat, t.me.flags.getLsbD b = (s.me.flags.getLsbD b || l.any (fun i => (fl i).bits.getLsbD b))

/-- The active elements hold the results `r` and their flags are raised. -/
def VecResults (s t : State) (d : VNum) (k : MReg) (r : Nat → NRes) : Prop :=
  SetsElems s t d (s.me.vec.mbit k) (fun i => (r i).v) ∧ RaisesOver s t (s.me.vec.active k) (fun i => (r i).fl)

/-- Mask `d` holds `r` at the bits below `vl` that `which` names, keeps the others below `vl`, and is 0 from `vl` on; a write of
`m0` is discarded. -/
def SetsMaskBits (s t : State) (d : MReg) (which r : Nat → Bool) : Prop :=
  (∀ (j : MReg) (i : Nat), i < 8192 → (t.me.vec.m[j.toNat]'(j.isLt)).getLsbD i =
    if j = d ∧ d ≠ 0 then decide (i < s.me.vec.len) && (if which i then r i else (s.me.vec.m[j.toNat]'(j.isLt)).getLsbD i)
    else (s.me.vec.m[j.toNat]'(j.isLt)).getLsbD i) ∧
  t.me.vec.v = s.me.vec.v ∧ t.me.vec.vl = s.me.vec.vl ∧ t.me.vec.vt = s.me.vec.vt ∧ t.me.x = s.me.x ∧ NextChain s t ∧ SameBytes s t

/-- A command performed with a `STATUS` (R404), leaving what `P` says. Where it is that of the one entry of the mailbox's ring that
waits, the entry's `STATUS` is written besides, `MBXHEAD` moves past it, and event 4 is raised. -/
def Commands (i : Instr) (s : State) (status : Nat) (P : State → Prop) : Prop :=
  (s.fromMbx i = false → Answers i s P) ∧
  (s.fromMbx i = true → s.mgmt.ring.wf = true → s.mgmt.mbxtail = s.mgmt.mbxhead + 1 → Answers i s (fun t =>
    (∃ u, P u ∧ t = { u with mgmt := t.mgmt, hostOut := t.hostOut }) ∧ t.mgmt.mbxhead = s.mgmt.mbxhead + 1 ∧
    t.mgmt.mgmtev.getLsbD 4 = true ∧ ofBytes (t.mgmt.ring.readN (64 * (s.mgmt.mbxhead.toNat % 256) + 2) 2) = status))

/-! ## Save areas (R398) -/

/-- The bytes of a save area lie at the locations that `P` gives, and those of 64 aligned bytes at one place after another. -/
def State.AreaAt (s : State) (area : VAddr) (n : Nat) (P : Nat → Loc) : Prop :=
  ∀ k, k < n → s.fwLoc (area.toNat + k) = some (P k) ∧ P k = (P (k / 64 * 64)).add (k % 64)

/-- What writes at their homes may have changed (R259, R375, R377, R385): bytes, the undo log and its loss, what leases hold dirty, and the
decoded textures that dies keep. -/
def HomeWrites (s u : State) : Prop :=
  u = { s with st := u.st, dies := u.dies, leases := u.leases, sd0 := { s.sd0 with logloss := u.sd0.logloss },
               sd1 := { s.sd1 with logloss := u.sd1.logloss } } ∧
  ∀ d, u.die d = { s.die d with tex := (u.die d).tex, texels := (u.die d).texels }

/-- `AreaAt` holds of the state, and goes on to hold whatever is written into the area: it holds none of its own page tables, and the host
holds none of it (R385). -/
def State.AreaHeld (s : State) (area : VAddr) (n : Nat) (P : Nat → Loc) : Prop :=
  (∀ j k, j < n → k < n → P j = P k → j = k) ∧ (∀ k, k < n → s.hostWait (P k) = none) ∧
  ∀ u : State, HomeWrites s u →
    (∀ sp a, (∀ k, k < n → P k ≠ ⟨sp, a⟩) → u.byteAt sp a = s.byteAt sp a) → u.AreaAt area n P

/-- Field of `n` bytes at offset `off` of the area that lies at `P`. -/
def State.fieldAt (s : State) (P : Nat → Loc) (off n : Nat) : Nat :=
  ofBytes ((List.range n).map (fun k => s.byteAt (P (off + k)).sp (P (off + k)).a))

/-- Offset of vector register `n` in a save area, after those with a lower number whose `VDIRTY` bit is set. -/
def vecOffset (vdirty : BitVec 32) (vhwm n : Nat) : Nat :=
  0x3440 + ((List.range n).filter (fun j => vdirty.getLsbD j)).length * ((vhwm + 63) / 64 * 64)

/-- The fields `f` of a save area are those of a user context, by the layout of R398; `STATUS`, and the opaque `PACKET`, are said
apart. `stg` is the context's staging area and `spill` its spilled return-stack entries. -/
def SavedAs (f : Nat → Nat → Nat) (x : Ctx) (sstate : Byte) (stg : Nat → Byte) (spill : Nat → Nat) : Prop :=
  let v := x.vec
  let h := v.vhwm.toNat
  f 0x01 1 = sstate.toNat ∧ f 0x02 2 = 1 ∧ f 0x04 1 = v.vregs % 256 ∧ f 0x05 1 = v.vclass % 256 ∧ f 0x06 2 = 0 ∧
  f 0x08 4 = v.vdirty.toNat ∧ f 0x0C 2 = h ∧ f 0x0E 2 = 0 ∧ f 0x10 8 = x.fid.toNat ∧ f 0x20 4 = x.saveSize % 2 ^ 32 ∧
  (∀ k, k < 28 → f (0x24 + k) 1 = 0) ∧
  (∀ r : XReg, f (0x40 + 8 * r.toNat) 8 = (xGet x.x r).toNat) ∧ f 0x140 8 = x.pc.toNat ∧
  f 0x148 2 = v.vl.toNat ∧ f 0x14A 2 = v.vt.toNat ∧ f 0x14C 1 = v.vw2.toNat ∧ f 0x14D 1 = x.rs.depth % 256 ∧
  f 0x14E 1 = x.missack.toNat ∧ f 0x14F 1 = 0 ∧ f 0x150 4 = x.rs.spilled % 2 ^ 32 ∧ f 0x154 4 = x.strip.toNat ∧
  f 0x158 1 = x.flags.toNat ∧ f 0x159 1 = x.rnd.toNat ∧ f 0x15A 1 = x.chksb.toNat ∧ f 0x15B 1 = 0 ∧
  f 0x15C 4 = x.travBudget.toNat ∧ f 0x160 8 = x.snapVersion.toNat + 2 ^ 63 * x.snapValid.toNat ∧
  f 0x168 8 = x.causeCode.toNat + 2 ^ 16 * x.causeInfo.toNat ∧ f 0x170 8 = x.faddr.toNat ∧ f 0x178 8 = x.fpc.toNat ∧
  f 0x180 8 = x.spillBase.toNat ∧
  (∀ b, x.bundle = some b → f 0x188 8 = b.desc.toNat ∧ f 0x190 8 = b.record.toNat) ∧
  (∀ o, x.snap = some o → f 0x198 8 = o.desc.toNat ∧ f 0x1A0 8 = ((o.record.map BitVec.toNat).getD 0) ∧
    f 0x1A8 1 / 4 = o.stale.toNat) ∧
  f 0x1A8 1 % 2 = x.bundle.isSome.toNat ∧ f 0x1A8 1 / 2 % 2 = x.snap.isSome.toNat ∧
  (∀ k (hk : k < 16), f (0x1C0 + 8 * k) 8 = (x.rs.hw[k]'hk).toNat) ∧ (∀ k, k < 512 → f (0x240 + k) 1 = 0) ∧
  (∀ k, k < 64 →
    (x.slots.find? (fun q => q.handle.toNat / 2 ^ 40 % 64 == k) = none → f (0x440 + 16 * k) 16 = 0) ∧
    (∀ q, x.slots.find? (fun q => q.handle.toNat / 2 ^ 40 % 64 == k) = some q →
      f (0x440 + 16 * k) 8 = q.handle.toNat ∧ f (0x448 + 16 * k) 8 = q.promise.toNat)) ∧
  (∀ k, k < 4096 → f (0x840 + k) 1 = (stg k).toNat) ∧
  (∀ j k (hj : j < 8), 0 < j → k < 1024 → f (0x1840 + 1024 * (j - 1) + k) 1 = (v.m[j]'hj).toNat / 256 ^ k % 256) ∧
  (∀ n k, n < 32 → v.vdirty.getLsbD n = true → k < h → f (vecOffset v.vdirty h n + k) 1 = v.reg n / 256 ^ k % 256) ∧
  (∀ k, k < x.rs.spilled → f (0xC000 + 8 * k) 8 = spill k)

/-- A context holds what the fields `f` of a save area say, as R401 restores them, its snapshot's record where that is `live` (R338): each register whose `VDIRTY` bit is clear and each
byte beyond `VHWM` is 0, the completed strip count is `STRIP`, and the context is to leave `BINDING` for the state in `SSTATE`. -/
def RestoredFrom (f : Nat → Nat → Nat) (live : Bool) (y : Ctx) : Prop :=
  let v := y.vec
  let h := min 1024 (f 0x0C 2)
  v.vregs = f 0x04 1 ∧ v.vclass = f 0x05 1 ∧ v.vdirty = BitVec.ofNat 32 (f 0x08 4) ∧ v.vhwm.toNat = h ∧
  (∀ r : XReg, xGet y.x r = if r = 0 then 0 else BitVec.ofNat 64 (f (0x40 + 8 * r.toNat) 8)) ∧
  y.pc = evenVa (BitVec.ofNat 56 (f 0x140 8)) ∧ v.vl = BitVec.ofNat 14 (f 0x148 2) ∧ v.vt = BitVec.ofNat 16 (f 0x14A 2) ∧
  v.vw2 = BitVec.ofNat 3 (f 0x14C 1) ∧ y.rs.depth = min 16 (f 0x14D 1) ∧ y.missack = bitOf (f 0x14E 1) 0 ∧
  y.rs.spilled = f 0x150 4 ∧ y.strip = BitVec.ofNat 32 (f 0x154 4) ∧ y.stripDone = y.strip ∧
  y.flags = BitVec.ofNat 8 (f 0x158 1) ∧ y.rnd = BitVec.ofNat 4 (f 0x159 1) ∧ y.chksb = bitOf (f 0x15A 1) 0 ∧
  y.travBudget = BitVec.ofNat 32 (f 0x15C 4) ∧ y.snapVersion = BitVec.ofNat 48 (f 0x160 8) ∧ y.snapValid = bitOf (f 0x160 8) 63 ∧
  y.causeCode = BitVec.ofNat 8 (f 0x168 1) ∧ y.causeInfo = BitVec.ofNat 16 (f 0x16A 2) ∧
  y.faddr = BitVec.ofNat 64 (f 0x170 8) ∧ y.fpc = BitVec.ofNat 56 (f 0x178 8) ∧
  y.bundle = (if bitOf (f 0x1A8 1) 0 then some ⟨BitVec.ofNat 56 (f 0x188 8), BitVec.ofNat 56 (f 0x190 8)⟩ else none) ∧
  (bitOf (f 0x1A8 1) 1 = false → y.snap = none) ∧
  (bitOf (f 0x1A8 1) 1 = true → ∃ o, y.snap = some o ∧ o.desc = BitVec.ofNat 56 (f 0x198 8) ∧ o.stale = bitOf (f 0x1A8 1) 2 ∧
    o.record = if live = false ∨ BitVec.ofNat 56 (f 0x1A0 8) = 0 then none else some (BitVec.ofNat 56 (f 0x1A0 8))) ∧
  (∀ k (hk : k < 16), y.rs.hw[k]'hk = BitVec.ofNat 56 (f (0x1C0 + 8 * k) 8)) ∧
  (∀ q : CopySlot, q ∈ y.slots ↔ ∃ k, k < 64 ∧ f (0x440 + 16 * k) 8 ≠ 0 ∧ q.handle = BitVec.ofNat 64 (f (0x440 + 16 * k) 8) ∧
    q.promise = BitVec.ofNat 64 (f (0x448 + 16 * k) 8)) ∧
  (∀ j k (hj : j < 8), 0 < j → k < 1024 → (v.m[j]'hj).toNat / 256 ^ k % 256 = f (0x1840 + 1024 * (j - 1) + k) 1) ∧
  (∀ n k, n < 32 → k < 1024 → v.reg n / 256 ^ k % 256 =
    if v.vdirty.getLsbD n = true ∧ k < h then f (vecOffset v.vdirty h n + k) 1 else 0) ∧
  (∃ z, y.start = some z ∧ z.restored = some (if f 0x01 1 = 5 then .faulted else .run))

end Sys2Proof.Machine
end

