-- ==== Sys2Proof/Certificates/Slice0/Obligations.lean ====
section
/-! DEFINITION. The statements about this model, each a proposition of its own with the rules of spec/ that it formalises. -/

open Sys2Proof Sys2Proof.Machine

/-! ## Encoding and decoding -/

/-- R104 to R130: an encoded instruction is read back whole. For every well-formed instruction that has an encoding, with its
operands at every value that the encoding admits, and for every stall count and hint (R111), the decoder gives the instruction,
its latched operand and its marks, and reads exactly its words whatever stands after them. -/
def Obligations.DecodeOfEncode : Prop :=  ∀ (i : Instr) (o : Operand) (stall : BitVec 4) (lk nt : Bool) (ws rest : List Half),
    WellFormed i o = true → encodeMarked i o stall lk nt = some ws →
    decode (ws ++ rest) = .ok { instr := i, opd := o, stall := stall, lk := lk, nt := nt, n := ws.length }

/-- R113: what the decoder gives is well-formed: no chain with an operand outside its limit, an extra prefix field or an
unallocated selection decodes. R113, R107: the prefix part of `Decode` refuses by its reasons, after any run of prefix words
that it takes, in any order: four at most, two `PFX.I` and one of each other kind. The next prefix word is refused with reason 0
if it is the fifth; otherwise a third `PFX.I` with reason 2 and a repeated `PFX.R`, `PFX.P` or `PFX.W` with reason 1, whatever
follows. And a base word under a page of 8 to 15 is refused with reason 3, and the page and major. -/
def Obligations.DecodedIsWellFormed : Prop :=
  (∀ (ws : List Half) (d : Decoded), decode ws = .ok d → WellFormed d.instr d.opd = true) ∧
  (∀ (q : List (BitVec 2 × BitVec 9)) (rest : List Half),
     let count (k : BitVec 2) : Nat := (q.filter (fun p => p.1 = k)).length
     let pfx : List Half := q.map (fun p => prefixWord p.1 p.2)
     q.length ≤ 4 → count 0 ≤ 2 → (∀ k, k ≠ 0 → count k ≤ 1) →
       (∀ (k : BitVec 2) (a : BitVec 9),
         (q.length = 4 → decode (pfx ++ prefixWord k a :: rest) = .error (.illegal 0 none)) ∧
         (q.length < 4 → k = 0 → count 0 = 2 → decode (pfx ++ prefixWord k a :: rest) = .error (.illegal 2 none)) ∧
         (q.length < 4 → k ≠ 0 → count k = 1 → decode (pfx ++ prefixWord k a :: rest) = .error (.illegal 1 none))) ∧
       (∀ (a : BitVec 9) (h : Half), (2, a) ∈ q → 256 ≤ a.toNat → h.toNat < 0xF800 →
         ∃ f : FormKey, f.page = a.toNat / 32 ∧ f.major = h.toNat / 2048 ∧ decode (pfx ++ h :: rest) = .error (.illegal 3 (some f))))

/-- Words written out from the encoding tables and worked examples of spec/04_encoding.md (R104 to R126) decode to the
instructions that they stand for: a sanity statement over the families. -/
def Obligations.DecodeSpecWords : Prop :=  decodeTableWord 16 0x0328 = some (.add 3 1 2) ∧
  (decode [0xFB20, 0xF809, 0x3C2C]).toOption.map (·.instr) = some (.addi 20 9 300) ∧
  (decode [0xF809, 0x3C2C]).toOption.map (·.instr) = some (.addi 4 1 300) ∧
  decodeTableWord 16 0x3C2C = some (.addi 4 1 12) ∧
  (decode [0xF891, 0xF945, 0x7F67]).toOption.map (·.instr) = some (.li 7 0x01234567) ∧
  (decode [0xF889, 0x87AB]).toOption.map (·.instr) = some (.lis 7 0x89AB) ∧
  decodeTableWord 16 0xDD10 = some (.srd 5 0x10) ∧
  decodeTableWord 16 0xE601 = some (.swr 6 0x01) ∧
  (decode [0xFC28, 0xFA81, 0x414C]).toOption.map (·.instr) = some (.vfadd 9 2 (.v 3) 1 2) ∧
  (decode [0xFC80, 0x4C0F]).toOption.map (·.instr) = some (.fence 4 0x0F)

/-! ## The scalar instructions -/

/-- R158: the major-0 and major-1 forms but `ADD`, with their results as numbers; none of them raises a flag. R153 with R158,
R163, R165: `ADD`, `ADDI` and `LEA` add an offset through `FatAdd`: a plain pointer wraps modulo 2^64; a fat pointer keeps its
bits [63:56] and its sum [55:0] where the exact sum lies in 0 to 2^56 − 1, and otherwise the instruction traps `PTR_OVF` (code
0x05, `FADDR` and `CAUSE.INFO` 0, R181), with `x[rd]` unchanged. -/
def Obligations.IntegerArithmetic : Prop :=
  (∀ (s : State) (d a b : XReg),
     Answers (.sub d a b) s (fun t => SetsX s t d (BitVec.ofInt 64 (((s.rx a).toNat : Int) - (s.rx b).toNat))) ∧
     Answers (.and d a b) s (fun t => SetsX s t d (BitVec.ofNat 64 ((s.rx a).toNat &&& (s.rx b).toNat))) ∧
     Answers (.or d a b) s (fun t => SetsX s t d (BitVec.ofNat 64 ((s.rx a).toNat ||| (s.rx b).toNat))) ∧
     Answers (.xor d a b) s (fun t => SetsX s t d (BitVec.ofNat 64 ((s.rx a).toNat ^^^ (s.rx b).toNat))) ∧
     Answers (.slt d a b) s (fun t => SetsX s t d (if (s.rx a).toInt < (s.rx b).toInt then 1 else 0)) ∧
     Answers (.sltu d a b) s (fun t => SetsX s t d (if (s.rx a).toNat < (s.rx b).toNat then 1 else 0)) ∧
     Answers (.seq d a b) s (fun t => SetsX s t d (if s.rx a = s.rx b then 1 else 0))) ∧
  (∀ (s : State) (d a b : XReg) (imm : Word) (sc : BitVec 2),
     ∀ p ∈ [(Instr.add d a b, (s.rx b).toInt), (.addi d a imm, imm.toInt), (.lea d a b sc, (s.rx b).toInt * (2 ^ sc.toNat : Nat))],
       let f := (s.rx a).toNat / 2 ^ 59
       let sum := (((s.rx a).toNat % 2 ^ 56 : Nat) : Int) + p.2
       ((f = 0 ∨ f = 31) → Answers p.1 s (fun t => SetsX s t d (BitVec.ofInt 64 ((s.rx a).toNat + p.2)))) ∧
       (f ≠ 0 → f ≠ 31 → 0 ≤ sum → sum < 2 ^ 56 →
         Answers p.1 s (fun t => SetsX s t d (BitVec.ofInt 64 (((s.rx a).toNat / 2 ^ 56 * 2 ^ 56 : Nat) + sum)))) ∧
       (f ≠ 0 → f ≠ 31 → (sum < 0 ∨ 2 ^ 56 ≤ sum) → Faults p.1 s 0x05 0 0))

/-- R159 and R160: the shifts by register and the multiplies, with their results as numbers. -/
def Obligations.ShiftsAndMultiplies : Prop :=  ∀ (s : State) (d a b : XReg),
    let A := (s.rx a).toNat
    let n := (s.rx b).toNat % 64
    Answers (.sll d a b) s (fun t => SetsX s t d (BitVec.ofNat 64 (A * 2 ^ n))) ∧
    Answers (.srl d a b) s (fun t => SetsX s t d (BitVec.ofNat 64 (A / 2 ^ n))) ∧
    Answers (.sra d a b) s (fun t => SetsX s t d (BitVec.ofInt 64 ((s.rx a).toInt / (2 ^ n : Nat)))) ∧
    Answers (.ror d a b) s (fun t => SetsX s t d (BitVec.ofNat 64 (A / 2 ^ n + A * 2 ^ (64 - n)))) ∧
    Answers (.mul d a b) s (fun t => SetsX s t d (BitVec.ofInt 64 ((s.rx a).toInt * (s.rx b).toInt))) ∧
    Answers (.mhigh d a b) s (fun t => SetsX s t d (BitVec.ofInt 64 ((s.rx a).toInt * (s.rx b).toInt / 2 ^ 64))) ∧
    Answers (.mhighu d a b) s (fun t => SetsX s t d (BitVec.ofNat 64 (A * (s.rx b).toNat / 2 ^ 64))) ∧
    Answers (.mhighx d a b) s (fun t => SetsX s t d (BitVec.ofInt 64 ((s.rx a).toInt * (s.rx b).toNat / 2 ^ 64)))

/-- R161 with R146: the divides. A zero divisor gives all ones or the dividend and raises `DZ` (bit 1); −2^63 by −1 raises
nothing; the result is interlocked, so the next instruction reads it. -/
def Obligations.DivideResults : Prop :=  ∀ (s : State) (d a b : XReg),
    let z := s.rx b = 0
    let dz : BitVec 8 := if s.rx b = 0 then 2 else 0
    Answers (.div d a b) s (fun t =>
      SetsXFlags s t d (if z then -1 else BitVec.ofInt 64 ((s.rx a).toInt.tdiv (s.rx b).toInt)) dz) ∧
    Answers (.divu d a b) s (fun t => SetsXFlags s t d (if z then -1 else BitVec.ofNat 64 ((s.rx a).toNat / (s.rx b).toNat)) dz) ∧
    Answers (.rem d a b) s (fun t =>
      SetsXFlags s t d (if z then s.rx a else
        BitVec.ofInt 64 ((s.rx a).toInt - (s.rx b).toInt * (s.rx a).toInt.tdiv (s.rx b).toInt)) dz) ∧
    Answers (.remu d a b) s (fun t => SetsXFlags s t d (if z then s.rx a else BitVec.ofNat 64 ((s.rx a).toNat % (s.rx b).toNat)) dz) ∧
    ∀ i ∈ [Instr.div d a b, .divu d a b, .rem d a b, .remu d a b], Answers i s (fun t => t.rx d = xGet t.me.x d)

/-- R162: the bit counts, the reversal and the extensions. The counts and the reversal are said by the bits of their results.
R163 and R164: the forms with an immediate but `ADDI`, for every immediate. -/
def Obligations.BitAndImmediateForms : Prop :=
  (∀ (s : State) (d a : XReg),
     let A := s.rx a
     Answers (.clz d a) s (fun t => ∃ n : Nat, n ≤ 64 ∧ (∀ k : Nat, 64 - n ≤ k → k < 64 → A.getLsbD k = false) ∧
       (n < 64 → A.getLsbD (63 - n) = true) ∧ SetsX s t d (BitVec.ofNat 64 n)) ∧
     Answers (.ctz d a) s (fun t => ∃ n : Nat, n ≤ 64 ∧ (∀ k : Nat, k < n → A.getLsbD k = false) ∧
       (n < 64 → A.getLsbD n = true) ∧ SetsX s t d (BitVec.ofNat 64 n)) ∧
     Answers (.popc d a) s (fun t => SetsX s t d (BitVec.ofNat 64 ((List.range 64).filter (fun k => A.getLsbD k)).length)) ∧
     Answers (.brev d a) s (fun t => ∃ v : Word, (∀ k : Nat, k < 64 → v.getLsbD (63 - k) = A.getLsbD k) ∧ SetsX s t d v) ∧
     Answers (.sextb d a) s (fun t => SetsX s t d ((A.setWidth 8).signExtend 64)) ∧
     Answers (.sexth d a) s (fun t => SetsX s t d ((A.setWidth 16).signExtend 64)) ∧
     Answers (.sextw d a) s (fun t => SetsX s t d ((A.setWidth 32).signExtend 64)) ∧
     Answers (.zextw d a) s (fun t => SetsX s t d ((A.setWidth 32).setWidth 64))) ∧
  (∀ (s : State) (d a : XReg) (imm : Word) (n : BitVec 6) (h : BitVec 16),
     Answers (.andi d a imm) s (fun t => SetsX s t d (BitVec.ofNat 64 ((s.rx a).toNat &&& imm.toNat))) ∧
     Answers (.ori d a imm) s (fun t => SetsX s t d (BitVec.ofNat 64 ((s.rx a).toNat ||| imm.toNat))) ∧
     Answers (.xori d a imm) s (fun t => SetsX s t d (BitVec.ofNat 64 ((s.rx a).toNat ^^^ imm.toNat))) ∧
     Answers (.slti d a imm) s (fun t => SetsX s t d (if (s.rx a).toInt < imm.toInt then 1 else 0)) ∧
     Answers (.slli d a n) s (fun t => SetsX s t d (BitVec.ofNat 64 ((s.rx a).toNat * 2 ^ n.toNat))) ∧
     Answers (.srli d a n) s (fun t => SetsX s t d (BitVec.ofNat 64 ((s.rx a).toNat / 2 ^ n.toNat))) ∧
     Answers (.srai d a n) s (fun t => SetsX s t d (BitVec.ofInt 64 ((s.rx a).toInt / (2 ^ n.toNat : Nat)))) ∧
     Answers (.li d imm) s (fun t => SetsX s t d imm) ∧
     Answers (.lis d h) s (fun t => SetsX s t d (BitVec.ofNat 64 ((s.rx d).toNat * 65536 + h.toNat))))

/-- R80, R81, R97: `x0` reads 0 in every state, an instruction of one register result that names `x0` leaves every register as
it was, and the result of a `SIMPLE` or interlocked producer is read by the next instruction. R96 and R97: after a producer of
latency λ with stall count s, its register reads as the old or the new value while 1 + s < λ, and as the new value from then on;
which of the two is left open. Which of the two is a free value (log entry 3). -/
def Obligations.RegistersAndStallCounts : Prop :=
  ((∀ s : State, s.rx 0 = 0) ∧
   (∀ (s : State) (v : Word), (s.wx 0 v).me.x = s.me.x) ∧
   (∀ (s : State) (v : Word) (lat : Nat), (s.wxLat 0 v lat).me.x = s.me.x) ∧
   (∀ (s : State) (d : XReg) (v : Word), d ≠ 0 → (s.wx d v).finish.rx d = v)) ∧
  (∀ (s : State) (d : XReg) (v : Word) (lat : Nat), d ≠ 0 →
     (1 + s.istall.toNat < lat → (s.wxLat d v lat).finish.rx d = xGet s.me.x d ∨ (s.wxLat d v lat).finish.rx d = v) ∧
     (lat ≤ 1 + s.istall.toNat → (s.wxLat d v lat).finish.rx d = v))

/-- R116 and R171 to R173: the branches and jumps without a return address. An offset counts halfwords from the base word, and a
jump by register to an odd address faults with `MISALIGN` (code 0x06, `CAUSE.INFO`[19:16] 0xF, `FADDR` the register). R173 to
R175: calls and returns that the hardware entries hold. `CALL` and `CALLR` push the address of the halfword after the base word;
`RET` goes to the newest address; nothing but the return stack and the program counter changes. `RET` on an empty stack faults
with `RSTACK_EMPTY` (code 0x19, `FADDR` 0). R174 and R175: a call on sixteen full entries spills the oldest to `SPILLBASE` + 8 ×
`SPILLED`, 8 bytes zero-extended and least significant first, moves the others down and pushes; past `SPILLSIZE` it faults with
`RSTACK_OVF` (code 0x18), `FADDR` the address that it would have written, and pushes nothing. R173 to R175: a `RET` with no
entry on the stack takes the newest spilled one from `SPILLBASE` + 8 × (`SPILLED` − 1), its low 56 bits the program counter,
where bit 0 of it is 0; a value with bit 0 set faults with `MISALIGN` (code 0x06), `FADDR` the value and `CAUSE.INFO`[19:16]
0xF, and nothing is popped, as does such a value on the stack. A fill that has no translation faults with `SPILL_XLATE` (code
0x12), `CAUSE.INFO`[16] 1, and one at an address that is not a multiple of 8 with `MISALIGN`, `CAUSE.INFO`[19:16] 3. The value
is what the core path sees (R263; `UnseenWrites`). -/
def Obligations.BranchesCallsReturns : Prop :=
  (∀ (s : State) (d a : XReg) (imm : Word),
     let base := s.me.pc + BitVec.ofNat 56 (2 * (s.ilen - 1))
     let dest (v : Word) : VAddr := base + (v.setWidth 56 + v.setWidth 56)
     let goes (t : State) (c : Prop) (v : Word) : Prop :=
       (c → t.me.pc = dest v) ∧ (¬c → NextChain s t) ∧ OnlyPc s t ∧ SameBytes s t
     Answers (.beqz d imm) s (fun t => goes t ((s.rx d).toInt = 0) imm) ∧
     Answers (.bnez d imm) s (fun t => goes t ((s.rx d).toInt ≠ 0) imm) ∧
     Answers (.bltz d imm) s (fun t => goes t ((s.rx d).toInt < 0) imm) ∧
     Answers (.bgez d imm) s (fun t => goes t (0 ≤ (s.rx d).toInt) imm) ∧
     (s.opd = .imm imm → Answers .j s (fun t => goes t True imm)) ∧
     ((s.rx a).getLsbD 0 = false → Answers (.jr a) s (fun t => t.me.pc = (s.rx a).setWidth 56 ∧ OnlyPc s t ∧ SameBytes s t)) ∧
     ((s.rx a).getLsbD 0 = true → Faults (.jr a) s 0x06 0xF (s.rx a)) ∧
     ((s.rx a).getLsbD 0 = true → Faults (.callr a) s 0x06 0xF (s.rx a))) ∧
  (∀ (s : State) (a : XReg) (imm : Word),
     let rs := s.me.rs
     let next := s.me.pc + BitVec.ofNat 56 (2 * s.ilen)
     let base := s.me.pc + BitVec.ofNat 56 (2 * (s.ilen - 1))
     let pushed (t : State) : Prop := t.me.rs.depth = rs.depth + 1 ∧ t.me.rs.spilled = rs.spilled ∧
       (∀ k : Fin 16, k.val < rs.depth → t.me.rs.hw[k] = rs.hw[k]) ∧ t.me.rs.hw[rs.depth]? = some next
     let only (t : State) : Prop := SameBytes s t ∧
       t = { s with me := { s.me with rs := t.me.rs, pc := t.me.pc, haz := t.me.haz, stall := t.me.stall, missack := t.me.missack } }
     (rs.depth < 16 → s.opd = .imm imm →
       Answers .call s (fun t => pushed t ∧ t.me.pc = base + (imm.setWidth 56 + imm.setWidth 56) ∧ only t)) ∧
     (rs.depth < 16 → (s.rx a).getLsbD 0 = false →
       Answers (.callr a) s (fun t => pushed t ∧ t.me.pc = (s.rx a).setWidth 56 ∧ only t)) ∧
     (∀ v : VAddr, 0 < rs.depth → rs.hw[rs.depth - 1]? = some v → v.getLsbD 0 = false →
       Answers .ret s (fun t => t.me.pc = v ∧ t.me.rs = { rs with depth := rs.depth - 1 } ∧ only t)) ∧
     (rs.depth = 0 → rs.spilled = 0 → Faults .ret s 0x19 0 0)) ∧
  (∀ (s : State) (imm : Word) (t1 t2 : State) (l : Loc),
     let rs := s.me.rs
     let va := (s.me.spillBase.toNat + 8 * rs.spilled) % 2 ^ 56
     s.memWf → rs.depth = 16 → s.opd = .imm imm →
       (s.spillSize < 8 * (rs.spilled + 1) → Faults .call s 0x18 0 (BitVec.ofNat 64 va)) ∧
       (8 * (rs.spilled + 1) ≤ s.spillSize → va % 8 = 0 → s.locate s.spillReq 2 va = .ok (t1, l) → t1.claim true va l = .ok t2 →
         Answers .call s (fun t => t.me.rs.depth = 16 ∧ t.me.rs.spilled = rs.spilled + 1 ∧
           (∀ k : Fin 15, t.me.rs.hw[k.val] = rs.hw[k.val + 1]) ∧
           t.me.rs.hw[15] = s.me.pc + BitVec.ofNat 56 (2 * s.ilen) ∧
           t.me.x = s.me.x ∧ t.me.flags = s.me.flags ∧
           (∀ k : Nat, k < 8 → t.byteAt l.sp (l.a + k) = BitVec.ofNat 8 (rs.hw[0].toNat / 256 ^ k)) ∧ SameBytesBut l 8 s t))) ∧
  (∀ (s t1 t2 : State) (l : Loc),
     let rs := s.me.rs
     let va := (s.me.spillBase.toNat + 8 * (rs.spilled - 1)) % 2 ^ 56
     let v := BitVec.ofNat 64 (ofBytes (s.st.getSeen s.free pCore s.me.paths l 8))
     (∀ w : VAddr, 0 < rs.depth → rs.hw[rs.depth - 1]? = some w → w.getLsbD 0 = true → Faults .ret s 0x06 0xF (w.setWidth 64)) ∧
     (rs.depth = 0 → 0 < rs.spilled →
       (va % 8 ≠ 0 → Faults .ret s 0x06 3 (BitVec.ofNat 64 va)) ∧
       (∀ a, va % 8 = 0 → s.locate s.spillReq 1 va = .error (.xlate a) → Faults .ret s 0x12 1 (BitVec.ofNat 64 a)) ∧
       (va % 8 = 0 → s.locate s.spillReq 1 va = .ok (t1, l) → t1.claim false va l = .ok t2 →
         (v.getLsbD 0 = true → Faults .ret s 0x06 0xF v) ∧
         (v.getLsbD 0 = false → Answers .ret s (fun t => t.me.pc = v.setWidth 56 ∧ t.me.rs = { rs with spilled := rs.spilled - 1 } ∧
           t.me.x = s.me.x ∧ t.me.vec = s.me.vec ∧ t.others = s.others ∧ SameBytes s t ∧
           t.me.flags = if t2.flagged va then s.me.flags ||| 0x80 else s.me.flags)))))

/-- R166 and R168: the scalar loads, where they find their bytes by R246 in a segment that is not `BV`, or in a doorbell word
(R33). Each reads n bytes, least significant first, as the core path sees them (R263; `UnseenWrites`), extends them as its form
says and leaves every byte of memory and every other register of the context; what the path has now seen it sees from then on
(R321); a flagged region sets `POISONLESS`, bit 7 of `FLAGS` (R376). While the permission for the line is being obtained (R369,
R375) it is held. R166: `LQ` to an even register takes bytes 0 to 7 to `x[rd]` and 8 to 15 to `x[rd+1]`; to an odd one it traps
`ILLEGAL` with reason 0x7 (page 0, major 18). R262, R263: the bytes that a path of a context sees. Each is the byte that the
stores hold, or one that a write not yet ordered before the path has replaced; it is what the stores hold where no such write
has reached it. Which of the two a byte is is a free value, as is what a doorbell word of another package holds (log entry 3).
-/
def Obligations.ScalarLoads : Prop :=
  (∀ (s t1 : State) (d a : XReg) (imm ea : Word) (l : Loc),
     let va := ea.toNat % 2 ^ 56
     (∀ p ∈ ([(Instr.ld, 8, false), (.lw, 4, true), (.lwu, 4, false), (.lh, 2, true), (.lhu, 2, false), (.lb, 1, true),
         (.lbu, 1, false)] : List ((XReg → XReg → Word → Instr) × Nat × Bool)),
       let v := ofBytes (s.st.getSeen s.free pCore s.me.paths l p.2.1)
       fatAdd (s.rx a) imm.toInt = some ea → va % p.2.1 = 0 → s.isDoorbell va = false →
       s.locate s.req 1 va = .ok (t1, l) → s.attr va ≠ 3 →
       (∀ t2, t1.claim false va l = .ok t2 → Answers (p.1 d a imm) s (fun t =>
         HoldsX t s d (if p.2.2 then sextNat (8 * p.2.1) v else BitVec.ofNat 64 v) ∧
         (∀ r, r ≠ d → xGet t.me.x r = xGet s.me.x r) ∧ NextChain s t ∧ SameBytes s t ∧ t.others = s.others ∧
         t.me = { s.me with x := t.me.x, pc := t.me.pc, haz := t.me.haz, stall := t.me.stall, missack := t.me.missack,
                            flags := if t2.flagged va then s.me.flags ||| 0x80 else s.me.flags,
                            paths := (s.me.saw s.free pCore l p.2.1).paths })) ∧
       (∀ u, t1.claim false va l = .error (.hold u) → Held (p.1 d a imm) s u)) ∧
     (∀ q off : Nat, fatAdd (s.rx a) imm.toInt = some ea → va % 8 = 0 → s.region va = .doorbell q off →
       (off = 0 → Answers (.ld d a imm) s (fun t => SetsX s t d ((s.queue q).tail.setWidth 64))) ∧
       (off = 8 → Answers (.ld d a imm) s (fun t => SetsX s t d ((s.queue q).head.setWidth 64))) ∧
       (off = 16 → Answers (.ld d a imm) s (fun t => ∃ v : Word, SetsX s t d v ∧ v.toNat / 2 ^ 17 = 0 ∧
         v.toNat % 256 = (match (s.queue q).state with
           | .disabled => 0
           | .active => 1
           | .stopped => 2
           | .error => 3) ∧
         v.toNat / 256 % 256 = (s.queue q).cause.toNat ∧ (v.getLsbD 16 = true ↔ ∃ k ∈ s.packets, k.ref.q = q))))) ∧
  (∀ (s t1 t2 : State) (d a : XReg) (imm ea : Word) (l : Loc),
     let va := ea.toNat % 2 ^ 56
     let bs := s.st.getSeen s.free pCore s.me.paths l 16
     (d.toNat % 2 = 1 → Faults (.lq d a imm) s 0x01 (BitVec.ofNat 16 (7 + 16 * 18)) 0) ∧
     (d.toNat % 2 = 0 → fatAdd (s.rx a) imm.toInt = some ea → va % 16 = 0 → s.isDoorbell va = false →
       s.locate s.req 1 va = .ok (t1, l) → s.attr va ≠ 3 → t1.claim false va l = .ok t2 →
       Answers (.lq d a imm) s (fun t =>
         HoldsX t s d (BitVec.ofNat 64 (ofBytes (bs.take 8))) ∧
         xGet t.me.x (d + 1) = BitVec.ofNat 64 (ofBytes (bs.drop 8)) ∧
         (∀ r, r ≠ d → r ≠ d + 1 → xGet t.me.x r = xGet s.me.x r) ∧ NextChain s t ∧ SameBytes s t))) ∧
  (∀ (st : Stores) (free path n k : Nat) (w : List PathWrite) (l : Loc), k < n →
     let now := (st.of l.sp).read (l.a + k)
     (∀ b, (st.getSeen free path w l n)[k]? = some b → b = now ∨ ∃ e ∈ w, e.unseen.getLsbD path = true ∧ e.oldAt (l.add k) = some b) ∧
     ((∀ e ∈ w, e.unseen.getLsbD path = false ∨ e.oldAt (l.add k) = none) → (st.getSeen free path w l n)[k]? = some now))

/-- R167 and R168: the scalar stores to a place that R246 gives outside `BV` segments. Each writes the low n bytes of its data
register (for `SQ`, of the pair), least significant first, at the location of its address, and no other byte; no register
changes. While the permission for the line is being obtained, or the host's copy of it is out (R369, R375, R385), it is held.
R168 and R181: the checks of a scalar access in their order, for every load and store form and every size: an address that is
not a multiple of n faults with `MISALIGN` (code 0x06) with `FADDR` the address and log2 n in `CAUSE.INFO`[19:16]; an aligned
access of a doorbell page by a form other than the 8-byte ones, or past its three words (R33), faults with `DBELL_ACCESS` (code
0x07). Whether another package freezes a tail write is a free value (log entry 3). -/
def Obligations.ScalarStores : Prop :=
  (∀ (s t1 : State) (d a : XReg) (imm ea : Word) (l : Loc),
     ∀ p ∈ ([(Instr.sd, 8, 0), (.sw, 4, 0), (.sh, 2, 0), (.sb, 1, 0), (.sq, 16, 1)] :
         List ((XReg → XReg → Word → Bool → Instr) × Nat × Nat)),
       let va := ea.toNat % 2 ^ 56
       let v := (s.rx d).toNat + p.2.2 * 2 ^ 64 * (s.rx (d ||| 1)).toNat
       s.memWf → (p.2.2 = 1 → d.toNat % 2 = 0) →
       fatAdd (s.rx a) imm.toInt = some ea → va % p.2.1 = 0 → s.isDoorbell va = false →
       s.locate s.req 2 va = .ok (t1, l) → (s.attr va ≠ 3 ∨ l.sp = .staging) →
       (∀ t2, t1.claim true va l = .ok t2 → Answers (p.1 d a imm false) s (fun t =>
         (∀ k : Nat, k < p.2.1 → t.byteAt l.sp (l.a + k) = BitVec.ofNat 8 (v / 256 ^ k)) ∧ SameBytesBut l p.2.1 s t ∧
         NextChain s t ∧ t.others = s.others ∧
         t.me = { s.me with pc := t.me.pc, haz := t.me.haz, stall := t.me.stall, missack := t.me.missack, paths := t.me.paths })) ∧
       (∀ u, t1.claim true va l = .error (.hold u) → Held (p.1 d a imm false) s u)) ∧
  (∀ (s : State) (d a : XReg) (imm ea : Word) (bj : Bool),
     ∀ p ∈ ([(Instr.ld d a imm, 8, 3), (.lw d a imm, 4, 2), (.lwu d a imm, 4, 2), (.lh d a imm, 2, 1), (.lhu d a imm, 2, 1),
         (.lb d a imm, 1, 0), (.lbu d a imm, 1, 0), (.lq d a imm, 16, 4), (.sd d a imm bj, 8, 3), (.sw d a imm bj, 4, 2),
         (.sh d a imm bj, 2, 1), (.sb d a imm bj, 1, 0), (.sq d a imm bj, 16, 4)] : List (Instr × Nat × Nat)),
       let va := ea.toNat % 2 ^ 56
       (p.2.1 = 16 → d.toNat % 2 = 0) → fatAdd (s.rx a) imm.toInt = some ea →
       (va % p.2.1 ≠ 0 → Faults p.1 s 0x06 (BitVec.ofNat 16 p.2.2) ea) ∧
       (va % p.2.1 = 0 → s.isDoorbell va = true → (p.2.1 ≠ 8 ∨ 24 ≤ va % 4096) → Faults p.1 s 0x07 0 ea))

/-! ## The system registers -/

/-- R177 with R101: `SRD` of a register that the context's kind may read gives its value, after the earlier entries of the
vector queue where the read resynchronises, and changes no other register; one that it may not read traps `ILLEGAL` with reason
0x8 (page 0, major 27). R102: where the fields of each register lie. A register reads as its fields at their bits, and 0 at
every bit that the table leaves out; the flags are bits 0 to 6 of `FLAGS` in the table's order. The table of R101 for the kinds
of context of a core side: which register each may read and write. A number that the table does not list is neither read nor
written. -/
def Obligations.SystemRegisterReads : Prop :=
  (∀ (s : State) (d : XReg) (n : BitVec 8),
     let resyncs := n = 0x00 ∨ n = 0x08 ∨ n = 0x09
     ((sysAccess (kindOf s.cur) n.toNat).rd = false →
       Faults (.srd d n) s 0x01 (BitVec.ofNat 16 (8 + 16 * 27)) 0) ∧
     ((sysAccess (kindOf s.cur) n.toNat).rd = true → ¬resyncs → Answers (.srd d n) s (fun t => SetsX s t d (s.sysRead n.toNat))) ∧
     ((sysAccess (kindOf s.cur) n.toNat).rd = true → resyncs → Answers (.srd d n) s (fun t =>
       HoldsX t s d (s.sysRead n.toNat) ∧ (∀ r, r ≠ d → xGet t.me.x r = xGet s.me.x r) ∧ NextChain s t ∧ SameBytes s t ∧
       (kindOf s.cur = .user → ∀ e ∈ t.mySide.vq, e.slot ≠ s.cur.slot)))) ∧
  ((∀ s : State,
     let x := s.me
     let r (n : Nat) : Nat := (s.sysRead n).toNat
     r 0x00 = x.flags.toNat ∧ r 0x01 = x.rnd.toNat ∧ r 0x02 = x.strip.toNat ∧
     r 0x03 = x.snapVersion.toNat + (if x.snapValid then 2 ^ 63 else 0) ∧
     r 0x04 = x.travBudget.toNat ∧ r 0x05 = x.spillBase.toNat ∧ r 0x06 = x.pdid.toNat ∧ r 0x07 = x.chksb.toNat ∧
     r 0x08 = x.vec.vdirty.toNat ∧ r 0x09 = x.vec.vhwm.toNat ∧ r 0x0A = x.causeCode.toNat + 2 ^ 16 * x.causeInfo.toNat ∧
     r 0x0B = x.faddr.toNat ∧ r 0x0C = x.fpc.toNat ∧ r 0x0D = x.vec.vl.toNat ∧
     r 0x10 = (s.die (dieOf s.cur)).dcyc.toNat ∧ r 0x11 = s.myCore.lpart.toNat ∧ r 0x12 = s.myCore.share.toNat ∧
     r 0x13 = s.myCore.lsplit.toNat ∧ r 0x14 = (s.pod (podOf s.cur)).poolgrp.toNat ∧ r 0x15 = s.myCore.tagsel.toNat ∧
     (∀ b, b < 64 → (s.sysRead 0x16).getLsbD b = s.myCore.tagen.getLsbD (64 * s.myCore.tagsel.toNat + b) ∧
       (s.sysRead 0x17).getLsbD b = s.myCore.tagpend.getLsbD (64 * s.myCore.tagsel.toNat + b)) ∧
     r 0x18 = s.myCore.spawnlim.toNat ∧ r 0x19 = (s.die (dieOf s.cur)).agelim.toNat) ∧
   (∀ f : Raised, ∀ b : Nat, f.bits.getLsbD b = (([f.nv, f.dz, f.of, f.uf, f.nx, f.sat, f.rnge])[b]?).getD false)) ∧
  ((∀ n : BitVec 8, (sysAccess .user n.toNat).rd = true ↔ n.toNat ≤ 0x0D ∨ 0x10 ≤ n.toNat ∧ n.toNat ≤ 0x14) ∧
   (∀ n : BitVec 8, (sysAccess .user n.toNat).wr = true ↔ n = 0 ∨ n = 1 ∨ n = 2 ∨ n = 4) ∧
   (∀ n : BitVec 8, (sysAccess .message n.toNat).rd = true ↔
     n ∈ [0x00, 0x01, 0x03, 0x05, 0x06, 0x07, 0x0A, 0x0B, 0x0C, 0x10, 0x11, 0x15, 0x16, 0x17, 0x18]) ∧
   (∀ n : BitVec 8, (sysAccess .message n.toNat).wr = true ↔ n = 0 ∨ n = 1) ∧
   (∀ n : BitVec 8, (sysAccess .firmware n.toNat).rd = true ↔
     n ∈ [0x00, 0x01, 0x03, 0x05, 0x06, 0x07, 0x0A, 0x0B, 0x0C] ∨ 0x10 ≤ n.toNat ∧ n.toNat ≤ 0x19) ∧
   (∀ n : BitVec 8, (sysAccess .firmware n.toNat).wr = true ↔
     n ∈ [0x00, 0x01, 0x05, 0x07, 0x0A, 0x0B, 0x0C] ∨ 0x11 ≤ n.toNat ∧ n.toNat ≤ 0x19))

/-- R178 with R101 to R103: `SWR` to a context register takes the bits of its fields and ignores the others; a kind that may not
write it traps `ILLEGAL` with reason 0x8 (page 0, major 28), and so does a mode of 5 to 7 written to `RND`, both unchanged. No
`x` register and no byte of memory changes. R178 with R102, R103, R94, R98, R248, R74 and R17: the writes with a further effect
that the table of steps names apart, each made by `SWR` of its register and by the step of its own name with the data register
in the latch. `SHARE` stores at most 64; setting `CHKSB` makes every register safe, and any other write of it leaves the
producers pending; `TAGEN` and `TAGPEND` act on the quarter that `TAGSEL` selects, and a 1 clears a `TAGPEND` bit. R85, R103 and
R247: a write of `LPART` or `LSPLIT` is pending at once, with its writer held, and takes effect when its step comes: `LPART` in
a later cycle in which both vector queues of the core are empty and not before, `LSPLIT` with the scratch bytes at and above the
new size lost and every other byte kept. A partition of 5 to 7 traps `ILLEGAL` with reason 0x8, and one under which a bound
firing of a side has a budget that its lanes no longer fit (R53) with `LPART_BUSY` (code 0x2B); both leave `LPART` as it was. A
second write of `LPART` while one is pending takes its place by the model's choice (log entry 113). -/
def Obligations.SystemRegisterWrites : Prop :=
  (∀ (s : State) (d : XReg) (n : BitVec 8),
     let v := s.rx d
     let k := kindOf s.cur
     let may := (sysAccess k n.toNat).wr = true
     let done (t : State) : Prop := NextChain s t ∧ t.me.x = s.me.x ∧ t.me.vec = s.me.vec ∧ SameBytes s t
     (¬may → Faults (.swr d n) s 0x01 (BitVec.ofNat 16 (8 + 16 * 28)) 0) ∧
     (may → n = 0x01 → 4 < v.toNat % 8 → Faults (.swr d n) s 0x01 (BitVec.ofNat 16 (8 + 16 * 28)) 0) ∧
     (may → n = 0x01 → v.toNat % 8 ≤ 4 → Answers (.swr d n) s (fun t => t.me.rnd = v.setWidth 4 ∧ done t)) ∧
     (may → n = 0x04 → Answers (.swr d n) s (fun t => t.me.travBudget = v.setWidth 32 ∧ done t)) ∧
     (may → n = 0x05 → Answers (.swr d n) s (fun t => t.me.spillBase = v.setWidth 56 ∧ done t)) ∧
     (may → n = 0x0A → Answers (.swr d n) s (fun t => t.me.causeCode = v.setWidth 8 ∧ t.me.causeInfo = v.extractLsb' 16 16 ∧ done t)) ∧
     (may → n = 0x0B → Answers (.swr d n) s (fun t => t.me.faddr = v ∧ done t)) ∧
     (may → n = 0x0C → Answers (.swr d n) s (fun t => t.me.fpc = v.setWidth 56 ∧ done t)) ∧
     (may → n = 0x15 → Answers (.swr d n) s (fun t => t.myCore.tagsel = v.setWidth 2 ∧ done t)) ∧
     (may → n = 0x18 → Answers (.swr d n) s (fun t => t.myCore.spawnlim = v.setWidth 16 ∧ done t))) ∧
  (∀ (s : State) (d : XReg),
     let v := s.rx d
     let k := kindOf s.cur
     let q := s.myCore.tagsel.toNat
     s.opd = .reg d →
     ((sysAccess k 0x00).wr = true → ∀ i ∈ [Instr.swr d 0x00, .swrFlags], Answers i s (fun t => t.me.flags = v.setWidth 8 ∧ NextChain s t ∧ t.me.x = s.me.x ∧ SameBytes s t)) ∧
     ((sysAccess k 0x02).wr = true → ∀ i ∈ [Instr.swr d 0x02, .swrStrip], Answers i s (fun t => t.me.strip = v.setWidth 32 ∧ t.me.stripDone = v.setWidth 32 ∧ NextChain s t ∧ t.me.x = s.me.x ∧ SameBytes s t)) ∧
     ((sysAccess k 0x07).wr = true → ∀ i ∈ [Instr.swr d 0x07, .swrChksb], Answers i s (fun t => t.me.chksb = v.getLsbD 0 ∧
       t.me.haz = (if v.getLsbD 0 = true ∧ s.me.chksb = false then [] else ageHazards s.me.haz (1 + s.istall.toNat)) ∧ NextChain s t ∧ t.me.x = s.me.x ∧ SameBytes s t)) ∧
     ((sysAccess k 0x12).wr = true → ∀ i ∈ [Instr.swr d 0x12, .swrShare], Answers i s (fun t => t.myCore.share.toNat = min 64 (v.toNat % 128) ∧ NextChain s t ∧ t.me.x = s.me.x ∧ SameBytes s t)) ∧
     ((sysAccess k 0x14).wr = true → ∀ i ∈ [Instr.swr d 0x14, .swrPoolgrp], Answers i s (fun t => (t.pod (podOf t.cur)).poolgrp = v.setWidth 8 ∧ NextChain s t ∧ t.me.x = s.me.x ∧ SameBytes s t)) ∧
     ((sysAccess k 0x16).wr = true → ∀ i ∈ [Instr.swr d 0x16, .swrTagen], Answers i s (fun t =>
       (∀ b : Nat, b < 256 → t.myCore.tagen.getLsbD b = if b / 64 = q then v.getLsbD (b % 64) else s.myCore.tagen.getLsbD b) ∧
       NextChain s t ∧ t.me.x = s.me.x ∧ SameBytes s t)) ∧
     ((sysAccess k 0x17).wr = true → ∀ i ∈ [Instr.swr d 0x17, .swrTagpend], Answers i s (fun t =>
       (∀ b : Nat, b < 256 → t.myCore.tagpend.getLsbD b =
         (s.myCore.tagpend.getLsbD b && !(b / 64 == q && v.getLsbD (b % 64)))) ∧
       NextChain s t ∧ t.me.x = s.me.x ∧ SameBytes s t)) ∧
     ((sysAccess k 0x19).wr = true → ∀ i ∈ [Instr.swr d 0x19, .swrAgelim], Answers i s (fun t => (t.die (dieOf t.cur)).agelim = v.setWidth 32 ∧ NextChain s t ∧ t.me.x = s.me.x ∧ SameBytes s t))) ∧
  ((∀ (s : State) (d : XReg), s.opd = .reg d → (sysAccess (kindOf s.cur) 0x11).wr = true →
     (∀ i ∈ [Instr.swr d 0x11, .swrLpart],
       (4 < (s.rx d).toNat % 8 → Faults i s 0x01 (BitVec.ofNat 16 (8 + 16 * 28)) 0) ∧
       (let fits (e : CtxId × Ctx) : Prop := kindOf e.1 = .user → e.1.unit = s.cur.unit → e.2.st ≠ .idle →
          e.2.vec.vregs = 0 ∨ 2 ^ (10 + e.2.vec.vclass) ≤ 256 * lanesOf ((s.rx d).setWidth 3) e.1.side
        (s.rx d).toNat % 8 ≤ 4 →
        ((∀ e ∈ s.allCtx, fits e) → Answers i s (fun t =>
           t.myCore.lpart = s.myCore.lpart ∧ t.myCore.lpartPend = some ((s.rx d).setWidth 3, s.cur) ∧
           s.cur.unit ∈ t.cycle.lparts ∧ t.events = s.events ∧
           (s.clocked (s.cur.unit / 96) = true → ⟨.lpartTakeEffect, .unit s.cur.unit⟩ ∈ t.dueCores) ∧
           NextChain s t ∧ t.me.x = s.me.x ∧ SameBytes s t)) ∧
        ((∃ e ∈ s.allCtx, ¬fits e) → s.recordHeld s.cur = false → Answers i s (fun t =>
           t.me.st = faultState s.me false ∧ t.me.causeCode = 0x2B ∧ t.me.fpc = s.me.pc ∧ t.me.pc = s.me.pc ∧ t.me.x = s.me.x ∧
           t.myCore = s.myCore ∧ SameBytes s t))))) ∧
   (∀ (s : State) (d : XReg), s.opd = .reg d → (sysAccess (kindOf s.cur) 0x13).wr = true →
     ∀ i ∈ [Instr.swr d 0x13, .swrLsplit], Answers i s (fun t =>
       t.myCore.lsplit = s.myCore.lsplit ∧ t.myCore.lsplitPend = some ((s.rx d).setWidth 3, s.cur) ∧
       ⟨.lsplitTakeEffect, .unit s.cur.unit⟩ ∈ t.events ∧ NextChain s t ∧ t.me.x = s.me.x ∧ SameBytes s t)) ∧
   (∀ (s : State) (core : Nat) (v : BitVec 3) (c : CtxId), s.opd = .unit core → (s.core core).lpartPend = some (v, c) →
     (s.vqsEmpty core = true → Answers .lpartTakeEffect s (fun t =>
       (t.core core).lpart = v ∧ (t.core core).lpartPend = none ∧ t = { s with cores := t.cores } ∧
       ∀ k, k ≠ core → t.core k = s.core k)) ∧
     (s.vqsEmpty core = false → Answers .lpartTakeEffect s (fun t => t = s))) ∧
   (∀ (s : State) (core : Nat) (v : BitVec 3) (c : CtxId), s.opd = .unit core → s.memWf → (s.core core).lsplitPend = some (v, c) →
     Answers .lsplitTakeEffect s (fun t =>
       (t.core core).lsplit = v ∧ (t.core core).lsplitPend = none ∧
       (∀ a, core * 2 ^ 19 + t.scratchSize core ≤ a → a < (core + 1) * 2 ^ 19 → t.byteAt .scratch a = 0) ∧
       (∀ sp a, sp ≠ .scratch ∨ a < core * 2 ^ 19 + t.scratchSize core ∨ (core + 1) * 2 ^ 19 ≤ a →
         t.byteAt sp a = s.byteAt sp a))))

/-! ## Traps, faults and freezes -/

/-- R388 to R391 and R403: taking a trap or fault, and a freeze. The cause registers are written, `FPC` holds the chain's start,
the context is `FAULTED` or `FROZEN`, nothing of what the instruction would have done is done, and a record of it is offered to
the die's fault buffer, which sets `OVF` and raises event 0 where it is full; a fault of a firmware context raises event 1, and
a freeze raises vector 0 of the context's domain, where its entry has a translation. While the buffer has not accepted the
context's last record the instruction is held (log entry 110). R180: `TRAP` and `BRK` take a deliberate trap with the code in
`CAUSE.INFO`[23:16] and the number of words of the chain in [26:24], `FPC` the chain start and `FADDR` 0; the record of R390
waits to be accepted by the die's fault buffer of 1024 records, which sets `OVF` and management event 0 where it is full (R391),
and in a firmware context management event 1 is raised. While its last record waits, the context is held instead (log entry
110). R113, R114, R76, R99, R340: the traps taken before an instruction executes, precisely and with every register as it was.
Halfwords that `Decode` refuses trap `ILLEGAL` with its reason and form, reason 0x5 where the context's kind may not execute the
form at all; an unsafe consumer under `CHKSB` traps `STALL_SHORT` with its register and λ − D, but for one with an operand
outside its limit, whose execution ends in reason 0x7; a halfword without a translation faults with `FETCH_XLATE`, and one of a
doorbell page with `DBELL_ACCESS` (R33), and its address. That an operand limit comes before an unsafe source is the model's
reading (log entry 112), which of two unsafe sources is reported its choice (log entry 30), and a master holds one record (log
entry 110). -/
def Obligations.TrapsAndIssueStops : Prop :=
  (∀ (s : State) (code : BitVec 8) (info : BitVec 16) (miss : BitVec 4) (fa : Word) (l : Loc),
     let offered (t : State) (code : BitVec 8) (info : BitVec 16) : Prop := ∃ r, (t.die (dieOf s.cur)).fbHeld =
       (s.die (dieOf s.cur)).fbHeld ++ [r] ∧ r.code = code ∧ r.info = info ∧ r.faddr = fa ∧ r.fpc = s.me.pc ∧ r.master = masterOf s.cur ∧
       r.pdid = s.me.pdid ∧ r.cycle = (s.die (dieOf s.cur)).dcyc ∧
       (if (s.die (dieOf s.cur)).fb.length < 1024 then (t.die (dieOf s.cur)).fbNew = true
        else (t.die (dieOf s.cur)).fbOvf = true ∧ t.mgmt.mgmtev.getLsbD 0 = true)
     let t := s.stop (.trap code info fa)
     let u := s.stop (.freeze miss fa)
     let e := (s.domain s.me.pdid.toNat).ivtab.toNat
     let room := (s.die (dieOf s.cur)).fb.length < 1024
     (s.recordHeld s.cur = true → t = { s with held := true } ∧ u = { s with held := true }) ∧
     (s.recordHeld s.cur = false →
       TookFault s t code info fa ∧ offered t code info ∧ SameBytes s t ∧ (isFw s.cur = true → t.mgmt.mgmtev.getLsbD 1 = true) ∧
       (s.me.st ≠ .saving → t.me.st = .faulted ∧ u.me.st = .frozen) ∧
       u.me.causeCode = 0x40 ∧ u.me.causeInfo = miss.setWidth 16 ∧ u.me.faddr = fa ∧ u.me.fpc = s.me.pc ∧ u.me.x = s.me.x ∧
       offered u 0x40 (miss.setWidth 16) ∧
       (isFw s.cur = false → ((s.domain s.me.pdid.toNat).state = 0 ∨ s.fwLoc e = none) → (room → u.hostOut = s.hostOut) ∧ SameBytes s u) ∧
       (isFw s.cur = false → (s.domain s.me.pdid.toNat).state ≠ 0 → s.fwLoc e = some l →
         (s.fwRead (e + 12) 4 % 2 = 0 → SameBytes s u ∧
           (room → u.hostOut = s.hostOut ++ [.write4 (BitVec.ofNat 64 (s.fwRead e 8)) (BitVec.ofNat 32 (s.fwRead (e + 8) 4))])) ∧
         (s.fwRead (e + 12) 4 % 4 = 1 → (room → (∀ k, s.fwLoc (e + 12) = some k → s.hostWait k = none) → u.hostOut = s.hostOut) ∧ u.st = (s.fwWrite (e + 12) 4 (s.fwRead (e + 12) 4 + 2)).st)))) ∧
  (∀ (s : State) (v : Word), s.opd = .imm v → v.toNat < 256 → 1 ≤ s.ilen → s.ilen ≤ 5 →
     ∀ p ∈ [(Instr.trap, (0x03 : BitVec 8)), (.brk, 0x04)],
       Faults p.1 s p.2 (BitVec.ofNat 16 (v.toNat + 256 * s.ilen)) 0 ∧
       (s.recordHeld s.cur = false → Answers p.1 s (fun t =>
         let full := 1024 ≤ (s.die (dieOf s.cur)).fb.length
         t.events = s.events ∧ (¬full → (t.die (dieOf s.cur)).fbNew = true) ∧
         (full → (t.die (dieOf s.cur)).fbOvf = true ∧ t.mgmt.mgmtev.getLsbD 0 = true) ∧
         (t.die (dieOf s.cur)).fbHeld = (s.die (dieOf s.cur)).fbHeld ++
           [{ code := p.2, info := BitVec.ofNat 16 (v.toNat + 256 * s.ilen), master := masterOf s.cur, faddr := 0,
              fpc := s.me.pc, fid := s.me.fid, launchId := s.me.launchId, pdid := s.me.pdid,
              cycle := (s.die (dieOf s.cur)).dcyc }] ∧
         (isFw s.cur = true → t.mgmt.mgmtev.getLsbD 1 = true) ∧ (isFw s.cur = false → ¬full → t.mgmt = s.mgmt)))) ∧
  (∀ (s q : State) (c v : CtxId) (post : List CtxId) (ws : List Half) (F : Nat → State) (d : Decoded) (r : BitVec 4) (f : FormKey)
     (ch : Chain) (h : Hazard) (a : Nat),
     let m := F ws.length
     let takes (code : BitVec 8) (info : Nat) (fa : Word) : Prop := ∃ u, step s = .next u ∧ TookFault m u code (BitVec.ofNat 16 info) fa
     let form (k : FormKey) : Nat := 16 * (k.page * 32 + k.major)
     s.TurnOf v c q post → q.Fetches c ws F → m.recordHeld c = false →
     ((∀ k, k < ws.length → decode (ws.take k) = .error (.needMore k)) →
       (decode ws = .error (.illegal r none) → takes 0x01 r.toNat 0) ∧
       (decode ws = .error (.illegal r (some f)) →
         takes 0x01 ((if (r = 6 ∨ r = 7) ∧ m.mayForm f = false then 5 else r.toNat) + form f) 0) ∧
       (decode ws = .error (.needMore ws.length) → ws.length < 5 →
         (m.isDoorbell (m.wordVa ws.length) = true → takes 0x07 0 (BitVec.ofNat 64 (m.wordVa ws.length))) ∧
         (m.isDoorbell (m.wordVa ws.length) = false → m.locate m.req 4 (m.wordVa ws.length) = .error (.xlate a) →
           takes 0x10 0 (BitVec.ofNat 64 a)))) ∧
     (decode ws = .ok d → d.n = ws.length →
       (m.permitted d.instr = false → chainOf d.instr .none = some ch → takes 0x01 (5 + form ch.key) 0) ∧
       (m.permitted d.instr = true → m.issueHeld d.instr = false → m.unsafeSource d.instr = some h →
         ((m.latch d 1).outsideLimit d.instr = false → takes 0x02 (h.reg.toNat + 32 * (h.lat - h.d)) 0) ∧
         ((m.latch d 1).outsideLimit d.instr = true → ∃ t, exec d.instr (m.latch d 1) = .next t ∧ t.me.st = .faulted ∧ t.me.causeCode = 0x01 ∧
           t.me.causeInfo.toNat % 16 = 7 ∧ (t.held = false → step s = .next (t.charge c))))))

/-! ## The vector instructions -/

/-- R190 to R192, R84: the configuration forms. `vl` becomes the lesser of the request and `VlMax` of the type, which is also
the result; an invalid type traps `ILLEGAL` with reason 0x7; `VCFGW` sets `vw2`; `VCFGS` advances the strip index as well. -/
def Obligations.VectorConfiguration : Prop :=  ∀ (s : State) (d a b : XReg) (imm : Word),
    let v := s.me.vec
    kindOf s.cur = .user →
    (∀ p ∈ [(Instr.vcfg d a b, (s.rx b).toNat), (.vcfgi d a imm, imm.toNat), (.vcfgs d a b, (s.rx b).toNat)],
      typeValid p.2 = true →
      Answers p.1 s (fun t =>
        let n := min (s.rx a).toNat (vlMax v.rlen (8 * 2 ^ (p.2 % 8)) (2 ^ (p.2 / 16 % 4)))
        t.me.vec.vt = BitVec.ofNat 16 p.2 ∧ t.me.vec.vl = BitVec.ofNat 14 n ∧ HoldsX t s d (BitVec.ofNat 64 n) ∧
        (∀ r, r ≠ d → xGet t.me.x r = xGet s.me.x r) ∧ t.me.vec.v = v.v ∧ t.me.vec.m = v.m ∧ NextChain s t ∧ SameBytes s t ∧
        t.me.strip = if p.1 = .vcfgs d a b then s.me.strip + 1 else s.me.strip)) ∧
    (typeValid (s.rx b).toNat = false → Faults (.vcfg d a b) s 0x01 (BitVec.ofNat 16 (7 + 16 * 32)) 0 ∧
      Faults (.vcfgs d a b) s 0x01 (BitVec.ofNat 16 (7 + 16 * 32)) 0) ∧
    (typeValid imm.toNat = false → Faults (.vcfgi d a imm) s 0x01 (BitVec.ofNat 16 (7 + 16 * 33)) 0) ∧
    ((s.rx a).toNat < 8 → Answers (.vcfgw a) s (fun t => t.me.vec = { v with vw2 := (s.rx a).setWidth 3 } ∧ OnlyPc { s with me := { s.me with vec := t.me.vec } } t ∧ NextChain s t)) ∧
    (8 ≤ (s.rx a).toNat → Faults (.vcfgw a) s 0x01 (BitVec.ofNat 16 (7 + 16 * 32)) 0)

/-- R193 with R185 to R189: the integer forms, each active element by its formula on the elements as integers, exact and then
modulo 2^SEW; inactive elements, the tail, the other registers and memory stay; a saturation raises `SAT` and a zero divisor
`DZ`. -/
def Obligations.VectorInteger : Prop :=  ∀ (s : State) (d a : VNum) (b : VSrc) (k : MReg),
    let v := s.me.vec
    let w := v.sew
    let A (i : Nat) : Nat := v.elem a.toNat i w
    let B (i : Nat) : Nat := s.srcElem b i w
    let sA (i : Nat) : Int := signedNat w (A i)
    let sB (i : Nat) : Int := signedNat w (B i)
    let uns : Nat → Raised := fun _ => Raised.none
    let is (i : Instr) (r : Nat → Int) (fl : Nat → Raised) : Prop :=
      Answers i s (fun t => VecResults s t d k (fun j => ⟨wrapInt w (r j), fl j⟩))
    let sat (signed : Bool) (i : Instr) (r : Nat → Int) : Prop :=
      is i (fun j => max (intLo w signed) (min (intHi w signed) (r j)))
        (fun j => if r j < intLo w signed ∨ intHi w signed < r j then fSAT else Raised.none)
    let dz : Nat → Raised := fun j => if B j = 0 then fDZ else Raised.none
    VecReady s → VecOk v → GroupOk v d.toNat v.g → GroupOk v a.toNat v.g → SrcOk v b v.g →
      is (.vadd d a b k) (fun j => A j + B j) uns ∧
      is (.vsub d a b k) (fun j => A j - B j) uns ∧
      is (.vmul d a b k) (fun j => A j * B j) uns ∧
      is (.vmhigh d a b k) (fun j => intVal w v.sgn (A j) * intVal w v.sgn (B j) / 2 ^ w) uns ∧
      is (.vand d a b k) (fun j => (A j &&& B j : Nat)) uns ∧
      is (.vor d a b k) (fun j => (A j ||| B j : Nat)) uns ∧
      is (.vxor d a b k) (fun j => (A j ^^^ B j : Nat)) uns ∧
      is (.vandn d a b k) (fun j => (A j &&& (2 ^ w - 1 - B j) : Nat)) uns ∧
      is (.vsll d a b k) (fun j => (A j * 2 ^ (B j % w) : Nat)) uns ∧
      is (.vsrl d a b k) (fun j => (A j / 2 ^ (B j % w) : Nat)) uns ∧
      is (.vsra d a b k) (fun j => sA j / (2 ^ (B j % w) : Nat)) uns ∧
      is (.vror d a b k) (fun j => (A j / 2 ^ (B j % w) + A j * 2 ^ (w - B j % w) : Nat)) uns ∧
      is (.vmin d a b k) (fun j => min (sA j) (sB j)) uns ∧
      is (.vmax d a b k) (fun j => max (sA j) (sB j)) uns ∧
      is (.vminu d a b k) (fun j => (min (A j) (B j) : Nat)) uns ∧
      is (.vmaxu d a b k) (fun j => (max (A j) (B j) : Nat)) uns ∧
      sat true (.vsadd d a b k) (fun j => sA j + sB j) ∧
      sat true (.vssub d a b k) (fun j => sA j - sB j) ∧
      sat false (.vsaddu d a b k) (fun j => A j + B j) ∧
      sat false (.vssubu d a b k) (fun j => A j - B j) ∧
      is (.vdiv d a b k) (fun j => if B j = 0 then -1 else (sA j).tdiv (sB j)) dz ∧
      is (.vdivu d a b k) (fun j => if B j = 0 then -1 else (A j / B j : Nat)) dz ∧
      is (.vrem d a b k) (fun j => if B j = 0 then A j else (sA j).tmod (sB j)) dz ∧
      is (.vremu d a b k) (fun j => if B j = 0 then A j else (A j % B j : Nat)) dz ∧
      (∀ imm : Word, is (.vaddi d a imm k) (fun j => A j + imm.toInt) uns)

/-- R194 and R195 with R140 to R142 and R151: the floating forms on elements of FP16, BF16 or FP32. Each computes on the exact
values of its elements and rounds once, in `RND.MODE` or the mode that the form names; a fused form rounds after its exact
product and sum; `VFNEG` inverts the sign bit; a form whose type is not one of the three traps `ILLEGAL` with reason 0x7. -/
def Obligations.VectorFloat : Prop :=  ∀ (s : State) (d a : VNum) (b : VSrc) (k : MReg) (rm : BitVec 3) (f : Fmt),
    let v := s.me.vec
    let md := if rm = 0 then RMode.ofCode (s.me.rnd.toNat % 8) else RMode.ofCode (rm.toNat - 1)
    let A (i : Nat) : FV := f.val (v.elem a.toNat i v.sew)
    let B (i : Nat) : FV := f.val (s.srcElem b i v.sew)
    let D (i : Nat) : FV := f.val (v.elem d.toNat i v.sew)
    let is (i : Instr) (r : Nat → NRes) : Prop := Answers i s (fun t => VecResults s t d k r)
    VecReady s → VecOk v → GroupOk v d.toNat v.g → GroupOk v a.toNat v.g → SrcOk v b v.g →
    (v.fmt = some f → v.sew ≠ 8 →
      is (.vfadd d a b k rm) (fun j => (exactAdd md (A j) (B j)).round f md false) ∧
      is (.vfsub d a b k rm) (fun j => (exactAdd md (A j) (B j).neg).round f md false) ∧
      is (.vfmul d a b k rm) (fun j => (exactMul (A j) (B j)).round f md false) ∧
      is (.vfdiv d a b k rm) (fun j => fDiv f md (A j) (B j)) ∧
      is (.vfsqrt d a k rm) (fun j => fSqrt f md (A j)) ∧
      is (.vfneg d a k) (fun j => ⟨v.elem a.toNat j v.sew ^^^ 2 ^ (v.sew - 1), Raised.none⟩) ∧
      is (.vfmin d a b k) (fun j => fMinMax f false (v.elem a.toNat j v.sew) (s.srcElem b j v.sew)) ∧
      is (.vfmax d a b k) (fun j => fMinMax f true (v.elem a.toNat j v.sew) (s.srcElem b j v.sew)) ∧
      is (.vfma d a b k rm) (fun j => (exactFma md (A j) (B j) (D j)).round f md false) ∧
      is (.vfms d a b k rm) (fun j => (exactFma md (A j) (B j) (D j).neg).round f md false) ∧
      is (.vfnma d a b k rm) (fun j => (exactFma md (A j).neg (B j) (D j).neg).round f md false) ∧
      is (.vfnms d a b k rm) (fun j => (exactFma md (A j).neg (B j) (D j)).round f md false)) ∧
    ((v.fmt = none ∨ v.sew = 8) →
      (∀ i ∈ [Instr.vfadd d a b k rm, .vfsub d a b k rm, .vfmul d a b k rm, .vfdiv d a b k rm],
        Faults i s 0x01 (BitVec.ofNat 16 (7 + 16 * 40)) 0) ∧
      (∀ i ∈ [Instr.vfmin d a b k, .vfmax d a b k, .vfsqrt d a k rm, .vfneg d a k],
        Faults i s 0x01 (BitVec.ofNat 16 (7 + 16 * 41)) 0) ∧
      (∀ i ∈ [Instr.vfma d a b k rm, .vfms d a b k rm, .vfnma d a b k rm, .vfnms d a b k rm],
        Faults i s 0x01 (BitVec.ofNat 16 (7 + 16 * 42)) 0))

/-- R134 to R136, R140 to R142: rounding is exact on what a format can hold. In each of the eight formats, every code of a
finite value, read and rounded back in any mode, gives itself and raises nothing; and the greatest finite code is the saturated
result of a greater value rounded toward zero in FP32, with `OF` and `NX`. R196 and R197 with R143, R151, R184: conversions and
mixed-width forms. Sources are read at the second type's width, in integers or formats as the form says, and results are
converted or summed exactly before the one rounding, or taken modulo 2^SEW in integers. That a sum of several terms raises `NV`
for a signalling NaN or opposite infinities among them is the model's reading (log entry 34). -/
def Obligations.VectorConversions : Prop :=
  ((∀ f ∈ [fp32, fp16, bf16, e5m2, e4m3, e3m2, e2m3, e2m1], ∀ (md : RMode) (ov : Bool) (c : Nat) (neg : Bool) (m : Nat) (e : Int),
     c < 2 ^ f.width → f.val c = .fin neg m e → roundTo f md ov (f.val c) = ⟨c, Raised.none⟩) ∧
   (∀ (neg : Bool) (m n : Nat), 2 ^ 128 ≤ m * 2 ^ n →
     (roundTo fp32 .rtz false (.fin neg m n)).v = 0x7F7FFFFF + (if neg then 0x80000000 else 0) ∧
     (roundTo fp32 .rtz false (.fin neg m n)).fl = { Raised.none with of := true, nx := true })) ∧
  (∀ (s : State) (d a : VNum) (b : VSrc) (k : MReg) (rm : BitVec 3) (f : Fmt) (w : Nat),
     let v := s.me.vec
     let md := if rm = 0 then RMode.ofCode (s.me.rnd.toNat % 8) else RMode.ofCode (rm.toNat - 1)
     let ov := s.me.rnd.getLsbD 3
     let f2 := v.w2flt.1
     let wf := v.w2flt.2
     let is (i : Instr) (r : Nat → NRes) : Prop := Answers i s (fun t => VecResults s t d k r)
     VecReady s → VecOk v → GroupOk v d.toNat v.g →
     (v.fmt = some f → v.g2 wf ≤ 8 → GroupOk v a.toNat (v.g2 wf) →
       is (.vcvtff d a k rm) (fun j => fToF f md ov (f2.val (v.elem a.toNat j wf)))) ∧
     (v.g2 wf ≤ 8 → GroupOk v a.toNat (v.g2 wf) →
       is (.vcvtfi d a k rm) (fun j => fToInt md (f2.val (v.elem a.toNat j wf)) v.sew v.sgn)) ∧
     (v.w2int = some w → v.g2 w ≤ 8 → GroupOk v a.toNat (v.g2 w) →
       (v.fmt = some f → is (.vcvtif d a k rm) (fun j => intToF f md ov (intVal w v.sgn (v.elem a.toNat j w)))) ∧
       is (.vcvtii d a k) (fun j => satInt (intVal w v.sgn (v.elem a.toNat j w)) v.sew v.sgn)) ∧
     (v.w2int = some w → 2 * w ≤ v.sew → GroupOk v a.toNat (v.g2 w) → SrcOk v b (v.g2 w) →
       let x (j : Nat) : Int := intVal w v.sgn (v.elem a.toNat j w)
       let y (j : Nat) : Int := intVal w v.sgn (s.srcElem b j w)
       let D (j : Nat) : Int := v.elem d.toNat j v.sew
       is (.vwadd d a b k false rm) (fun j => ⟨wrapInt v.sew (x j + y j), Raised.none⟩) ∧
       is (.vwmul d a b k false rm) (fun j => ⟨wrapInt v.sew (x j * y j), Raised.none⟩) ∧
       is (.vwmacc d a b k false rm) (fun j => ⟨wrapInt v.sew (D j + x j * y j), Raised.none⟩)) ∧
     (v.w2int = some w → 2 * w ≤ v.sew → GroupOk v a.toNat v.g → SrcOk v b v.g →
       is (.vdot d a b k false rm) (fun j => ⟨wrapInt v.sew ((v.elem d.toNat j v.sew : Int) +
         ((List.range (v.sew / w)).map (fun q => intVal w v.sgn (v.elem a.toNat (v.sew / w * j + q) w) *
           intVal w v.sgn (s.srcElem b (v.sew / w * j + q) w))).sum), Raised.none⟩)) ∧
     (v.fmt = some f → v.sew ≠ 8 → 2 * wf ≤ v.sew → GroupOk v a.toNat (v.g2 wf) → SrcOk v b (v.g2 wf) →
       let X (j : Nat) : Exact := ⟨f2.val (v.elem a.toNat j wf), Raised.none⟩
       let Y (j : Nat) : Exact := ⟨f2.val (s.srcElem b j wf), Raised.none⟩
       let P (j : Nat) : Exact := exactMul (X j).x (Y j).x
       let D (j : Nat) : Exact := ⟨f.val (v.elem d.toNat j v.sew), Raised.none⟩
       is (.vwadd d a b k true rm) (fun j => (exactSum md [X j, Y j]).round f md false) ∧
       is (.vwmul d a b k true rm) (fun j => (exactSum md [P j]).round f md false) ∧
       is (.vwmacc d a b k true rm) (fun j => (exactSum md [D j, P j]).round f md false)) ∧
     (v.fmt = some f → v.sew ≠ 8 → 2 * wf ≤ v.sew → GroupOk v a.toNat v.g → SrcOk v b v.g →
       is (.vdot d a b k true rm) (fun j => (exactSum md (⟨f.val (v.elem d.toNat j v.sew), Raised.none⟩ ::
         (List.range (v.sew / wf)).map (fun q => exactMul (f2.val (v.elem a.toNat (v.sew / wf * j + q) wf))
           (f2.val (s.srcElem b (v.sew / wf * j + q) wf))))).round f md false)))

/-- R198, R187: the compares. A mask bit of each active element gets the relation, the other bits below `vl` stay and those from
`vl` on become 0; a write of `m0` is discarded; a floating compare raises `NV` on a signalling NaN, and `VFCMPLT` and `VFCMPLE`
on any NaN; one whose type is not FP16, BF16 or FP32 traps `ILLEGAL` with reason 0x7. R199 and R200: mask logic over the bits
below `vl`, and the summaries of a mask in an `x` register. -/
def Obligations.VectorMasks : Prop :=
  (∀ (s : State) (d : MReg) (a : VNum) (b : VSrc) (k : MReg) (f : Fmt),
     let v := s.me.vec
     let x (i : Nat) : Int := intVal v.sew v.sgn (v.elem a.toNat i v.sew)
     let y (i : Nat) : Int := intVal v.sew v.sgn (s.srcElem b i v.sew)
     let X (i : Nat) : FV := f.val (v.elem a.toNat i v.sew)
     let Y (i : Nat) : FV := f.val (s.srcElem b i v.sew)
     let is (i : Instr) (r : Nat → Bool) (fl : Nat → Raised) : Prop :=
       Answers i s (fun t => SetsMaskBits s t d (v.mbit k) r ∧ RaisesOver s t (v.active k) fl)
     let quiet : Nat → Raised := fun _ => Raised.none
     let sig : Nat → Raised := fun i => if X i = .nan true ∨ Y i = .nan true then fNV else Raised.none
     let any : Nat → Raised := fun i => if (X i).isNan ∨ (Y i).isNan then fNV else Raised.none
     VecReady s → VecOk v → GroupOk v a.toNat v.g → SrcOk v b v.g →
       is (.vcmpeq d a b k) (fun i => decide (x i = y i)) quiet ∧
       is (.vcmpne d a b k) (fun i => decide (x i ≠ y i)) quiet ∧
       is (.vcmplt d a b k) (fun i => decide (x i < y i)) quiet ∧
       is (.vcmple d a b k) (fun i => decide (x i ≤ y i)) quiet ∧
       (v.fmt = some f → v.sew ≠ 8 →
         is (.vfcmpeq d a b k) (fun i => !(X i).isNan && !(Y i).isNan && !(X i).lt (Y i) && !(Y i).lt (X i)) sig ∧
         is (.vfcmplt d a b k) (fun i => !(X i).isNan && !(Y i).isNan && (X i).lt (Y i)) any ∧
         is (.vfcmple d a b k) (fun i => !(X i).isNan && !(Y i).isNan && !(Y i).lt (X i)) any ∧
         is (.vfcmpun d a b k) (fun i => (X i).isNan || (Y i).isNan) sig) ∧
       ((v.fmt = none ∨ v.sew = 8) → ∀ i ∈ [Instr.vfcmpeq d a b k, .vfcmplt d a b k, .vfcmple d a b k, .vfcmpun d a b k],
         Faults i s 0x01 (BitVec.ofNat 16 (7 + 16 * 46)) 0)) ∧
  (∀ (s : State) (d a b : MReg) (x : XReg),
     let v := s.me.vec
     let all : Nat → Bool := fun _ => true
     let is (i : Instr) (r : Nat → Bool) : Prop := Answers i s (fun t => SetsMaskBits s t d all r ∧ t.me.flags = s.me.flags)
     let sum (i : Instr) (n : Word) : Prop := Answers i s (fun t => SetsXOnly s t x n)
     let any := (List.range v.len).any (v.mbit a)
     VecReady s → VecOk v →
       is (.mand d a b) (fun i => v.mbit a i && v.mbit b i) ∧
       is (.mor d a b) (fun i => v.mbit a i || v.mbit b i) ∧
       is (.mxor d a b) (fun i => v.mbit a i != v.mbit b i) ∧
       is (.mandn d a b) (fun i => v.mbit a i && !v.mbit b i) ∧
       sum (.vany x a) (if any then 1 else 0) ∧
       sum (.vnone x a) (if any then 0 else 1) ∧
       sum (.vmcnt x a) (BitVec.ofNat 64 ((List.range v.len).filter (v.mbit a)).length) ∧
       (any = false → sum (.vfind x a) (-1)) ∧
       (∀ i, i < v.len → v.mbit a i = true → (∀ j, j < i → v.mbit a j = false) → sum (.vfind x a) (BitVec.ofNat 64 i)))

/-- R201 to R203: moves and permutes, each by the element of the source that a result element takes. R204 with R150 and R195:
the reductions. Element 0 of vd becomes the combination of element 0 of vb with the active elements of va in rising index, or in
the tree of R150 for `VFREDSUM`; with `vl` 0 nothing is written; no other element changes. A NaN b_0 that is delivered alone is
the canonical one, and a signalling one raises `NV` (R136). A floating one whose type is not FP16, BF16 or FP32 traps `ILLEGAL`
with reason 0x7. The model's readings: `VMV` whatever its rb field (log entry 29), b_0 alone where no element is active (log
entry 33), and `NV` of a sum (log entry 34). -/
def Obligations.VectorMovesReductions : Prop :=
  (∀ (s : State) (d a b : VNum) (rb : BitVec 5) (src : VSrc) (xa xb : XReg) (k : MReg),
     let v := s.me.vec
     let A (i : Nat) : Nat := v.elem a.toNat i v.sew
     let B (i : Nat) : Nat := v.elem b.toNat i v.sew
     let below (j : Nat) : Nat := if j < v.len then A j else 0
     let n := match src with
       | .v r => v.elem r.toNat 0 v.sew
       | .x r => (s.rx r).toNat
     let is (i : Instr) (r : Nat → Nat) : Prop :=
       Answers i s (fun t => SetsElems s t d (v.mbit k) r ∧ t.me.flags = s.me.flags)
     let every (i : Instr) (r : Nat → Nat) : Prop :=
       Answers i s (fun t => SetsElems s t d (fun _ => true) r ∧ t.me.flags = s.me.flags)
     VecReady s → VecOk v → GroupOk v d.toNat v.g → GroupOk v a.toNat v.g → GroupOk v b.toNat v.g → SrcOk v src v.g →
       is (.vmv d a rb k) A ∧
       is (.vbcast d xa k) (fun _ => (s.rx xa).toNat) ∧
       every (.vmerge d a b k) (fun i => if v.mbit k i then A i else B i) ∧
       is (.vperm d a src k) (fun i => match src with
         | .v r => below (v.elem r.toNat i v.sew)
         | .x r => below (s.rx r).toNat) ∧
       is (.vshup d a src k) (fun i => if n ≤ i then A (i - n) else v.elem d.toNat i v.sew) ∧
       is (.vshdn d a src k) (fun i => below (i + n)) ∧
       every (.vpack d a src k) (fun i => match (v.active k)[i]? with
         | some j => A j
         | none => s.srcElem src i v.sew) ∧
       is (.vilv d a b k) (fun i => if i % 2 = 0 then A (i / 2) else B (i / 2)) ∧
       (∀ odd : Bool, is (.vdilv d a b k odd) (fun i =>
         let j := 2 * i + odd.toNat
         if j < v.len then A j else B (j - v.len))) ∧
       is (.vrev d a k) (fun i => A (v.len - 1 - i)) ∧
       (∀ incl : Bool, is (.vrank d a k incl) (fun i =>
         ((List.range v.len).filter (fun j => v.mbit k j && decide (j < i + incl.toNat) && A j != 0)).length)) ∧
       Answers (.vgetx xa a xb k) s (fun t => SetsXOnly s t xa
         (if (s.rx xb).toNat < v.len ∧ v.mbit k (s.rx xb).toNat then
           BitVec.ofInt 64 (intVal v.sew v.sgn (A (s.rx xb).toNat)) else 0))) ∧
  (∀ (s : State) (d a b : VNum) (k : MReg) (rm : BitVec 3) (f : Fmt),
     let v := s.me.vec
     let md := if rm = 0 then RMode.ofCode (s.me.rnd.toNat % 8) else RMode.ofCode (rm.toNat - 1)
     let els := (v.active k).map (fun i => v.elem a.toNat i v.sew)
     let b0 := v.elem b.toNat 0 v.sew
     let val (x : Nat) : Int := intVal v.sew v.sgn x
     let b1 : NRes := if els = [] ∧ (f.val b0).isNan = true then
       ⟨f.nan, if f.val b0 = .nan true then fNV else Raised.none⟩ else ⟨b0, Raised.none⟩
     let is (i : Instr) (r : Nat) : Prop :=
       Answers i s (fun t => SetsElems s t d (fun j => j == 0) (fun _ => r) ∧ t.me.flags = s.me.flags)
     let flt (i : Instr) (r : NRes) : Prop :=
       Answers i s (fun t => SetsElems s t d (fun j => j == 0) (fun _ => r.v) ∧
         (0 < v.len → t.me.flags = s.me.flags ||| r.fl.bits))
     VecReady s → VecOk v → GroupOk v d.toNat v.g → GroupOk v a.toNat v.g → GroupOk v b.toNat v.g →
       is (.vredsum d a b k) (b0 + els.sum) ∧
       is (.vredmin d a b k) (els.foldl (fun x y => if val y < val x then y else x) b0) ∧
       is (.vredmax d a b k) (els.foldl (fun x y => if val x < val y then y else x) b0) ∧
       is (.vredand d a b k) (els.foldl (fun x y => x &&& y) b0) ∧
       is (.vredor d a b k) (els.foldl (fun x y => x ||| y) b0) ∧
       (v.fmt = some f → v.sew ≠ 8 →
         flt (.vfredmin d a b k) (els.foldl (fun acc x =>
           let r := fMinMax f false acc.v x
           ⟨r.v, acc.fl.or r.fl⟩) b1) ∧
         flt (.vfredmax d a b k) (els.foldl (fun acc x =>
           let r := fMinMax f true acc.v x
           ⟨r.v, acc.fl.or r.fl⟩) b1) ∧
         flt (.vfredsum d a b k rm) (match treeSum (codeAdd f md) ((List.range v.len).map (fun i =>
             if v.mbit k i then some (⟨v.elem a.toNat i v.sew, Raised.none⟩ : NRes) else none)) with
           | none => ⟨b0, Raised.none⟩
           | some x => codeAdd f md ⟨b0, Raised.none⟩ x)) ∧
       ((v.fmt = none ∨ v.sew = 8) →
         Faults (.vfredsum d a b k rm) s 0x01 (BitVec.ofNat 16 (7 + 16 * 52)) 0 ∧
         Faults (.vfredmin d a b k) s 0x01 (BitVec.ofNat 16 (7 + 16 * 53)) 0 ∧
         Faults (.vfredmax d a b k) s 0x01 (BitVec.ofNat 16 (7 + 16 * 53)) 0))

/-- R205 to R208: the unit-stride, strided and indexed loads and the plain-array form of `VLDB` (R155, R211), in segments that
are not `BV`. Where every active element's address passes R206 and its line is ready (R369), each reads SEW bits at its own
address, least significant byte first, as the core path sees them (R263); inactive elements, the tail, the other registers and
memory stay; only `POISONLESS` may be raised, by a flagged region among them (R376). R209: `VLDFF`. With `n` the least active
element from 1 on that would fail a check of R206, or `vl` where none would, `vl` becomes `n`, and the active elements below `n`
are loaded; no trap is taken for the others. R154, R155, R211: `VLDB` of an MX array. Element n of an array of blocks of B =
2^`LB` lies w bits wide in unit u of 32 + 4·B·w bytes, after its 32 scale bytes: block j = n / B is in unit j / 32, its scale
byte at j mod 32. Each active element takes its w bits, and the scale register takes the scale of its block. R155, R211: a block
access through a pointer that its format does not admit faults with `FAT_FORMAT` (code 0x08), `FADDR` the pointer, and accesses
nothing: a plain code whose width is not SEW, whose address is not aligned to it, or with `LB` set; an MX code with an SEW that
is not 8, an address that is not a multiple of 32, or more blocks than a register has bytes; and a code that names no format.
That only the MX form asks its two destinations not to overlap is the model's reading (log entry 32). -/
def Obligations.VectorLoads : Prop :=
  (∀ (s t1 t2 : State) (d b : VNum) (a xb : XReg) (imm : Word) (k : MReg) (w code : Nat) (ea : Nat → Word) (locs : List VLoc)
     (vals : List (Nat × Nat)),
     let v := s.me.vec
     let n := v.sew / 8
     let p := s.rx a
     let at_ (off : Nat → Int) : Prop :=
       (∀ i ∈ v.active k, fatAdd p (off i) = some (ea i) ∧ (ea i).toNat % 2 ^ 56 % n = 0 ∧
         s.isDoorbell ((ea i).toNat % 2 ^ 56) = false ∧ s.attr ((ea i).toNat % 2 ^ 56) ≠ 3)
     let loads (i : Instr) : Prop := Answers i s (fun t =>
       (∀ x ∈ locs, t.me.vec.elem d.toNat x.i v.sew = ofBytes (s.st.getSeen s.free pCore s.me.paths x.loc n)) ∧
       locs.map (·.i) = v.active k ∧
       (∀ i, i < vlMax v.rlen v.sew v.g → i ∉ v.active k → t.me.vec.elem d.toNat i v.sew = v.elem d.toNat i v.sew) ∧
       VecFrame d.toNat v.g s t ∧
       t.me.flags = t2.me.flags ∧ (t.me.flags = s.me.flags ∨ t.me.flags = s.me.flags ||| 0x80))
     VecReady s → VecOk v → GroupOk v d.toNat v.g →
     s.confirmElems v.sew 1 ((v.active k).map (fun i => ⟨i, ea i⟩)) = .ok (t1, locs) → t1.readElems pCore n locs = .ok (t2, vals) →
       (at_ (fun i => imm.toInt + (i * n : Nat)) → loads (.vld d a imm k)) ∧
       (at_ (fun i => i * (s.rx xb).toInt) → loads (.vlds d a xb k)) ∧
       (at_ (fun i => (v.elem b.toNat i w : Nat)) → v.w2int = some w → v.g2 w ≤ 8 → GroupOk v b.toNat (v.g2 w) →
         loads (.vldx d a b k)) ∧
       (at_ (fun i => (i * n : Nat)) → v.g ≤ 4 → GroupOk v b.toNat 1 → p.toNat / 2 ^ 59 = code → fatSize code = some n →
         p.toNat / 2 ^ 56 % 8 = 0 → p.toNat % 2 ^ 56 % n = 0 → loads (.vldb d a b k)) ∧
       Answers (.vpref a imm) s (fun t => t.me.vec = v ∧ t.me.x = s.me.x ∧ t.me.flags = s.me.flags ∧ NextChain s t ∧ SameBytes s t)) ∧
  (∀ (s t1 t2 : State) (d : VNum) (a : XReg) (imm : Word) (k : MReg) (n : Nat) (ea : Nat → Word) (locs : List VLoc)
     (vals : List (Nat × Nat)),
     let v := s.me.vec
     let acc (i : Nat) : VAcc := ⟨i, s.rx a, imm.toInt + (i * (v.sew / 8) : Nat)⟩
     let u := s.withVec { v with vl := BitVec.ofNat 14 n }
     VecReady s → VecOk v → GroupOk v d.toNat v.g → n ≤ v.len →
     (∀ i ∈ v.active k, 1 ≤ i → i < n → s.elemPasses v.sew (acc i) = true) →
     (n = v.len ∨ (1 ≤ n ∧ n ∈ v.active k ∧ s.elemPasses v.sew (acc n) = false)) →
     (∀ i ∈ v.active k, i < n → s.elemAddr v.sew (acc i) = .ok ⟨i, ea i⟩ ∧ s.attr ((ea i).toNat % 2 ^ 56) ≠ 3) →
     u.confirmElems v.sew 1 (((v.active k).filter (fun i => decide (i < n))).map (fun i => ⟨i, ea i⟩)) = .ok (t1, locs) →
     t1.readElems pCore (v.sew / 8) locs = .ok (t2, vals) →
     Answers (.vldff d a imm k) s (fun t => t.me.vec.vl.toNat = n ∧
       (∀ x ∈ locs, t.me.vec.elem d.toNat x.i v.sew = ofBytes (s.st.getSeen s.free pCore s.me.paths x.loc (v.sew / 8))) ∧
       (∀ i, i < vlMax v.rlen v.sew v.g → (i ∉ v.active k ∨ n ≤ i) → t.me.vec.elem d.toNat i v.sew = v.elem d.toNat i v.sew) ∧
       t.me.vec.m = v.m ∧ t.me.x = s.me.x ∧ NextChain s t ∧ SameBytes s t)) ∧
  (∀ (s t1 t2 : State) (d b : VNum) (a : XReg) (k : MReg) (f : MxFmt) (ads : List VAddr_) (locs : List VLoc)
     (vals : List (Nat × Nat)) (M : Nat → Nat),
     let v := s.me.vec
     let p := s.rx a
     let lb := p.toNat / 2 ^ 56 % 8
     let B := 2 ^ lb
     let w := f.width
     let U := 32 + 4 * B * w
     let scaleAt (i : Nat) : Nat := i / B / 32 * U + i / B % 32
     let bitAt (i : Nat) : Nat := (i / B / 32 * U + 32) * 8 + (i - 32 * B * (i / B / 32)) * w
     VecReady s → VecOk v → v.g ≤ 4 → GroupOk v d.toNat v.g → GroupOk v b.toNat 1 →
     ¬(d.toNat ≤ b.toNat ∧ b.toNat < d.toNat + v.g) → fatMx (p.toNat / 2 ^ 59) = some f → v.sew = 8 →
     p.toNat % 2 ^ 56 % 32 = 0 → (v.len + B - 1) / B ≤ v.rlen / 8 →
     s.elemAddrs 8 (v.mxAccs k p lb w) = .ok ads → s.confirmElems 8 1 ads = .ok (t1, locs) →
     t1.readElems pCore 1 locs = .ok (t2, vals) →
     (∀ x ∈ locs, s.attr (x.ea.toNat % 2 ^ 56) ≠ 3 ∧
       M ((x.ea.toNat % 2 ^ 56 + 2 ^ 56 - p.toNat % 2 ^ 56) % 2 ^ 56) = ofBytes (s.st.getSeen s.free pCore s.me.paths x.loc 1)) →
     Answers (.vldb d a b k) s (fun t =>
       (∀ i ∈ v.active k, t.me.vec.elem d.toNat i 8 =
           (M (bitAt i / 8) + 256 * M (bitAt i / 8 + 1)) / 2 ^ (bitAt i % 8) % 2 ^ w ∧
         t.me.vec.elem b.toNat (i / B) 8 = M (scaleAt i)) ∧
       (∀ j, j < 32 → j ≠ b.toNat → (j < d.toNat ∨ d.toNat + v.g ≤ j) → t.me.vec.reg j = v.reg j) ∧
       t.me.x = s.me.x ∧ NextChain s t ∧ SameBytes s t)) ∧
  (∀ (s : State) (d b : VNum) (a : XReg) (k : MReg) (i : Instr),
     let v := s.me.vec
     let p := s.rx a
     let code := p.toNat / 2 ^ 59
     let B := 2 ^ (p.toNat / 2 ^ 56 % 8)
     VecReady s → VecOk v → v.g ≤ 4 → GroupOk v d.toNat v.g → GroupOk v b.toNat 1 →
     (i = .vldb d a b k ∧ ¬(d.toNat ≤ b.toNat ∧ b.toNat < d.toNat + v.g)) ∨ i = .vstb d a b k false →
     (∀ m, ((1 ≤ code ∧ code ≤ 11) ∨ code = 18) → fatSize code = some m →
       (v.sew ≠ 8 * m ∨ (v.len ≠ 0 ∧ (B ≠ 1 ∨ p.toNat % 2 ^ 56 % m ≠ 0))) → FaultsAt i s 0x08 p) ∧
     (12 ≤ code → code ≤ 17 →
       (v.sew ≠ 8 ∨ (v.len ≠ 0 ∧ (p.toNat % 2 ^ 56 % 32 ≠ 0 ∨ v.rlen / 8 < (v.len + B - 1) / B))) → FaultsAt i s 0x08 p) ∧
     ((code = 0 ∨ 19 ≤ code) → v.len ≠ 0 → FaultsAt i s 0x08 p))

/-- R205 to R207: the unit-stride, strided and indexed stores and the plain-array form of `VSTB`, not joined and outside `BV`
segments, once every line is ready (R369, R385). Each active element's bytes lie at its address afterwards, but where a later
element stored over them; every byte outside the elements stored stays, and so does every register. R154, R155, R211: `VSTB` of
an MX array whose bytes lie apart, once every line is ready. Each active element's w bits hold the low w bits of its element of
vd, and the scale byte of its block the element of vb; the other bits of those bytes are as they were, and so are all other
bytes and every register. R206: of the element accesses of a load or store the lowest that overflows its pointer, is not aligned
or falls in a doorbell page decides at issue: its cause, with its index in `CAUSE.INFO`[28:16] and log2 of its bytes in [31:29],
and no register or byte changes. R212 and R213: the multicast and the reducing store. `VSTMC` with a count or `vl` of 0 writes
nothing, and with a count above 64 traps `ILLEGAL` with reason 0x7; otherwise each pointer of its list gets a copy of the active
elements. `VSTRED` combines each active element into memory by its operation: the sum modulo 2^SEW, the lesser or greater
integer, or the sum, least or greatest of floating values; elements of one place are combined in rising index, each as a
rounding of its own, and the flags of all are raised; a floating operation whose type is not FP16, BF16 or FP32 traps with
reason 0x7. The place of each element is made ready at its home. That a multicast with `vl` 0 checks nothing but its operands is
the model's reading (log entry 40). -/
def Obligations.VectorStores : Prop :=
  (∀ (s t1 t2 : State) (d b : VNum) (a xb : XReg) (imm : Word) (k : MReg) (w code : Nat) (ea : Nat → Word) (locs : List VLoc),
     let v := s.me.vec
     let n := v.sew / 8
     let p := s.rx a
     let covers (x : VLoc) (sp : Space) (q : Nat) : Prop := x.loc.sp = sp ∧ x.loc.a ≤ q ∧ q < x.loc.a + n
     let at_ (off : Nat → Int) : Prop :=
       (∀ i ∈ v.active k, fatAdd p (off i) = some (ea i) ∧ (ea i).toNat % 2 ^ 56 % n = 0 ∧
         s.isDoorbell ((ea i).toNat % 2 ^ 56) = false ∧ s.attr ((ea i).toNat % 2 ^ 56) ≠ 3)
     let stores (i : Instr) : Prop := Answers i s (fun t =>
       locs.map (·.i) = v.active k ∧
       (∀ x ∈ locs, ∀ j, j < n → (∀ y ∈ locs, x.i < y.i → ¬covers y x.loc.sp (x.loc.a + j)) →
         t.byteAt x.loc.sp (x.loc.a + j) = BitVec.ofNat 8 (v.elem d.toNat x.i v.sew / 256 ^ j)) ∧
       (∀ sp q, (∀ x ∈ locs, ¬covers x sp q) → t.byteAt sp q = s.byteAt sp q) ∧
       t.me.vec = v ∧ t.me.x = s.me.x ∧ t.me.flags = s.me.flags ∧ NextChain s t)
     s.memWf → VecReady s → VecOk v → GroupOk v d.toNat v.g →
     s.confirmElems v.sew 2 ((v.active k).map (fun i => ⟨i, ea i⟩)) = .ok (t1, locs) →
     t1.storeGate false v.sew locs = .ok t2 →
       (at_ (fun i => imm.toInt + (i * n : Nat)) → stores (.vst d a imm k false)) ∧
       (at_ (fun i => i * (s.rx xb).toInt) → stores (.vsts d a xb k false)) ∧
       (at_ (fun i => (v.elem b.toNat i w : Nat)) → v.w2int = some w → v.g2 w ≤ 8 → GroupOk v b.toNat (v.g2 w) →
         stores (.vstx d a b k false)) ∧
       (at_ (fun i => (i * n : Nat)) → v.g ≤ 4 → GroupOk v b.toNat 1 → p.toNat / 2 ^ 59 = code → fatSize code = some n →
         p.toNat / 2 ^ 56 % 8 = 0 → p.toNat % 2 ^ 56 % n = 0 → stores (.vstb d a b k false))) ∧
  (∀ (s t1 t2 : State) (d b : VNum) (a : XReg) (k : MReg) (f : MxFmt) (ads : List VAddr_) (locs : List VLoc),
     let v := s.me.vec
     let p := s.rx a
     let lb := p.toNat / 2 ^ 56 % 8
     let B := 2 ^ lb
     let w := f.width
     let U := 32 + 4 * B * w
     let scaleAt (i : Nat) : Nat := i / B / 32 * U + i / B % 32
     let bitAt (i : Nat) : Nat := (i / B / 32 * U + 32) * 8 + (i - 32 * B * (i / B / 32)) * w
     let off (x : VLoc) : Nat := (x.ea.toNat % 2 ^ 56 + 2 ^ 56 - p.toNat % 2 ^ 56) % 2 ^ 56
     s.memWf → VecReady s → VecOk v → v.g ≤ 4 → GroupOk v d.toNat v.g → GroupOk v b.toNat 1 → fatMx (p.toNat / 2 ^ 59) = some f →
     v.sew = 8 → p.toNat % 2 ^ 56 % 32 = 0 → (v.len + B - 1) / B ≤ v.rlen / 8 →
     s.elemAddrs 8 (v.mxAccs k p lb w) = .ok ads → s.confirmElems 8 2 ads = .ok (t1, locs) →
     (∀ x ∈ locs, s.attr (x.ea.toNat % 2 ^ 56) ≠ 3) → t1.storeGate false 8 locs = .ok t2 →
     (∀ x ∈ locs, ∀ y ∈ locs, off x ≠ off y → x.loc ≠ y.loc) →
     Answers (.vstb d a b k false) s (fun t =>
       ∃ N : Nat → Nat, (∀ x ∈ locs, (t.byteAt x.loc.sp x.loc.a).toNat = N (off x)) ∧
       (∀ i ∈ v.active k, (N (bitAt i / 8) + 256 * N (bitAt i / 8 + 1)) / 2 ^ (bitAt i % 8) % 2 ^ w = v.elem d.toNat i 8 % 2 ^ w ∧
         N (scaleAt i) = v.elem b.toNat (i / B) 8) ∧
       (∀ x ∈ locs, ∀ c, c < 8 →
         (∀ i ∈ v.active k, scaleAt i ≠ off x ∧ ¬(bitAt i ≤ 8 * off x + c ∧ 8 * off x + c < bitAt i + w)) →
         (t.byteAt x.loc.sp x.loc.a).toNat.testBit c = (s.byteAt x.loc.sp x.loc.a).toNat.testBit c) ∧
       (∀ sp q, (∀ x ∈ locs, x.loc ≠ ⟨sp, q⟩) → t.byteAt sp q = s.byteAt sp q) ∧
       t.me.vec = v ∧ t.me.x = s.me.x ∧ t.me.flags = s.me.flags ∧ NextChain s t)) ∧
  (∀ (s : State) (d : VNum) (a : XReg) (imm : Word) (k : MReg) (i : Nat) (ea : Word),
     let v := s.me.vec
     let n := v.sew / 8
     let acc (j : Nat) : VAcc := ⟨j, s.rx a, imm.toInt + (j * n : Nat)⟩
     let info : BitVec 16 := BitVec.ofNat 16 (i + 8192 * Nat.log2 n)
     VecReady s → VecOk v → GroupOk v d.toNat v.g → i ∈ v.active k → i < 8192 →
     (∀ j ∈ v.active k, j < i → ∃ x, s.elemAddr v.sew (acc j) = .ok x) →
     ∀ op ∈ [Instr.vld d a imm k, .vst d a imm k false],
       (fatAdd (s.rx a) (acc i).off = none → Faults op s 0x05 info 0) ∧
       (fatAdd (s.rx a) (acc i).off = some ea → ea.toNat % 2 ^ 56 % n ≠ 0 → Faults op s 0x06 info ea) ∧
       (fatAdd (s.rx a) (acc i).off = some ea → ea.toNat % 2 ^ 56 % n = 0 → s.isDoorbell (ea.toNat % 2 ^ 56) = true →
         Faults op s 0x07 info ea)) ∧
  (∀ (s t1 t2 t3 : State) (d b : VNum) (a xb : XReg) (k : MReg) (w : Nat) (ptrs : List Word) (ads : List VAddr_) (locs : List VLoc),
     let v := s.me.vec
     let n := v.sew / 8
     let c := (s.rx xb).toNat
     let covers (x : VLoc) (sp : Space) (q : Nat) : Prop := x.loc.sp = sp ∧ x.loc.a ≤ q ∧ q < x.loc.a + n
     s.memWf → VecReady s → VecOk v → GroupOk v d.toNat v.g →
     ((v.len = 0 ∨ c = 0) → Answers (.vstmc d a xb k) s (fun t => SameBytes s t ∧ t.me.vec = v ∧ NextChain s t)) ∧
     (v.len ≠ 0 → 64 < c → Faults (.vstmc d a xb k) s 0x01 (BitVec.ofNat 16 (7 + 16 * 69)) 0) ∧
     (v.len ≠ 0 → c ≠ 0 → c ≤ 64 → s.mcList (s.rx a) 0 c = .ok (t1, ptrs) → t1.me.vec = v →
       t1.elemAddrs v.sew (ptrs.flatMap (fun p => v.accs k p (fun i => (i * n : Nat)))) = .ok ads →
       t1.confirmElems v.sew 2 ads = .ok (t2, locs) →
       (∀ x ∈ locs, s.attr (x.ea.toNat % 2 ^ 56) ≠ 3) → t2.storeGate false v.sew locs = .ok t3 →
       (∀ x ∈ locs, ∀ y ∈ locs, x ≠ y → ∀ q, covers x x.loc.sp q → ¬covers y x.loc.sp q) →
       Answers (.vstmc d a xb k) s (fun t =>
         (∀ x ∈ locs, ∀ j, j < n → t.byteAt x.loc.sp (x.loc.a + j) = BitVec.ofNat 8 (v.elem d.toNat x.i v.sew / 256 ^ j)) ∧
         (∀ sp q, (∀ x ∈ locs, ¬covers x sp q) → t.byteAt sp q = s.byteAt sp q) ∧ NextChain s t)) ∧
     (v.w2int = some w → v.g2 w ≤ 8 → GroupOk v b.toNat (v.g2 w) →
       s.elemAddrs v.sew (v.accs k (s.rx a) (fun i => (v.elem b.toNat i w : Nat))) = .ok ads →
       s.confirmElems v.sew 2 ads = .ok (t1, locs) →
       (∀ x ∈ locs, s.attr (x.ea.toNat % 2 ^ 56) ≠ 3) → t1.storeGate true v.sew locs = .ok t3 →
       (∀ x ∈ locs, ∀ y ∈ locs, x.loc ≠ y.loc → ∀ q, covers x x.loc.sp q → ¬covers y x.loc.sp q) →
       let md := RMode.ofCode (s.me.rnd.toNat % 8)
       let val (c : Nat) : Int := intVal v.sew v.sgn c
       let red (op : BitVec 3) (g : Nat → Nat → NRes) : Prop :=
         let at_ (x : VLoc) : NRes := (locs.filter (fun y => y.loc == x.loc)).foldl (fun m y =>
           let r := g m.v (v.elem d.toNat y.i v.sew)
           ⟨r.v % 2 ^ v.sew, m.fl.or r.fl⟩) ⟨ofBytes ((s.st.of x.loc.sp).readN x.loc.a n), Raised.none⟩
         Answers (.vstred d a b k op) s (fun t =>
           (∀ x ∈ locs, ∀ j, j < n → t.byteAt x.loc.sp (x.loc.a + j) = BitVec.ofNat 8 ((at_ x).v / 256 ^ j)) ∧
           (∀ sp q, (∀ x ∈ locs, ¬covers x sp q) → t.byteAt sp q = s.byteAt sp q) ∧
           t.me.flags = locs.foldl (fun f x => f ||| (at_ x).fl.bits) s.me.flags ∧ t.me.vec = v ∧ t.me.x = s.me.x ∧ NextChain s t)
       red 0 (fun m e => ⟨(m + e) % 2 ^ v.sew, Raised.none⟩) ∧
       red 1 (fun m e => ⟨if val m ≤ val e then m else e, Raised.none⟩) ∧
       red 2 (fun m e => ⟨if val m ≤ val e then e else m, Raised.none⟩) ∧
       (∀ f : Fmt, v.fmt = some f → v.sew ≠ 8 →
         red 3 (fun m e => (exactAdd md (f.val m) (f.val e)).round f md false) ∧
         red 4 (fMinMax f false) ∧ red 5 (fMinMax f true))) ∧
     ((v.fmt = none ∨ v.sew = 8) → ∀ op ∈ [(3 : BitVec 3), 4, 5], Faults (.vstred d a b k op) s 0x01 (BitVec.ofNat 16 (7 + 16 * 69)) 0))

/-! ## The graphics instructions -/

/-- R217 and R218: the edge and coverage forms on packed positions, with coordinates in 1/16 pixel; a coordinate out of −8192 to
8191 makes the element 0x8000_0000, or 0 for `VCOVER`, and raises `SAT`. R219: the barycentric forms. Where every coordinate is
in range and the area is positive, the weights are the exact ratios of R219, each rounded once in `RND.MODE`; other elements get
the canonical NaN in both groups, with `SAT` for a coordinate out of range and `NV` for the rest. `VBARYP` asks for finite
positive perspective weights and a denominator that is not 0 too. Inactive elements and the tail are as they were. R220 to R223:
the traversal forms. `BOXT` and `TRIT` take `vl` from the budget (to no less than 0), test the elements below the budget found
at issue and report the other active ones as `EXHAUSTED`, status 3. A box is hit where the interval that the slabs leave of
`tmin` to `tmax` is not empty, at its start rounded down; a triangle where the one point of the ray on its plane lies in it and
in the range, with t, u and v rounded to nearest. Every group is written for every active element and for no other, and no flag
is raised. An infinity stands as 2^300 here, above every finite value that the test forms. R225: `CALLST`. An index past the
table gives 1 and a null record 2, with no transfer; otherwise the return address is pushed, the result is 0 and control goes to
the record's address. A register that is also an operand traps `ILLEGAL` with reason 0x7. An exact weight or ratio of 0 is +0 by
the model's reading (log entry 10). -/
def Obligations.GraphicsForms : Prop :=
  (∀ (s : State) (d a b : VNum) (k : MReg),
     let v := s.me.vec
     let X (e : Nat) : Int := signedNat 16 e
     let Y (e : Nat) : Int := signedNat 16 (e / 65536)
     let inR (e : Nat) : Prop := -8192 ≤ X e ∧ X e ≤ 8191 ∧ -8192 ≤ Y e ∧ Y e ≤ 8191
     let ev (p q r : Nat) : Int := (X r - X q) * (Y p - Y q) - (Y r - Y q) * (X p - X q)
     let tl (q r : Nat) : Prop := Y r - Y q < 0 ∨ (Y r = Y q ∧ 0 < X r - X q)
     let ins (p q r : Nat) : Prop := 0 < ev p q r ∨ (ev p q r = 0 ∧ tl q r)
     let p (i : Nat) : Nat := v.elem a.toNat i 32
     let v0 := v.elem b.toNat 0 32
     let v1 := v.elem b.toNat 1 32
     let v2 := v.elem b.toNat 2 32
     VecReady s → VecOk v → v.sew = 32 → GroupOk v d.toNat v.g → GroupOk v a.toNat v.g → GroupOk v b.toNat v.g →
     ∃ (r0 r1 r2 : Nat → NRes),
       Answers (.vedge d a b k) s (fun t => VecResults s t d k r0) ∧
       Answers (.vedgetl d a b k) s (fun t => VecResults s t d k r1) ∧
       Answers (.vcover d a b k) s (fun t => VecResults s t d k r2) ∧
       ∀ i,
         (inR (p i) ∧ inR v0 ∧ inR v1 →
           r0 i = ⟨wrapInt 32 (ev (p i) v0 v1), Raised.none⟩ ∧
           (tl v0 v1 → r1 i = ⟨wrapInt 32 (ev (p i) v0 v1), Raised.none⟩) ∧
           (¬tl v0 v1 → r1 i = ⟨wrapInt 32 (ev (p i) v0 v1 - 1), Raised.none⟩)) ∧
         (¬(inR (p i) ∧ inR v0 ∧ inR v1) → r0 i = ⟨0x80000000, fSAT⟩ ∧ r1 i = ⟨0x80000000, fSAT⟩) ∧
         (inR (p i) ∧ inR v0 ∧ inR v1 ∧ inR v2 →
           (0 < ev v2 v0 v1 ∧ ins (p i) v0 v1 ∧ ins (p i) v1 v2 ∧ ins (p i) v2 v0 → r2 i = ⟨1, Raised.none⟩) ∧
           (¬(0 < ev v2 v0 v1 ∧ ins (p i) v0 v1 ∧ ins (p i) v1 v2 ∧ ins (p i) v2 v0) → r2 i = ⟨0, Raised.none⟩)) ∧
         (¬(inR (p i) ∧ inR v0 ∧ inR v1 ∧ inR v2) → r2 i = ⟨0, fSAT⟩)) ∧
  (∀ (s : State) (d a b : VNum) (k : MReg),
     let v := s.me.vec
     let md := s.rmode 0
     let X (e : Nat) : Int := signedNat 16 e
     let Y (e : Nat) : Int := signedNat 16 (e / 65536)
     let inR (e : Nat) : Prop := -8192 ≤ X e ∧ X e ≤ 8191 ∧ -8192 ≤ Y e ∧ Y e ≤ 8191
     let ev (p q r : Nat) : Int := (X r - X q) * (Y p - Y q) - (Y r - Y q) * (X p - X q)
     let p (i : Nat) : Nat := v.elem a.toNat i 32
     let vx (j : Nat) : Nat := v.elem b.toNat j 32
     let area : Int := ev (vx 2) (vx 0) (vx 1)
     let n0 (i : Nat) : Int := ev (p i) (vx 1) (vx 2)
     let n1 (i : Nat) : Int := ev (p i) (vx 2) (vx 0)
     let n2 (i : Nat) : Int := ev (p i) (vx 0) (vx 1)
     let qc (j : Nat) : Nat := v.elem b.toNat (3 + j) 32
     let q (j : Nat) : Int := fpInt (fp32.val (qc j))
     let qOk : Prop := ∀ j, j < 3 → 0 < qc j ∧ qc j < 0x7F800000
     let den (i : Nat) : Int := n0 i * q 0 + n1 i * q 1 + n2 i * q 2
     let ranged (i : Nat) : Prop := inR (p i) ∧ ∀ j, j < 3 → inR (vx j)
     let nan (ok : Nat → Prop) (w : Nat → NRes) (i : Nat) : Prop := (w i).v = 0x7FC00000 ∧ ∃ sat nv : Bool,
       (w i).fl = { Raised.none with sat := sat, nv := nv } ∧ (sat = true ↔ ¬ranged i) ∧ (nv = true ↔ ¬ok i)
     let writes (t : State) (w1 w2 : Nat → NRes) : Prop :=
       (∀ i, i < vlMax v.rlen 32 v.g → t.me.vec.elem d.toNat i 32 = (if i ∈ v.active k then (w1 i).v % 2 ^ 32 else v.elem d.toNat i 32) ∧
         t.me.vec.elem (d.toNat + v.g) i 32 = if i ∈ v.active k then (w2 i).v % 2 ^ 32 else v.elem (d.toNat + v.g) i 32) ∧
       RaisesOver s t (v.active k) (fun i => (w1 i).fl.or (w2 i).fl) ∧ VecFrame d.toNat (2 * v.g) s t
     VecReady s → VecOk v → v.sew = 32 → d.toNat % v.g = 0 → d.toNat + 2 * v.g ≤ v.vregs → GroupOk v a.toNat v.g → GroupOk v b.toNat v.g →
     ∃ w1 w2 u1 u2 : Nat → NRes,
       Answers (.vbary d a b k) s (fun t => writes t w1 w2) ∧ Answers (.vbaryp d a b k) s (fun t => writes t u1 u2) ∧
       ∀ i,
         (ranged i → 0 < area → w1 i = ratioRes md (n1 i) area ∧ w2 i = ratioRes md (n2 i) area) ∧
         (¬(ranged i ∧ 0 < area) → nan (fun _ => 0 < area) w1 i ∧ nan (fun _ => 0 < area) w2 i) ∧
         (ranged i → 0 < area → qOk → den i ≠ 0 →
           u1 i = ratioRes md (n1 i * q 1) (den i) ∧ u2 i = ratioRes md (n2 i * q 2) (den i)) ∧
         (¬(ranged i ∧ 0 < area ∧ qOk ∧ den i ≠ 0) →
           nan (fun j => 0 < area ∧ qOk ∧ den j ≠ 0) u1 i ∧ nan (fun j => 0 < area ∧ qOk ∧ den j ≠ 0) u2 i)) ∧
  (∀ (s : State) (d a b : VNum) (k : MReg),
     let v := s.me.vec
     let c := s.me.travBudget.toNat
     let INF : Nat := 0x7F800000
     let blockOk (n cnt : Nat) : Prop := n % v.g = 0 ∧ n + cnt * v.g ≤ v.vregs
     let A (j i : Nat) : FV := fp32.val (v.elem (a.toNat + j * v.g) i 32)
     let B (j i : Nat) : FV := fp32.val (v.elem (b.toNat + j * v.g) i 32)
     let big : Rat := 2 ^ 300
     let ext (f : FV) : Rat := match f with
       | .inf n => if n then -big else big
       | f => (fpInt f : Rat) / 2 ^ 149
     let bad (n i : Nat) : Prop := (∃ j, j < 8 ∧ (A j i).isNan = true) ∨ (∃ j, j < n ∧ (B j i).isNan = true) ∨
       (∃ j, j < 6 ∧ (A j i).isInf = true) ∨ (∀ j, 3 ≤ j → j < 6 → fpInt (A j i) = 0) ∨ ext (A 7 i) < ext (A 6 i)
     let slab (f : FV) (j i : Nat) : Rat := match f with
       | .inf n => if n = decide (fpInt (A (3 + j) i) < 0) then big else -big
       | f => ((fpInt f - fpInt (A j i) : Int) : Rat) / fpInt (A (3 + j) i)
     let crossed (i : Nat) : List Nat := (List.range 3).filter (fun j => fpInt (A (3 + j) i) ≠ 0)
     let enter (i : Nat) := (crossed i).foldl (fun e j => max e (min (slab (B j i) j i) (slab (B (3 + j) i) j i))) (ext (A 6 i))
     let exit_ (i : Nat) := (crossed i).foldl (fun e j => min e (max (slab (B j i) j i) (slab (B (3 + j) i) j i))) (ext (A 7 i))
     let boxHit (i : Nat) : Prop := ¬bad 6 i ∧ enter i ≤ exit_ i ∧ ∀ j, j < 3 → ext (B j i) ≤ ext (B (3 + j) i) ∧
       (fpInt (A (3 + j) i) = 0 → ext (B j i) ≤ ext (A j i) ∧ ext (A j i) ≤ ext (B (3 + j) i))
     let P (n j i : Nat) : Int := fpInt (B (3 * n + j) i)
     let O (j i : Nat) : Int := fpInt (A j i)
     let D (j i : Nat) : Int := fpInt (A (3 + j) i)
     let e1 (j i : Nat) : Int := P 1 j i - P 0 j i
     let e2 (j i : Nat) : Int := P 2 j i - P 0 j i
     let ND (i : Nat) : Int := (e1 1 i * e2 2 i - e1 2 i * e2 1 i) * D 0 i + (e1 2 i * e2 0 i - e1 0 i * e2 2 i) * D 1 i +
       (e1 0 i * e2 1 i - e1 1 i * e2 0 i) * D 2 i
     let rounded (m : RMode) (x : Rat) (code : Nat) : Prop := ∃ (n : Int) (q : Nat), 0 < q ∧ x = (n : Rat) / q ∧ code = (ratioRes m n q).v
     let plain (i : Nat) : Prop := bad 9 i ∨ (∃ j, j < 9 ∧ (B j i).isInf = true) ∨ ND i = 0
     let missed (τ υ ω st : Nat) : Prop := τ = INF ∧ υ = 0 ∧ ω = 0 ∧ st = 0
     let triRight (i τ υ ω st : Nat) : Prop :=
       (plain i → missed τ υ ω st) ∧
       (¬plain i → ∃ t u w : Rat, (∀ j, j < 3 → (O j i : Rat) + t * D j i = P 0 j i + u * e1 j i + w * e2 j i) ∧
         let hit : Prop := 0 ≤ u ∧ 0 ≤ w ∧ u + w ≤ 1 ∧ ext (A 6 i) ≤ t ∧ t ≤ ext (A 7 i)
         (hit → rounded .rne t τ ∧ rounded .rne u υ ∧ rounded .rne w ω ∧ st = (if ND i < 0 then 1 else 2)) ∧
         (¬hit → missed τ υ ω st))
     let groups (t : State) (rs : List (Nat → Nat)) : Prop :=
       (∀ j, j < rs.length → ∀ i, i < vlMax v.rlen 32 v.g → t.me.vec.elem (d.toNat + j * v.g) i 32 =
         if i ∈ v.active k then ((rs[j]?).getD (fun _ => 0)) i else v.elem (d.toNat + j * v.g) i 32) ∧
       t.me.flags = s.me.flags ∧ t.me.travBudget.toNat = c - v.len ∧ VecFrame d.toNat (rs.length * v.g) s t
     VecReady s → VecOk v →
     (v.sew = 32 → blockOk d.toNat 2 → blockOk a.toNat 8 → blockOk b.toNat 6 →
       ∃ τ st : Nat → Nat, Answers (.boxt d a b k) s (fun t => groups t [τ, st]) ∧ ∀ i ∈ v.active k,
         (c ≤ i → τ i = INF ∧ st i = 3) ∧ (i < c → ¬boxHit i → τ i = INF ∧ st i = 0) ∧
         (i < c → boxHit i → st i = 1 ∧ (enter i = big → τ i = INF) ∧ (enter i = -big → τ i = 0xFF800000) ∧
           (enter i ≠ big → enter i ≠ -big → rounded .rdn (enter i) (τ i)))) ∧
     (v.sew = 32 → blockOk d.toNat 4 → blockOk a.toNat 8 → blockOk b.toNat 9 →
       ∃ τ υ ω st : Nat → Nat, Answers (.trit d a b k) s (fun t => groups t [τ, υ, ω, st]) ∧ ∀ i ∈ v.active k,
         (c ≤ i → τ i = INF ∧ υ i = 0 ∧ ω i = 0 ∧ st i = 3) ∧ (i < c → triRight i (τ i) (υ i) (ω i) (st i))) ∧
     (v.sew ≠ 32 ∨ ¬blockOk d.toNat 2 ∨ ¬blockOk a.toNat 8 ∨ ¬blockOk b.toNat 6 →
       Faults (.boxt d a b k) s 0x01 (BitVec.ofNat 16 (7 + 16 * 98)) 0) ∧
     (v.sew ≠ 32 ∨ ¬blockOk d.toNat 4 ∨ ¬blockOk a.toNat 8 ∨ ¬blockOk b.toNat 9 →
       Faults (.trit d a b k) s 0x01 (BitVec.ofNat 16 (7 + 16 * 99)) 0) ∧
     (v.sew ≠ 32 → (∀ i ∈ [Instr.vedge d a b k, .vedgetl d a b k, .vcover d a b k], Faults i s 0x01 (BitVec.ofNat 16 (7 + 16 * 96)) 0) ∧
       ∀ i ∈ [Instr.vbary d a b k, .vbaryp d a b k], Faults i s 0x01 (BitVec.ofNat 16 (7 + 16 * 97)) 0)) ∧
  (∀ (s s1 s2 : State) (d a b : XReg) (n e : Nat),
     let T : Word := ((s.rx a).setWidth 56).setWidth 64
     let k := (s.rx b).toNat
     let E := T.toNat + 16 + 16 * k
     kindOf s.cur = .user →
     (d ≠ 0 → (d = a ∨ d = b) → Faults (.callst d a b) s 0x01 (BitVec.ofNat 16 (7 + 16 * 100)) 0) ∧
     ((d = 0 ∨ (d ≠ a ∧ d ≠ b)) → T.toNat % 16 = 0 → s.isDoorbell T.toNat = false → s.loadScalar T 4 = .ok (s1, n) → s1.me = s.me →
       (n ≤ k → Answers (.callst d a b) s (fun t => SetsXOnly s1 t d 1)) ∧
       (k < n → E < 2 ^ 56 → s1.isDoorbell E = false → s1.loadScalar (BitVec.ofNat 64 E) 8 = .ok (s2, e) → s2.me = s.me →
         (e % 2 ^ 56 = 0 → Answers (.callst d a b) s (fun t => SetsXOnly s2 t d 2)) ∧
         (e % 2 = 1 → Faults (.callst d a b) s 0x06 0xF (BitVec.ofNat 64 e)) ∧
         (e % 2 ^ 56 ≠ 0 → e % 2 = 0 → s.me.rs.depth < 16 → Answers (.callst d a b) s (fun t =>
           HoldsX t s d 0 ∧ (∀ r, r ≠ d → xGet t.me.x r = xGet s.me.x r) ∧ t.me.pc = BitVec.ofNat 56 e ∧
           t.me.rs.depth = s.me.rs.depth + 1 ∧ t.me.rs.hw[s.me.rs.depth]? = some (s.me.pc + BitVec.ofNat 56 (2 * s.ilen)))))))

/-- R227, R228 and R257: the checks of a texture form on its handle and descriptor, in their order, before anything is written:
a handle that is not a multiple of 128 faults with `MISALIGN` (code 0x06) and one in a doorbell page with `DBELL_ACCESS` (0x07);
a descriptor without `R` freezes the context and one without translation faults with `DATA_XLATE` (0x11); a descriptor with a
field out of its range, a reserved field that is not 0 or a mip past 2^32 faults with `TEX_DESC` (0x26); each with `FADDR` the
handle. With `vl` 0 nothing is checked and nothing written (R187). R227 to R230, R257 to R259: the words that a list of texels
reads. A read answers every texel of its list, in order. A texel whose 4 × 4 group no L2 holds yet is decoded from the bytes of
its source block in memory: the block of b × b texels and n bytes of R257 that lies at `CBASE` plus the sizes of the mips before
and of the blocks before it. Where the core holds the texels, or else the L2 of the die their groups, it is the word held, and
the read completes on the checks of the view and of the rights over the source alone. R229 and R230: the texture forms with the
descriptor `tx` that the handle names. `TEXADR` gives the texel's offset in its mip, and 0 outside; `TEXLD` the word of the
texel that each element names, and 0 outside; `TEXBIL` and `TEXTRI` the word of R230's formulas over the words of the taps that
its coordinates name, for finite coordinates, and 0 with `NV` for others. Each reads the texels of every active element that has
any, and no other (`TexelReads` gives their words). What room texels take in a core is the model's choice (log entry 135). How a
compressed block decodes (`texelWord`) is presumed from the formats' own documents, with the choices that they leave free (log
entry 9); a held group's blocks are not looked up again by the model's reading (log entry 35). -/
def Obligations.TextureForms : Prop :=
  (∀ (s t1 t2 : State) (d b : VNum) (a : XReg) (k : MReg) (l : Loc),
     let v := s.me.vec
     let h := s.rx a
     let va := h.toNat % 2 ^ 56
     let bs := s.st.getSeen s.free pCore s.me.paths l 128
     let fld (o n : Nat) : Nat := ofBytes ((bs.drop o).take n)
     let w (j : Nat) : Nat := max 1 (fld 0x10 2 / 2 ^ j)
     let ht (j : Nat) : Nat := max 1 (fld 0x12 2 / 2 ^ j)
     let size (j : Nat) : Nat := (w j + 3) / 4 * ((ht j + 3) / 4) * 64
     let good : Prop :=
       fld 0 8 < 2 ^ 56 ∧ fld 0 8 % 64 = 0 ∧ fld 8 8 < 2 ^ 56 ∧ fld 8 8 % 16 = 0 ∧ 1 ≤ fld 0x10 2 ∧ fld 0x10 2 ≤ 16384 ∧
       1 ≤ fld 0x12 2 ∧ fld 0x12 2 ≤ 16384 ∧ 1 ≤ fld 0x14 1 ∧ fld 0x14 1 ≤ 15 ∧ fld 0x15 1 ≤ 10 ∧ fld 0x16 1 < 16 ∧
       fld 0x16 1 % 4 ≠ 3 ∧ fld 0x16 1 / 4 ≠ 3 ∧ fld 0x17 9 = 0 ∧ fld 0x5C 36 = 0 ∧
       (∀ j, j < fld 0x14 1 → fld (0x20 + 4 * j) 4 % 64 = 0 ∧ fld (0x20 + 4 * j) 4 + size j ≤ 2 ^ 32) ∧
       (∀ j, fld 0x14 1 ≤ j → j < 15 → fld (0x20 + 4 * j) 4 = 0)
     let some_ (t : State) (code : BitVec 8) : Prop := SameBytes s t ∧ ∃ info, TookFault s t code info h
     VecReady s → VecOk v → v.sew = 32 → GroupOk v d.toNat v.g → b.toNat % v.g = 0 →
     ∀ p ∈ [(Instr.texadr d a b k, 1), (.texld d a b k, 1), (.texbil d a b k, 3), (.textri d a b k, 3)], b.toNat + p.2 * v.g ≤ v.vregs →
       (v.len = 0 → Answers p.1 s (fun t => SetsElems s t d (fun _ => false) (fun _ => 0) ∧ t.me.flags = s.me.flags)) ∧
       (v.len ≠ 0 →
         (h.toNat % 128 ≠ 0 → s.recordHeld s.cur = false → Answers p.1 s (fun t => some_ t 0x06)) ∧
         (h.toNat % 128 = 0 → s.isDoorbell va = true → Faults p.1 s 0x07 0 h) ∧
         (h.toNat % 128 = 0 → s.isDoorbell va = false →
           (∀ m x, s.locate s.req 1 va = .error (.right m x) → s.recordHeld s.cur = false → Answers p.1 s (fun t =>
             t.me.st = faultState s.me true ∧ t.me.causeCode = 0x40 ∧ t.me.causeInfo = m.setWidth 16 ∧ t.me.vec = v)) ∧
           (∀ x, s.locate s.req 1 va = .error (.xlate x) → Faults p.1 s 0x11 0 h) ∧
           (s.locate s.req 1 va = .ok (t1, l) → s.attr va ≠ 3 → t1.claim false va l = .ok t2 →
             (¬good → s.recordHeld s.cur = false → Answers p.1 s (fun t => some_ t 0x26)) ∧
             (good → ∃ u, s.readDesc h = .ok (u, texDesc bs)))))) ∧
  (∀ (s s2 : State) (tx : TexDesc) (taps : List Tap) (vals : List (Tap × Nat)),
     let D := s.die (dieOf s.cur)
     let up (x y : Nat) : Nat := (x + y - 1) / y
     let fmt : List (Nat × Nat) := [(1, 4), (4, 8), (4, 16), (4, 16), (4, 8), (4, 16), (4, 16), (4, 16), (4, 16), (6, 16), (8, 16)]
     let b := (fmt.getD tx.cfmt (0, 0)).1
     let n := (fmt.getD tx.cfmt (0, 0)).2
     let wd (k : Nat) : Nat := max 1 (tx.w0 / 2 ^ k)
     let ht (k : Nat) : Nat := max 1 (tx.h0 / 2 ^ k)
     let coff (k : Nat) : Nat := ((List.range k).map (fun j => up (wd j) b * up (ht j) b * n)).sum
     let block (p : Tap) : Nat := (tx.cbase + coff p.k + (p.y / b * up (wd p.k) b + p.x / b) * n) % 2 ^ 56
     let at_ (p : Tap) : Nat × Nat × Nat := (p.x / 4, p.y / 4, p.k)
     tx.cfmt ≤ 10 →
     (s.readTaps tx taps = .ok (s2, vals) →
       vals.map (·.1) = taps ∧ s2.st = s.st ∧
       (s.me.paths = [] → tx.cbase % 16 = 0 → ∀ p w off pa, (p, w) ∈ vals → p.x < wd p.k → p.y < ht p.k →
         (∀ q ∈ taps, tx.tag p = tx.tag q → at_ p = at_ q) → s.texLocal tx p = none → D.texGroup (tx.tag p) = none →
         s.region (block p) = .home off → D.pgEn = true → walk s.st.dram.bytes D.pgAddr.toNat off = some pa →
         (∀ f, tlbFind D.tlb (off / 2 ^ 16) = some f → f = pa / 2 ^ 16) →
         w = texelWord tx.cfmt (ofBytes (s.st.dram.bytes.readN pa n)) (p.x % b) (p.y % b))) ∧
     (∀ (W : Tap → Nat) (ads : List VAddr_) (t1 : State) (locs : List VLoc),
       (∀ p ∈ taps, ∃ e, s.texLocal tx p = some e ∧ e.word = W p) ∨
         (D.tex.length ≤ 65536 ∧ ∀ p ∈ taps, s.texLocal tx p = none ∧
           ∃ g, D.texGroup (tx.tag p) = some g ∧ g.texels.getD (p.y % 4 * 4 + p.x % 4) 0 = W p) →
       (∀ p ∈ taps, s.attr (block p) ≠ 3) → s.me.paths = [] →
       s.elemAddrs 32 (taps.map (fun p => ⟨p.i, BitVec.ofNat 64 tx.dbase, (tx.texOff p.x p.y p.k : Int)⟩)) = .ok ads →
       s.confirmElems 32 1 ads = .ok (t1, locs) →
       firstDenied (t1.confirmAll 1 (taps.map (fun p => ⟨p.i, BitVec.ofNat 64 (block p)⟩))).2 = none →
       ∃ u, s.readTaps tx taps = .ok (u, taps.map (fun p => (p, W p))))) ∧
  (∀ (s s1 s2 : State) (d b : VNum) (a : XReg) (k : MReg) (tx : TexDesc) (taps : List Tap) (vals : List (Tap × Nat)),
     let v := s.me.vec
     let E (i : Nat) : Nat := v.elem b.toNat i 32
     let x (i : Nat) : Nat := E i % 2 ^ 14
     let y (i : Nat) : Nat := E i / 2 ^ 14 % 2 ^ 14
     let m (i : Nat) : Nat := E i / 2 ^ 28 % 16
     let wd (j : Nat) : Nat := max 1 (tx.w0 / 2 ^ j)
     let ht (j : Nat) : Nat := max 1 (tx.h0 / 2 ^ j)
     let out (i : Nat) : Bool := decide (tx.nmip ≤ m i ∨ wd (m i) ≤ x i ∨ ht (m i) ≤ y i)
     let FIN (i : Nat) : Bool := (v.vals b 0 3 i).all (fun f => !f.isNan && !f.isInf)
     let U (i : Nat) : Rat := ((v3Of (v.vals b 0 3 i)).x : Rat) / 2 ^ 149
     let V (i : Nat) : Rat := ((v3Of (v.vals b 0 3 i)).y : Rat) / 2 ^ 149
     let L (i : Nat) : Rat := ((v3Of (v.vals b 0 3 i)).z : Rat) / 2 ^ 149
     let wrap (c : Int) (n : Nat) (mode : Nat) : Int :=
       if mode = 0 then c % n else if mode = 1 then min (max c 0) (n - 1)
       else if n ≤ c % (2 * n) then 2 * n - 1 - c % (2 * n) else c % (2 * n)
     let ch (W c : Nat) : Nat := W / 256 ^ c % 256
     let tap (i j : Nat) (X Y : Int) : Tap := ⟨i, (wrap X (wd j) (tx.mode % 4)).toNat, (wrap Y (ht j) (tx.mode / 4)).toNat, j⟩
     let bil (i j W : Nat) : Prop :=
       let S : Rat := U i * wd j - 1 / 2
       let T : Rat := V i * ht j - 1 / 2
       let fx : Int := ((S - S.floor) * 256).floor
       let fy : Int := ((T - T.floor) * 256).floor
       ∃ T00 T10 T01 T11 : Nat,
         (tap i j S.floor T.floor, T00) ∈ vals ∧ (tap i j (S.floor + 1) T.floor, T10) ∈ vals ∧
         (tap i j S.floor (T.floor + 1), T01) ∈ vals ∧ (tap i j (S.floor + 1) (T.floor + 1), T11) ∈ vals ∧
         W < 2 ^ 32 ∧ ∀ c, c < 4 → (ch W c : Int) =
           ((256 - fx) * (256 - fy) * ch T00 c + fx * (256 - fy) * ch T10 c + (256 - fx) * fy * ch T01 c + fx * fy * ch T11 c + 32768) / 65536
     let lk (i : Nat) : Nat := (min (max (L i + 1 / 2).floor 0) ((tx.nmip : Int) - 1)).toNat
     let ll (i : Nat) : Rat := min (max (L i) 0) ((tx.nmip : Rat) - 1)
     let tk (i : Nat) : Nat := (ll i).floor.toNat
     let tf (i : Nat) : Int := if tk i + 1 = tx.nmip then 0 else ((ll i - tk i) * 256).floor
     let near (i : Nat) : Bool := taps.any (fun p => p.i == i)
     let filtered (t : State) (r : Nat → Nat → Prop) : Prop :=
       (∀ i ∈ v.active k, FIN i = true → r i (t.me.vec.elem d.toNat i 32)) ∧
       (∀ i ∈ v.active k, FIN i = false → t.me.vec.elem d.toNat i 32 = 0) ∧
       (∀ i, i < vlMax v.rlen 32 v.g → i ∉ v.active k → t.me.vec.elem d.toNat i 32 = v.elem d.toNat i 32) ∧
       (t.me.flags = s.me.flags ||| (if (v.active k).any (fun i => !FIN i) then fNV.bits else 0)) ∧ VecFrame d.toNat v.g s t
     VecReady s → VecOk v → v.sew = 32 → v.len ≠ 0 → GroupOk v d.toNat v.g → b.toNat % v.g = 0 → b.toNat + v.g ≤ v.vregs →
     s.readDesc (s.rx a) = .ok (s1, tx) → s1.me = s.me →
       Answers (.texadr d a b k) s (fun t => SetsElems s t d (v.mbit k) (fun i => if out i then 0 else
         tx.off (m i) + (y i / 4 * ((wd (m i) + 3) / 4) + x i / 4) * 64 + (y i % 4 * 4 + x i % 4) * 4) ∧ t.me.flags = s.me.flags) ∧
       (taps = ((v.active k).filter (fun i => !out i)).map (fun i => ⟨i, x i, y i, m i⟩) →
         s1.readTaps tx taps = .ok (s2, vals) → s2.me = s.me → Answers (.texld d a b k) s (fun t =>
         (∀ i ∈ v.active k, out i = true → t.me.vec.elem d.toNat i 32 = 0) ∧
         (∀ i ∈ v.active k, out i = false → ∃ w, (⟨i, x i, y i, m i⟩, w) ∈ vals ∧ t.me.vec.elem d.toNat i 32 = w % 2 ^ 32) ∧
         (∀ i, i < vlMax v.rlen 32 v.g → i ∉ v.active k → t.me.vec.elem d.toNat i 32 = v.elem d.toNat i 32) ∧
         t.me.flags = s.me.flags ∧ VecFrame d.toNat v.g s t)) ∧
       (b.toNat + 3 * v.g ≤ v.vregs →
         taps = ((v.active k).filter FIN).flatMap (fun i => tx.elTaps (tx.elBil i (v3Of (v.vals b 0 3 i)).x (v3Of (v.vals b 0 3 i)).y
           (v3Of (v.vals b 0 3 i)).z)) → s1.readTaps tx taps = .ok (s2, vals) → s2.me = s.me →
         Answers (.texbil d a b k) s (fun t => filtered t (fun i W => bil i (lk i) W)) ∧
         ∀ i ∈ v.active k, near i = FIN i) ∧
       (b.toNat + 3 * v.g ≤ v.vregs →
         taps = ((v.active k).filter FIN).flatMap (fun i => tx.elTaps (tx.elTri i (v3Of (v.vals b 0 3 i)).x (v3Of (v.vals b 0 3 i)).y
           (v3Of (v.vals b 0 3 i)).z)) → s1.readTaps tx taps = .ok (s2, vals) → s2.me = s.me →
         Answers (.textri d a b k) s (fun t => filtered t (fun i W => ∃ B0 B1 : Nat,
           bil i (tk i) B0 ∧ bil i (min (tk i + 1) (tx.nmip - 1)) B1 ∧ W < 2 ^ 32 ∧
           ∀ c, c < 4 → (ch W c : Int) = ((256 - tf i) * ch B0 c + tf i * ch B1 c + 128) / 256))))

/-! ## Synchronisation -/

/-- R341 and R168: the checks of a named word in their order, for an 8-byte atomic: an address that is not a multiple of 8
faults with `MISALIGN`, a doorbell page with `DBELL_ACCESS`, a missing right freezes, a missing translation faults with
`DATA_XLATE`; and a full/empty form outside an `FE` segment of memory-homed space faults with `FE_TARGET` (0x24) at the address.
R353: the atomics, where the named word passes R341. The old word goes to the register, zero-extended or for `ATMAX` and `ATMIN`
sign-extended, and the new one to the word; no other byte, register or flag changes but `POISONLESS` of a flagged region. Where
the place of the word is not ready (R354), it is held. -/
def Obligations.Atomics : Prop :=
  (∀ (s t1 : State) (d a b : XReg) (sc : BitVec 3) (ea : Word) (l : Loc) (m : BitVec 4) (x : Nat),
     let va := ea.toNat % 2 ^ 56
     kindOf s.cur = .user → fatAdd (s.rx a) 0 = some ea →
     (va % 8 ≠ 0 → Faults (.atadd d a b sc 0) s 0x06 3 ea) ∧
     (va % 8 = 0 → s.isDoorbell va = true → Faults (.atadd d a b sc 0) s 0x07 0 ea) ∧
     (va % 8 = 0 → s.isDoorbell va = false → s.locate s.req 11 va = .error (.right m x) → s.recordHeld s.cur = false →
       Answers (.atadd d a b sc 0) s (fun t => t.me.st = faultState s.me true ∧ t.me.causeCode = 0x40 ∧
         t.me.causeInfo = m.setWidth 16 ∧ t.me.fpc = s.me.pc ∧ t.me.x = s.me.x)) ∧
     (va % 8 = 0 → s.isDoorbell va = false → s.locate s.req 11 va = .error (.xlate x) →
       Faults (.atadd d a b sc 0) s 0x11 0 ea) ∧
     (va % 8 = 0 → s.isDoorbell va = false → s.locate s.req 11 va = .ok (t1, l) → s.attr va ≠ 3 →
       (s.attr va ≠ 1 ∨ ((∀ off, s.region va ≠ .home off) ∧ ∀ pk, s.region va ≠ .foreign pk)) → s.recordHeld s.cur = false →
       Answers (.fetake d a sc) s (fun t => t.me.causeCode = 0x24 ∧ t.me.faddr = ea ∧ t.me.fpc = s.me.pc ∧
         t.me.st = faultState s.me false ∧ t.me.x = s.me.x))) ∧
  (∀ (s t1 : State) (d a b : XReg) (sc : BitVec 3) (sz : BitVec 2) (w : WordAt),
     let n := if sz = 0 then 8 else 4
     let old := ofBytes ((s.st.of w.loc.sp).readN w.loc.a n)
     let B := (s.rx b).toNat % 2 ^ (8 * n)
     let sg (v : Nat) : Int := signedNat (8 * n) v
     let is (i : Instr) (new : Nat) (r : Word) : Prop := Answers i s (fun t =>
       Result s t d r ∧ SetsWord s t w.loc n new ∧
         t.me.flags = if t1.flagged (w.ea.toNat % 2 ^ 56) then s.me.flags ||| 0x80 else s.me.flags)
     s.memWf → (kindOf s.cur = .user ∨ kindOf s.cur = .firmware) →
     (∀ (u : State) (f : XReg → XReg → XReg → BitVec 3 → BitVec 2 → Instr), s.wordAt a n 11 false = .error (.hold u) →
       f ∈ [Instr.atadd, .atswap, .atcas, .atand, .ator, .atmax, .atmin] → Held (f d a b sc sz) s u) ∧
     (s.wordAt a n 11 false = .ok (t1, w) →
       is (.atadd d a b sc sz) ((old + B) % 2 ^ (8 * n)) (BitVec.ofNat 64 old) ∧
       is (.atswap d a b sc sz) B (BitVec.ofNat 64 old) ∧
       is (.atcas d a b sc sz) (if old = (s.rx d).toNat % 2 ^ (8 * n) then B else old) (BitVec.ofNat 64 old) ∧
       is (.atand d a b sc sz) (old &&& B) (BitVec.ofNat 64 old) ∧
       is (.ator d a b sc sz) (old ||| B) (BitVec.ofNat 64 old) ∧
       is (.atmax d a b sc sz) (if sg old < sg B then B else old) (BitVec.ofInt 64 (sg old)) ∧
       is (.atmin d a b sc sz) (if sg B < sg old then B else old) (BitVec.ofInt 64 (sg old)) ∧
       (sz = 1 → is (.amaxm d a b sc sz)
         (if 0x7F800000 < old % 2 ^ 31 ∨ 0x7F800000 < B % 2 ^ 31 then 0x7FC00000
           else if 2 ^ 31 ≤ old ∨ old < B % 2 ^ 31 then B % 2 ^ 31 else old) (BitVec.ofNat 64 old)) ∧
       (sz ≠ 1 → Faults (.amaxm d a b sc sz) s 0x01 (BitVec.ofNat 16 (7 + 16 * 131)) 0)))

/-- R355: the full/empty forms. A take of a full word empties it and gets its value; of an empty one it joins the list and
parks, or is held while the list has no entry free. A fill of a full word gets 1 and writes nothing; of an empty one it writes,
gets 0, and makes the word full unless a take waits: then the head take is handed the value, and the word stays empty. A peek
gets the bit. The model's readings: a word's bit is kept by its virtual address (log entry 37), and a take that finds no list
entry is held at its source (log entry 96). -/
def Obligations.FullEmptyWords : Prop :=  ∀ (s t1 : State) (d a b : XReg) (sc : BitVec 3) (w : WordAt),
    let va := w.ea.toNat % 2 ^ 56
    let full := ¬va ∈ s.empties
    let val := ofBytes ((s.st.of w.loc.sp).readN w.loc.a 8)
    s.memWf → kindOf s.cur = .user →
    (s.wordAt a 8 11 true = .ok (t1, w) →
      (full → Answers (.fetake d a sc) s (fun t => Result s t d (BitVec.ofNat 64 val) ∧ va ∈ t.empties ∧
        (∀ v, v ≠ va → (v ∈ t.empties ↔ v ∈ s.empties)) ∧ SameBytes s t)) ∧
      (¬full → s.takesFull va = true → Held (.fetake d a sc) s s) ∧
      (¬full → s.takesFull va = false → Answers (.fetake d a sc) s (fun t => ParkedOn s t (.take (BitVec.ofNat 56 va) d s.ilen) ∧
        t.takes = s.takes ++ [⟨va, s.cur⟩])) ∧
      (full → Answers (.fefill d a b sc) s (fun t => Result s t d 1 ∧ SameBytes s t ∧ t.empties = s.empties)) ∧
      (¬full → s.headTake va = none → Answers (.fefill d a b sc) s (fun t => Result s t d 0 ∧
        SetsWord s t w.loc 8 (s.rx b).toNat ∧ ∀ v, v ∈ t.empties ↔ v ∈ s.empties ∧ v ≠ va)) ∧
      (∀ (c : CtxId) (rd : XReg) (n : Nat) (u : VAddr), ¬full → s.headTake va = some ⟨va, c⟩ → c ≠ s.cur →
        (s.ctx c).wait = some (.take u rd n) → Answers (.fefill d a b sc) s (fun t => Result s t d 0 ∧
          SetsWord s t w.loc 8 (s.rx b).toNat ∧ va ∈ t.empties ∧
          t.empties = s.empties ∧ t.takes = s.takes.erase ⟨va, c⟩ ∧ (t.ctx c).st = .run ∧ (t.ctx c).wait = none ∧
          xGet (t.ctx c).x rd = if rd = 0 then xGet (s.ctx c).x 0 else s.rx b)) ∧
      (s.takesFull va = true ↔ 4096 ≤ (s.takes.filter (fun e =>
        e.va / 2 ^ 16 % 4 = va / 2 ^ 16 % 4 ∧ e.va / 2 ^ 48 = va / 2 ^ 48)).length)) ∧
    (s.wordAt a 8 9 true = .ok (t1, w) → Answers (.fepeek d a sc) s (fun t =>
      (full → Result s t d 1) ∧ (¬full → Result s t d 0) ∧ SameBytes s t ∧ t.empties = s.empties))

/-- R316 with R168: the acquire loads and release stores outside doorbell pages and `BV` segments. A load zero-extends its n
bytes; a store writes the low n bytes of its register, after every earlier entry of the vector queue has left. R364, R365: the
fences. A kind or path that the rules do not define traps `ILLEGAL` with reason 0x7; a fence lets every earlier entry of the
context leave the vector queue, and bit 4 of `FENCE` makes every later fetch read memory as it is now or becomes (R170);
`FENCEX` makes path Q see what was written on path P (R262), and nothing else of what is unseen: every read of every path sees
what it saw, but for those writes. The rest of the state is as it was. -/
def Obligations.AcquireReleaseFences : Prop :=
  (∀ (s t1 t2 t3 : State) (d a : XReg) (imm ea : Word) (sc : BitVec 3) (l : Loc),
     let va := ea.toNat % 2 ^ 56
     s.memWf → kindOf s.cur = .user → fatAdd (s.rx a) imm.toInt = some ea → s.isDoorbell va = false → s.attr va ≠ 3 →
     (∀ p ∈ ([(Instr.lda, 8), (.ldaw, 4), (.ldah, 2), (.ldab, 1)] : List ((XReg → XReg → Word → BitVec 3 → Instr) × Nat)),
       va % p.2 = 0 → s.locate s.req 1 va = .ok (t1, l) → t1.claimStrong false va l = .ok t2 → t2.strong_ l va p.2 = .ok t3 →
       Answers (p.1 d a imm sc) s (fun t =>
         Result s t d (BitVec.ofNat 64 (ofBytes (s.st.getSeen s.free pCore s.me.paths l p.2))) ∧ SameBytes s t)) ∧
     (∀ p ∈ ([(Instr.stl, 8), (.stlw, 4), (.stlh, 2), (.stlb, 1)] : List ((XReg → XReg → Word → BitVec 3 → Instr) × Nat)),
       va % p.2 = 0 → s.locate s.req 2 va = .ok (t1, l) → t1.claimStrong true va l = .ok t2 → t2.strong_ l va p.2 = .ok t3 →
       Answers (p.1 d a imm sc) s (fun t =>
         SetsWord s t l p.2 (s.rx d).toNat ∧ t.me.x = s.me.x ∧ t.me.vec = s.me.vec ∧ t.me.flags = s.me.flags ∧
         NextChain s t ∧ ∀ e ∈ t.mySide.vq, e.slot ≠ s.cur.slot))) ∧
  (∀ (s : State) (sc : BitVec 3) (n : BitVec 8),
     let left (t : State) : Prop :=
       t = { s with sides := t.sides
                    me := { s.me with paths := t.me.paths, views := t.me.views, stripDone := t.me.stripDone, pc := t.me.pc
                                      haz := t.me.haz, stall := t.me.stall, missack := t.me.missack } } ∧
       t.mySide = { s.mySide with vq := s.mySide.vq.filter (fun e => e.slot != s.cur.slot) } ∧
       (∀ k, k ≠ sideKey s.cur.unit s.cur.side → t.sides.get Side.reset k = s.sides.get Side.reset k) ∧ NextChain s t
     let cut (e : PathWrite) : PathWrite :=
       if e.path = n.toNat % 8 then { e with unseen := e.unseen &&& ~~~(BitVec.ofNat 5 (2 ^ (n.toNat / 8 % 8))) } else e
     kindOf s.cur = .user →
     ((n = 0 ∨ 32 ≤ n.toNat) → Faults (.fence sc n) s 0x01 (BitVec.ofNat 16 (7 + 16 * 137)) 0) ∧
     (n ≠ 0 → n.toNat < 32 → Answers (.fence sc n) s (fun t => left t ∧ t.me.paths = s.me.paths ∧
       t.me.views = if n.getLsbD 4 then [{ base := 0, size := 2 ^ 64, st := s.st }] else s.me.views)) ∧
     ((4 < n.toNat % 8 ∨ 4 < n.toNat / 8 % 8 ∨ 64 ≤ n.toNat) →
       Faults (.fencex sc n) s 0x01 (BitVec.ofNat 16 (7 + 16 * 138)) 0) ∧
     (n.toNat % 8 ≤ 4 → n.toNat / 8 % 8 ≤ 4 → n.toNat < 64 → Answers (.fencex sc n) s (fun t => left t ∧
       t.me.views = s.me.views ∧ t.me.paths.Sublist (s.me.paths.map cut) ∧
       ∀ (free path : Nat) (l : Loc) (m : Nat),
         s.st.getSeen free path t.me.paths l m = s.st.getSeen free path (s.me.paths.map cut) l m)))

/-- R357 and R358: barriers. The status of a post by the barrier's fields, the word that it leaves, and the notices to the
waiting contexts when it is the last; a wait completes at once when its phase is complete and parks otherwise, and a limit of 0
tests once. R358: the notice of a phase, and the limit. A context that waits for a phase that the notice shows complete goes on
after its chain with the phase in its register; a limited one gets 0, or 1 once `DCYC` has passed its deadline. That a limit of
0 answers in the step that issues it is the model's reading (log entry 38). -/
def Obligations.Barriers : Prop :=
  (∀ (s t1 : State) (d a b : XReg) (sc : BitVec 3) (sp : Bool) (w : WordAt),
     let v := ofBytes ((s.st.of w.loc.sp).readN w.loc.a 8)
     let phase := v % 2 ^ 32
     let arrived := v / 2 ^ 32 % 2 ^ 16
     let npart := v / 2 ^ 48
     let p (r : XReg) : Nat := if sp then s.me.strip.toNat else (s.rx r).toNat % 2 ^ 32
     let dist (r : XReg) : Nat := (p r + 2 ^ 32 - phase) % 2 ^ 32
     let done (r : XReg) : Prop := 1 ≤ (phase + 2 ^ 32 - p r) % 2 ^ 32 ∧ (phase + 2 ^ 32 - p r) % 2 ^ 32 < 2 ^ 31
     let post (r : Word) (v' : Nat) : Prop := Answers (.post d a b sc sp) s (fun t => Result s t d r ∧ SetsWord s t w.loc 8 v')
     let same (r : Word) : Prop := Answers (.post d a b sc sp) s (fun t => Result s t d r ∧ SameBytes s t)
     s.memWf → kindOf s.cur = .user → (sp = true → b = 0) →
     (s.wordAt a 8 11 false = .ok (t1, w) →
       ((npart = 0 ∨ npart ≤ arrived) → same 3) ∧
       (0 < npart → arrived < npart → dist b ≠ 0 → same (if 2 ^ 31 ≤ dist b then 1 else 2)) ∧
       (arrived + 1 < npart → dist b = 0 → post 0 (v + 2 ^ 32)) ∧
       (arrived + 1 = npart → dist b = 0 → post 4 ((phase + 1) % 2 ^ 32 + 2 ^ 48 * npart) ∧
         Answers (.post d a b sc sp) s (fun t => ∀ (c : CtxId) (q : BitVec 32) (rd : XReg) (n : Nat),
           c ≠ s.cur → (c, Wait.phase (BitVec.ofNat 56 (w.ea.toNat % 2 ^ 56)) q rd n) ∈ s.waiters →
           ⟨.barrierNotice, .ctxPhase c (BitVec.ofNat 32 (phase + 1))⟩ ∈ t.events))) ∧
     (s.wordAt a 8 9 false = .ok (t1, w) →
       (done b → Answers (.pwait d a b sc sp) s (fun t => Result s t d (BitVec.ofNat 64 phase) ∧ SameBytes s t)) ∧
       (¬done b → Answers (.pwait d a b sc sp) s (fun t =>
         ParkedOn s t (.phase (BitVec.ofNat 56 (w.ea.toNat % 2 ^ 56)) (BitVec.ofNat 32 (p b)) d s.ilen))) ∧
       (done d → Answers (.waitt d a b sc sp) s (fun t => Result s t d 0 ∧ SameBytes s t)) ∧
       (¬done d → s.rx b = 0 → Answers (.waitt d a b sc sp) s (fun t => Result s t d 1 ∧ SameBytes s t)) ∧
       (¬done d → s.rx b ≠ 0 → Answers (.waitt d a b sc sp) s (fun t =>
         ParkedOn s t (.timed (BitVec.ofNat 56 (w.ea.toNat % 2 ^ 56)) (BitVec.ofNat 32 (p d))
           ((s.die (dieOf s.cur)).dcyc.toNat + (s.rx b).toNat) d s.ilen))))) ∧
  (∀ (s : State) (c : CtxId) (ph q : BitVec 32) (va : VAddr) (rd : XReg) (n dl : Nat),
     let ready := 1 ≤ (ph - q).toNat ∧ (ph - q).toNat < 2 ^ 31
     let woken (t : State) (v : Word) : Prop := (t.ctx c).st = .run ∧ (t.ctx c).wait = none ∧
       (t.ctx c).pc = (s.ctx c).pc + BitVec.ofNat 56 (2 * n) ∧
       xGet (t.ctx c).x rd = (if rd = 0 then xGet (s.ctx c).x 0 else v) ∧ (∀ r, r ≠ rd → xGet (t.ctx c).x r = xGet (s.ctx c).x r) ∧
       SameBytes s t ∧ ∀ k, k ≠ c → t.ctx k = s.ctx k
     (s.ctx c).st = .wait →
     (s.opd = .ctxPhase c ph → (s.ctx c).wait = some (.phase va q rd n) →
       (ready → Answers .barrierNotice s (fun t => woken t (ph.setWidth 64))) ∧
       (¬ready → Answers .barrierNotice s (fun t => t = s))) ∧
     (s.opd = .ctxPhase c ph → (s.ctx c).wait = some (.timed va q dl rd n) → ready →
       Answers .barrierNotice s (fun t => woken t (if (s.die (dieOf c)).dcyc.toNat ≤ dl then 0 else 1))) ∧
     (s.opd = .ctx c → (s.ctx c).wait = some (.timed va q dl rd n) →
       (dl < (s.die (dieOf c)).dcyc.toNat → Answers .waittTimeout s (fun t => woken t 1)) ∧
       ((s.die (dieOf c)).dcyc.toNat ≤ dl → Answers .waittTimeout s (fun t => t = s))))

/-- R360, R361, R359: the post ring, tickets and strip waits. A post below the frontier gets 1; one in the window sets its bit
and moves the frontier past the posts that follow it in line; one beyond parks. A wait gets the frontier once it has passed. -/
def Obligations.RingsTicketsStrips : Prop :=  ∀ (s t1 : State) (d a b : XReg) (sc : BitVec 3) (w : WordAt) (v : Word),
    let c := (s.rx a).toNat
    let i := (s.rx b).toNat
    let dl := dieOf s.cur
    let ch := (s.die dl).chans.get Chan.reset c
    let B := ch.frontier.toNat
    let own := (s.die dl).postown[c]? = some s.me.pdid
    let old := ofBytes ((s.st.of w.loc.sp).readN w.loc.a 4)
    let lag := ((s.rx b).toNat % 2 ^ 32 + 2 ^ 32 - old) % 2 ^ 32
    s.memWf → kindOf s.cur = .user → s.me.st = .run →
    (15 < c → Faults (.ipost d a b false) s 0x01 (BitVec.ofNat 16 (7 + 16 * 132)) 0) ∧
    (c ≤ 15 → own →
      Answers (.ipost d a b true) s (fun t => Result s t d 0 ∧ (t.die dl).chans.get Chan.reset c = ⟨s.rx b, 0⟩) ∧
      (i < B → Answers (.ipost d a b false) s (fun t => Result s t d 1 ∧ (t.die dl).chans = (s.die dl).chans)) ∧
      (B + 256 ≤ i → Answers (.ipost d a b false) s (fun t => ParkedOn s t (.post c (s.rx b) d s.ilen))) ∧
      (B ≤ i → i < B + 256 → B + 256 < 2 ^ 64 → Answers (.ipost d a b false) s (fun t => Result s t d 0 ∧
        ∃ (ch' : Chan) (k : Nat), (t.die dl).chans.get Chan.reset c = ch' ∧ k ≤ 256 ∧ ch'.frontier.toNat = B + k ∧
          (∀ j, j < k → (ch.window.getLsbD j = true ∨ B + j = i)) ∧
          (k < 256 → ¬(ch.window.getLsbD k = true ∨ B + k = i)) ∧
          ∀ j, j < 256 → ch'.window.getLsbD j = (decide (k + j < 256) && (ch.window.getLsbD (k + j) || B + (k + j) == i)))) ∧
      (i < B → Answers (.iwait d a b) s (fun t => SetsX s t d ch.frontier)) ∧
      (B ≤ i → Answers (.iwait d a b) s (fun t => ParkedOn s t (.frontier c (s.rx b) d s.ilen)))) ∧
    (s.wordAt a 4 11 false = .ok (t1, w) →
      (1 ≤ i → i ≤ 4096 → Answers (.tkget d a b sc) s (fun t => Result s t d (BitVec.ofNat 64 old) ∧ SetsWord s t w.loc 4 ((old + i) % 2 ^ 32))) ∧
      (old = i % 2 ^ 32 → Answers (.tcdone d a b sc) s (fun t => Result s t d 0 ∧ SetsWord s t w.loc 4 ((old + 1) % 2 ^ 32))) ∧
      (old ≠ i % 2 ^ 32 → Answers (.tcdone d a b sc) s (fun t => Result s t d 1 ∧ SameBytes s t))) ∧
    ((i < 1 ∨ 4096 < i) → Faults (.tkget d a b sc) s 0x01 (BitVec.ofNat 16 (7 + 16 * 135)) 0) ∧
    (s.wordAt a 4 9 false = .ok (t1, w) →
      (lag = 0 → Answers (.tcwait d a b sc) s (fun t => Result s t d 0 ∧ SameBytes s t)) ∧
      (2 ^ 31 ≤ lag → Answers (.tcwait d a b sc) s (fun t => Result s t d 1 ∧ SameBytes s t)) ∧
      (0 < lag → lag < 2 ^ 31 → Answers (.tcwait d a b sc) s (fun t =>
        ParkedOn s t (.ticket (BitVec.ofNat 56 (w.ea.toNat % 2 ^ 56)) ((s.rx b).setWidth 32) d s.ilen)))) ∧
    (s.opd = .imm v → s.me.stripLag ≤ v.toNat → Answers .swait s (fun t => OnlyPc s t ∧ NextChain s t))

/-- R330, R334, R336, R338 and R332: opening, snapshotting, closing, reclaiming and committing, once the ranges are confirmed. A
set or record that does not pass gets its status in the order of R330 and nothing else happens; one that passes is in service
with the bundle or snapshot open and the record's header as R330 leaves it. A commit of no bundle gets 0; of the last version
number, all ones; else the next version, its bundle `COMMITTED` and last in the set's installation order. A record that is
reclaimed is named by no open snapshot any more. R325: a joined store with no open bundle faults with `NO_BUNDLE` (0x21) at its
address. R333: a slot of the version that installs next is installed at its line's home in one step, once every cached copy of
the line has been taken back, and waits until then: each byte that the slot's mask names is the staged one, the line's current
version is the bundle's with the record's count of lines, and what was current is its previous version, with the bytes it had.
With the last slot the record is `INSTALLED` and the next version may begin. No slot at or beyond the record's count of lines,
or installed already, is installed. R331: a joined store where its line is in a `BV` segment of memory-homed space with no set
or the bundle's. It writes its bytes and their mask bits into the slot that lists its line, and no line. Where none does, it
takes the next one, whose `LINE`, `SFLAGS`, `MASK` and the record's `NLINES` it writes first, or faults with `BUNDLE_FULL`
(0x23) where `NLINES` = `CAP`. A line of another set, or of another segment, faults with `BUNDLE_TARGET` (0x22); `FADDR` is the
address. Each staging write is a write of the core path (`recPut`). R331: a staging write writes its bytes at the place of its
address, once the line is ready. R334, R335: what a load reads of a `BV` line. Without a snapshot, or of a line of another set,
it is the line's current bytes. The first load of a line in the snapshot fixes its version: that which the set is installing,
with its record, once a slot of it is installed, else the last installed, with none. A line no newer than the snapshot reads as
it is, with the bytes that the snapshot's record stages for it and has not installed; a newer one as its previous version, where
that is old enough; else it reads as it is and the stale bit is set. The model's readings: the order of statuses that hold
together (log entry 51), sets homed in other packages (log entry 52), and what `SFLAGS` says to an installation (log entry 99).
-/
def Obligations.Bundles : Prop :=
  (∀ (s t1 t2 : State) (d a b : XReg) (imm ea : Word) (bd : OpenBundle) (o : OpenSnap),
     let ds := (s.rx a).toNat % 2 ^ 56
     let r := (s.rx b).toNat % 2 ^ 56
     let dv := BitVec.ofNat 56 ds
     let kept (t : State) (v : Word) : Prop := Result s t d v ∧ t.me.bundle = s.me.bundle ∧ t.me.snap = s.me.snap ∧ SameBytes s t
     let e := s.bset bd.desc
     kindOf s.cur = .user →
     (s.resync.confirmRange ds 64 = .ok t1 → t1.confirmRec r = .ok t2 →
       let u := t2.serve dv
       (s.me.bundle.isSome → Answers (.bopen d a b) s (kept · 1)) ∧
       (s.me.bundle = none → t2.badSet ds = true → Answers (.bopen d a b) s (kept · 2)) ∧
       (s.me.bundle = none → t2.badSet ds = false → t2.badRec r = true → Answers (.bopen d a b) s (kept · 3)) ∧
       (s.me.bundle = none → t2.badSet ds = false → t2.badRec r = false → t2.serviceStatus dv ≠ 0 →
         Answers (.bopen d a b) s (kept · (if t2.inService dv then 4 else 5))) ∧
       (s.me.bundle = none → t2.badSet ds = false → t2.badRec r = false → t2.serviceStatus dv = 0 →
         Answers (.bopen d a b) s (fun t => Result s t d 0 ∧ t.inService dv = true ∧
           t.me.bundle = some ⟨dv, BitVec.ofNat 56 r⟩ ∧ t.me.snap = s.me.snap ∧
           t.st = ((((u.fwWrite (r + 8) 8 ds).fwWrite (r + 16) 8 0).fwWrite (r + 24) 8 0).fwWrite r 1 1).st))) ∧
     (s.resync.confirmRange ds 64 = .ok t1 →
       (s.me.snap.isSome → Answers (.bsnap d a) s (kept · 1)) ∧
       (s.me.snap = none → t1.badSet ds = true → Answers (.bsnap d a) s (kept · 2)) ∧
       (s.me.snap = none → t1.badSet ds = false → t1.serviceStatus dv = 0 → Answers (.bsnap d a) s (fun t =>
         Result s t d 0 ∧ t.inService dv = true ∧ t.me.snap = some ⟨dv, none, false⟩ ∧ t.me.snapValid = false ∧
         t.me.bundle = s.me.bundle ∧ SameBytes s t))) ∧
     (s.me.snap = none → Answers (.bend d) s (kept · 0xFE)) ∧
     (s.me.snap = some o → Answers (.bend d) s (fun t =>
       Result s t d (BitVec.ofNat 64 (o.stale.toNat + 2 ^ 16 * s.me.snapVersion.toNat)) ∧ t.me.snap = none ∧ t.me.snapValid = false)) ∧
     (s.resync.confirmRec ds = .ok t1 →
       let q := t1.fwRead ds 1
       ((ds % 128 ≠ 0 ∨ q = 0 ∨ 3 < q) → Answers (.breclaim d a) s (kept · 0xFE)) ∧
       (ds % 128 = 0 → (q = 1 ∨ q = 2) → Answers (.breclaim d a) s (kept · 1)) ∧
       (ds % 128 = 0 → q = 3 → Answers (.breclaim d a) s (fun t => Result s t d 0 ∧ t.st = (t1.fwWrite ds 1 0).st ∧
         ∀ c o, (t.ctx c).snap = some o → o.record ≠ some dv))) ∧
     (s.me.bundle = none → Answers (.bcommit d) s (kept · 0)) ∧
     (s.me.bundle = some bd → e.pending.length < 64 → e.counter = 2 ^ 48 - 1 →
       Answers (.bcommit d) s (fun t => Result s t d (BitVec.allOnes 64) ∧ t.me.bundle = none)) ∧
     (s.me.bundle = some bd → 64 ≤ e.pending.length →
       Answers (.bcommit d) s (fun t => ParkedOn s t (.reissue (.commit bd.desc)) ∧ t.me.bundle = s.me.bundle)) ∧
     (s.me.bundle = some bd → e.pending.length < 64 → e.counter ≠ 2 ^ 48 - 1 → Answers (.bcommit d) s (fun t =>
       Result s t d (BitVec.ofNat 64 (e.counter + 1)) ∧ t.me.bundle = none ∧ (t.bset bd.desc).counter = e.counter + 1 ∧
       (t.bset bd.desc).pending = e.pending ++ [⟨e.counter + 1, bd.record, some (s.ownerOf s.cur), []⟩] ∧
       t.st = (((s.fwWrite (bd.record.toNat + 16) 8 (e.counter + 1)).fwWrite bd.record.toNat 1 2)).st)) ∧
     (fatAdd (s.rx a) imm.toInt = some ea → ea.toNat % 2 ^ 56 % 8 = 0 → s.isDoorbell (ea.toNat % 2 ^ 56) = false →
       s.me.bundle = none → s.recordHeld s.cur = false → Answers (.sd d a imm true) s (fun t => t.me.causeCode = 0x21 ∧ t.me.faddr = ea ∧ t.me.fpc = s.me.pc ∧
         t.me.st = faultState s.me false ∧ t.me.x = s.me.x ∧ SameBytes s t))) ∧
  (∀ (s : State) (d : VAddr) (k : Nat) (c : Committed) (rest : List Committed) (l : Loc),
     let r := c.record.toNat
     let line := s.fwRead (r + 128 + 256 * k) 8 % 2 ^ 56 / 128 * 128
     let rest_ (w : State) : Prop := ∃ j, j < w.recLines r ∧ j ≠ k ∧ j ∉ c.done
     s.memWf → s.opd = .bundleSlot d k → (s.bset d).pending = c :: rest →
     (k < s.recLines r → k ∉ c.done → s.fwLoc line = some l →
       (∀ u, s.claimHome true line l = .error u → Answers .bundleSlotInstall s (fun t => t = u)) ∧
       ∀ u, s.claimHome true line l = .ok u → Answers .bundleSlotInstall s (fun t => (∃ v, (line, v) ∈ t.bv ∧
         v.cur = ⟨d, c.version, s.recLines r, c.record⟩ ∧ v.prev = (s.bvLine l line).cur ∧ v.prevData = s.st.get l 128) ∧
         ∃ w : State, (w.bset d).pending = { c with done := k :: c.done } :: rest ∧
           (∀ j, j < 128 → w.byteAt l.sp (l.a + j) = if (u.fwRead (r + 144 + 256 * k) 16).testBit j
             then BitVec.ofNat 8 (u.fwRead (r + 256 + 256 * k) 128 / 256 ^ j) else u.byteAt l.sp (l.a + j)) ∧
           (rest_ w → t = w) ∧
           (¬rest_ w → t = w.bundleInstalled d c ∧ (rest ≠ [] → (t.bset d).pending = rest ∧ (t.bset d).installed = c.version)))) ∧
     (k ∈ c.done → (∃ j, j < s.recLines r ∧ j ∉ c.done) → Answers .bundleSlotInstall s (fun t => t = s)) ∧
     (s.recLines r ≤ k → (∃ j, j < s.recLines r ∧ j ∉ c.done) → Answers .bundleSlotInstall s (fun t => t = s))) ∧
  (∀ (s s1 s2 : State) (d a : XReg) (imm ea : Word) (bd : OpenBundle) (l : Loc),
     let va := ea.toNat % 2 ^ 56
     let line := va / 128 * 128
     let off := va % 128
     let r := bd.record.toNat
     let n := s1.recLines r
     let listed (k : Nat) : Prop := s1.fwRead (r + 128 + 256 * k) 8 = line
     let set := (s1.bvLine { l with a := l.a - off } (va - off)).cur.desc
     let here : Prop := s1.attr va = 3 ∧ s1.memHomed va = true ∧ (set = 0 ∨ set = bd.desc)
     let puts (u : State) (ws : List (Nat × Nat × Nat)) : Except Stop State :=
       ws.foldl (fun x p => match x with
         | .ok y => y.recPut (r + p.1) p.2.1 p.2.2
         | .error e => .error e) (.ok u)
     ∀ p ∈ ([(Instr.sd, 8), (.sw, 4), (.sh, 2), (.sb, 1)] : List ((XReg → XReg → Word → Bool → Instr) × Nat)),
       let i := p.1 d a imm true
       let store (k mask : Nat) : List (Nat × Nat × Nat) :=
         [(256 + 256 * k + off, p.2, (s.rx d).toNat), (144 + 256 * k, 16, mask ||| (2 ^ p.2 - 1) * 2 ^ off)]
       kindOf s.cur = .user → fatAdd (s.rx a) imm.toInt = some ea → va % p.2 = 0 → s.isDoorbell va = false → s.me.bundle = some bd →
       s.locate s.req 2 va = .ok (s1, l) →
       (¬here → s.recordHeld s.cur = false → Answers i s (fun t => SameBytes s t ∧ ∃ info, TookFault s t 0x22 info ea)) ∧
       (here → (∀ k, k < n → ¬listed k) → s1.fwRead (r + 4) 4 ≤ n → s.recordHeld s.cur = false →
         Answers i s (fun t => SameBytes s t ∧ ∃ info, TookFault s t 0x23 info ea)) ∧
       (here → s1.joinReady r [line] = .ok s2 →
         (∀ (k : Nat) (w : State), k < n → listed k → (∀ j, j < k → ¬listed j) → s2.recLines r = n →
           (∀ j, j ≤ k → s2.fwRead (r + 128 + 256 * j) 8 = s1.fwRead (r + 128 + 256 * j) 8) →
           puts s2 (store k (s2.fwRead (r + 144 + 256 * k) 16)) = .ok w → Answers i s (fun t => t = w.finish)) ∧
         (∀ w1 w : State, (∀ k, k < n → ¬listed k) → n < s1.fwRead (r + 4) 4 → s2.recLines r = n →
           (∀ j, j < n → s2.fwRead (r + 128 + 256 * j) 8 = s1.fwRead (r + 128 + 256 * j) 8) →
           puts s2 [(128 + 256 * n, 8, line), (136 + 256 * n, 8, 0), (144 + 256 * n, 16, 0), (24, 4, n + 1)] = .ok w1 →
           puts w1 (store n (w1.fwRead (r + 144 + 256 * n) 16)) = .ok w → Answers i s (fun t => t = w.finish)))) ∧
  (∀ (s t u : State) (l : Loc) (va n v : Nat), s.memWf → l.sp ≠ .staging → n ≤ 128 →
     s.locate (fwReq (dieOf s.cur)) 0 va = .ok (t, l) → t.claim true va l = .ok u →
     ∃ w, s.recPut va n v = .ok w ∧ SetsBytes s w l n v ∧ w.me.x = s.me.x ∧ w.me.pc = s.me.pc) ∧
  (∀ (s t1 u : State) (d a : XReg) (imm ea : Word) (l : Loc),
     let va := ea.toNat % 2 ^ 56
     let off := va % 128
     let l0 : Loc := { l with a := l.a - off }
     let m := u.bvLine l0 (va - off)
     let cur (j : Nat) : Byte := u.byteAt l.sp (l0.a + j)
     let prev (j : Nat) : Byte := m.prevData.getD j 0
     let lists (r k : Nat) : Prop := u.fwRead (r + 128 + 256 * k) 8 = va - off ∧ u.fwRead (r + 136 + 256 * k) 8 % 2 = 0
     let staged (r k j : Nat) : Byte := if (u.fwRead (r + 144 + 256 * k) 16).testBit j
       then BitVec.ofNat 8 (u.fwRead (r + 256 + 256 * k) 128 / 256 ^ j) else cur j
     ∀ p ∈ ([(Instr.ld, 8, false), (.lw, 4, true), (.lwu, 4, false), (.lh, 2, true), (.lhu, 2, false), (.lb, 1, true),
         (.lbu, 1, false)] : List ((XReg → XReg → Word → Instr) × Nat × Bool)),
       let gives (t : State) (B : Nat → Byte) : Prop :=
         let v := ofBytes ((List.range p.2.1).map (fun j => B (off + j)))
         HoldsX t s d (if p.2.2 then sextNat (8 * p.2.1) v else BitVec.ofNat 64 v) ∧
         (∀ r, r ≠ d → xGet t.me.x r = xGet s.me.x r) ∧ NextChain s t ∧ SameBytes s t
       fatAdd (s.rx a) imm.toInt = some ea → va % p.2.1 = 0 → s.isDoorbell va = false → s.attr va = 3 → s.memHomed va = true →
       s.locate s.req 1 va = .ok (t1, l) → off ≤ l.a → t1.claim false va l = .ok u →
       u.waitsInstall (va / 128 * 128) off p.2.1 = false →
       ((s.me.snap = none ∨ ∃ o, s.me.snap = some o ∧ m.cur.desc ≠ 0 ∧ m.cur.desc ≠ o.desc) →
         Answers (p.1 d a imm) s (fun t => gives t cur ∧ t.me.snap = s.me.snap ∧ t.me.snapValid = s.me.snapValid ∧
           t.me.snapVersion = s.me.snapVersion)) ∧
       (∀ o, s.me.snap = some o → (m.cur.desc = 0 ∨ m.cur.desc = o.desc) → Answers (p.1 d a imm) s (fun t =>
         let I := (u.bset o.desc).installed
         let next := (u.bset o.desc).pending.find? (fun c => c.version == I + 1)
         ∃ rc : Option VAddr, t.me.snapValid = true ∧
           (s.me.snapValid = true → t.me.snapVersion = s.me.snapVersion ∧ rc = o.record) ∧
           (s.me.snapValid = false →
             (∀ c, next = some c → c.done ≠ [] → t.me.snapVersion = BitVec.ofNat 48 (I + 1) ∧ rc = some c.record) ∧
             ((∀ c, next = some c → c.done = []) → t.me.snapVersion = BitVec.ofNat 48 I ∧ rc = none)) ∧
           (m.cur.version ≤ t.me.snapVersion.toNat → t.me.snap = some { o with record := rc } ∧
             (∀ (r : VAddr) (k : Nat), rc = some r → k < u.recLines r.toNat → lists r.toNat k → (∀ j, j < k → ¬lists r.toNat j) →
               gives t (staged r.toNat k)) ∧
             ((∀ r : VAddr, rc = some r → ∀ k, k < u.recLines r.toNat → ¬lists r.toNat k) → gives t cur)) ∧
           (t.me.snapVersion.toNat < m.cur.version →
             let older := (m.prev.desc = 0 ∨ m.prev.desc = o.desc) ∧ m.prev.version ≤ t.me.snapVersion.toNat
             (older → t.me.snap = some { o with record := rc } ∧ gives t prev) ∧
             (¬older → t.me.snap = some { o with record := rc, stale := true } ∧ gives t cur)))))

/-! ## Engines and collectives -/

/-- R267, R268 and R271: a batch of copy commands, one to each 32 active elements of the group whose mask bit stands at its
first. An unmasked command's elements stay; of a masked one elements 29 to 31 get the promise, the handle and the reason, a
malformed one reason 1, and a rejected one neither promise nor handle; a promise lies after `DCYC`. `m[d]` has the bits of the
accepted ones and of the unmasked ones as they were. A single accepted command stands last in the queue of an engine of the die,
whose start is to come. R269, R270: an engine that runs none starts its oldest command whose stream is not stopped, its
completion to come, unless a right is missing over its footprint, which freezes the engine stream of its context. A command
waits until every line of it has been recalled (R263). It moves the bytes of every tuple, to destinations that may lie in two
pages each, writes its status to its flag, and changes no other byte; when it completes its handle has status 0 and the engine
looks for the next. This is said of tuples whose bytes lie apart, reached by translations that the writes do not touch. A
command of one tuple that has no translation moves nothing, and has status 1 with the address. R272 and R273: a wait on a handle
that names no tracked command gets 0xFE; on a completed one its status word, and the handle is free; otherwise it parks.
`CPSLEEP` on this die parks against the promise, and once that is past faults with `PROMISE_MISSED` (0x30), `FADDR` the handle,
and sets `MISSACK`, as does the promise's own event for a context that sleeps, whose cycle is the promise's; while the buffer
has not accepted the context's last record (R391) neither does so yet. The model's readings: a flag that waits for the host is
written when it has answered (log entry 20), what later tuples write is read before (log entry 123), a flag of a killed command
asks for no rights (log entry 125), an engine's write leaves versions and full/empty bits as they are (log entry 22), the slot
of a handle is the lowest free one (log entry 108), and a missed promise waits for a held record (log entry 110). -/
def Obligations.CopyEngine : Prop :=
  (∀ (s : State) (d k : MReg) (a : XReg) (b : VNum),
     let v := s.me.vec
     let dl := dieOf s.cur
     let el (u : VecState) (i : Nat) : Nat := u.elem b.toNat i 64
     let words (j : Nat) : List Word := (List.range 32).map (fun i => BitVec.ofNat 64 (el v (32 * j + i)))
     VecReady s → VecOk v → v.sew = 64 → v.len % 32 = 0 → GroupOk v b.toNat v.g → (s.die dl).dcyc.toNat < 2 ^ 63 →
     Answers (.cpbatch d a b k) s (fun t =>
       let u := t.me.vec
       (∀ j, 32 * j < v.len →
         (v.mbit k (32 * j) = false → ∀ i, i < 32 → el u (32 * j + i) = el v (32 * j + i)) ∧
         (v.mbit k (32 * j) = true →
           (∀ i, i < 29 → el u (32 * j + i) = el v (32 * j + i)) ∧ el u (32 * j + 31) ≤ 6 ∧
           (copyMalformed (words j) = true → el u (32 * j + 31) = 1) ∧
           (el u (32 * j + 31) ≠ 0 → el u (32 * j + 29) = 0 ∧ el u (32 * j + 30) = 0) ∧
           (el u (32 * j + 31) = 0 → (s.die dl).dcyc.toNat < el u (32 * j + 29)))) ∧
       (∀ q, q < 8192 → d ≠ 0 → u.mbit d q = (decide (q % 32 = 0 ∧ q < v.len) &&
         if v.mbit k q then el u (q + 31) == 0 else v.mbit d q)) ∧
       (v.len = 32 → v.mbit k 0 = true → el u 31 = 0 → ∃ (e : Nat) (cmd : CopyCmd), e < 4 ∧
         (t.die dl).copyQueue e = (s.die dl).copyQueue e ++ [cmd] ∧ cmd.words = words 0 ∧ cmd.handle.toNat = el u 30 ∧
         cmd.owner = s.ownerOf s.cur ∧ cmd.pdid = s.me.pdid ∧ cmd.started = false ∧
         ⟨.copyCommandStart, .engine dl e⟩ ∈ t.events) ∧
       t.me.x = s.me.x ∧ t.me.flags = s.me.flags ∧ NextChain s t ∧ SameBytes s t)) ∧
  (∀ (s : State) (d e : Nat) (k : CopyCmd),
     let q := (s.die d).copyQueue e
     let c := copyForm k.words
     let cells (x : List (Loc × Nat)) : List Loc := x.flatMap (fun p => (List.range p.2).map p.1.add)
     s.opd = .engine d e →
     (q.any (·.started) = true → Answers .copyCommandStart s (fun t => t = s)) ∧
     (q.any (·.started) = false → q.find? (fun j => !s.streamStopped j.owner) = some k →
       (s.cmdDenied k = none → Answers .copyCommandStart s (fun t =>
         { k with started := true } ∈ (t.die d).copyQueue e ∧ t.events = s.events ++ [⟨.copyCommandComplete, .engine d e⟩] ∧
         SameBytes s t)) ∧
       (∀ (x : BitVec 4 × Nat) (w : CtxId), s.cmdDenied k = some x → s.holderOf k.owner = some w →
         Answers .copyCommandStart s (fun t => (t.ctx w).engFrozen = true ∧ (t.die d).copyQueue e = q))) ∧
     (∀ u, q.find? (·.started) = some k → s.takeCommand (engReq k.pdid d) c = .error u →
       Answers .copyCommandComplete s (fun t => t = u)) ∧
     (∀ (s1 : State) (x : Nat), q.find? (·.started) = some k → c.tuples = 1 → c.flag = 0 → k.handle ≠ 0 →
       (∀ w ∈ s.waiters, ∀ p r n, w.2 ≠ .copy k.handle p r n) → s.takeCommand (engReq k.pdid d) c = .ok s1 →
       s1.tupleLocs (engReq k.pdid d) (c.from_ 0) (c.to_ 0) c.unit = .error x →
       Answers .copyCommandComplete s (fun t => SameBytes s t ∧ (k.handle, BitVec.ofNat 64 (1 + 256 * x)) ∈ (t.die d).copyDone)) ∧
     (∀ (s1 : State) (src dst : Nat → List (Loc × Nat)) (f : Loc),
       let N := c.tuples
       let off (y : Loc) : Prop := c.flag = 0 ∨ f.sp ≠ y.sp ∨ y.a < f.a ∨ f.a + 8 ≤ y.a
       let like (m : Stores) : Prop := ∀ y : Loc, (∀ i, i < N → y ∉ cells (dst i)) → off y → (m.of y.sp).read y.a = (s1.st.of y.sp).read y.a
       s.memWf → q.find? (·.started) = some k → c.unit ≠ 0 → s.takeCommand (engReq k.pdid d) c = .ok s1 →
       (∀ i, i < N → s1.flaggedIn (c.from_ i) c.unit = false) → s.pathsOf k.owner = [] →
       (∀ i, i < N → ∀ m, like m →
         ({ s1 with st := m } : State).tupleLocs (engReq k.pdid d) (c.from_ i) (c.to_ i) c.unit = .ok (src i, dst i)) →
       (∀ i, i < N → (cells (dst i)).Nodup ∧ ∀ y ∈ cells (dst i), off y) →
       (∀ i j, i < N → j < N → i ≠ j → (c.to_ i + c.unit ≤ c.to_ j ∨ c.to_ j + c.unit ≤ c.to_ i) ∧
         ∀ y ∈ cells (dst i), y ∉ cells (src j) ∧ y ∉ cells (dst j)) →
       (c.flag ≠ 0 → s1.hostWait f = none ∧ s1.strongHits none f 8 = [] ∧
         ∀ m, like m → ∃ u, ({ s1 with st := m } : State).locate (engReq k.pdid d) 0 (c.flag % 2 ^ 56) = .ok (u, f)) →
       k.handle ≠ 0 → (∀ w ∈ s.waiters, ∀ p r n, w.2 ≠ .copy k.handle p r n) →
       Answers .copyCommandComplete s (fun t =>
         (∀ (i j : Nat) (y z : Loc), i < N → (cells (dst i))[j]? = some y → (cells (src i))[j]? = some z →
           t.byteAt y.sp y.a = s.byteAt z.sp z.a) ∧
         (c.flag ≠ 0 → ∀ j, j < 8 → t.byteAt f.sp (f.a + j) = 0) ∧
         (∀ y : Loc, (∀ i, i < N → y ∉ cells (dst i)) → off y → t.byteAt y.sp y.a = s.byteAt y.sp y.a) ∧
         (t.die d).copyQueue e = q.erase k ∧ (k.handle, 0) ∈ (t.die d).copyDone ∧
         ⟨.copyCommandStart, .engine d e⟩ ∈ t.events))) ∧
  (∀ (s : State) (d a : XReg) (k : CopySlot) (v p : Word) (c : CtxId) (n : Nat),
     let h := s.rx a
     let now := (s.die (dieOf s.cur)).dcyc.toNat
     let missed (t : State) (x : Ctx) (g : Word) : Prop :=
       x.st = .faulted ∧ x.causeCode = 0x30 ∧ x.faddr = g ∧ x.missack = true ∧ x.wait = none ∧ SameBytes s t
     (kindOf s.cur = .user ∨ kindOf s.cur = .firmware) →
     (s.me.slots.find? (fun q => q.handle == h) = none →
       ∀ i ∈ [Instr.cpsleep d a, .cpwait d a], Answers i s (fun t => Result s t d 0xFE ∧ SameBytes s t)) ∧
     (s.me.slots.find? (fun q => q.handle == h) = some k →
       (s.copyStatusOf h = some v → ∀ i ∈ [Instr.cpsleep d a, .cpwait d a], Answers i s (fun t =>
         Result s t d v ∧ (∀ q ∈ t.me.slots, q.handle ≠ h) ∧ SameBytes s t)) ∧
       (s.copyStatusOf h = none →
         Answers (.cpwait d a) s (fun t => ParkedOn s t (.copy h none d s.ilen)) ∧
         ((s.me.missack = true ∨ h.toNat / 2 ^ 48 % 8 ≠ dieOf s.cur) →
           Answers (.cpsleep d a) s (fun t => ParkedOn s t (.copy h none d s.ilen))) ∧
         (s.me.missack = false → h.toNat / 2 ^ 48 % 8 = dieOf s.cur →
           (now ≤ k.promise.toNat → Answers (.cpsleep d a) s (fun t => ParkedOn s t (.copy h (some k.promise) d s.ilen))) ∧
           (k.promise.toNat < now → s.me.st = .run → Answers (.cpsleep d a) s (fun t =>
             if s.recordHeld s.cur then t.held = true ∧ t.me.st = .run ∧ t.me.pc = s.me.pc ∧ t.me.x = s.me.x ∧ t.me.missack = false
             else missed t t.me h ∧ t.me.pc = s.me.pc ∧ t.me.x = s.me.x))))) ∧
     (s.opd = .ctx c → (s.ctx c).st = .wait → (s.ctx c).wait = some (.copy v (some p) d n) →
       ((s.die (dieOf c)).dcyc.toNat < p.toNat → Answers .promiseMissed s (fun t => t = s)) ∧
       (s.recordHeld c = true → Answers .promiseMissed s (fun t => t = s)) ∧
       (p.toNat ≤ (s.die (dieOf c)).dcyc.toNat → s.copyStatusOf v = none → s.recordHeld c = false → Answers .promiseMissed s (fun t =>
         missed t (t.ctx c) v ∧ (t.ctx c).pc = (s.ctx c).pc ∧ (t.ctx c).x = (s.ctx c).x))))

/-- R276 and R277: a home-split gather whose home packages have all reported, or that has none, loads as `VLDX` does with signed
byte offsets of 64 bits, as the gather path sees the bytes (R263), inactive elements kept; before that it is held at its chain,
not parked, for a report of each, and each report that comes leaves the others to come. -/
def Obligations.SplitGather : Prop :=  ∀ (s t1 t2 : State) (d b : VNum) (a : XReg) (k : MReg) (ads : List VAddr_) (locs : List VLoc) (vals : List (Nat × Nat)) (c : CtxId)
    (p : BitVec 8) (l : List (BitVec 8)) (n : Nat),
    let v := s.me.vec
    (VecReady s → VecOk v → v.vw2 = 3 → GroupOk v b.toNat (v.g2 64) → GroupOk v d.toNat v.g →
      s.elemAddrs v.sew (v.accs k (s.rx a) (fun i => signedNat 64 (v.elem b.toNat i 64))) = .ok ads →
      s.confirmElems v.sew 1 ads = .ok (t1, locs) →
      ((s.gatherHomes ads = [] ∨ s.me.gathered = true) → (∀ x ∈ ads, s.attr (x.ea.toNat % 2 ^ 56) ≠ 3) →
        t1.readElems pGather (v.sew / 8) locs = .ok (t2, vals) →
        Answers (.hsgath d a b k) s (fun t =>
          (∀ x ∈ locs, t.me.vec.elem d.toNat x.i v.sew = ofBytes (s.st.getSeen s.free pGather s.me.paths x.loc (v.sew / 8))) ∧
          locs.map (·.i) = v.active k ∧
          (∀ i, i < vlMax v.rlen v.sew v.g → i ∉ v.active k → t.me.vec.elem d.toNat i v.sew = v.elem d.toNat i v.sew) ∧
          VecFrame d.toNat v.g s t)) ∧
      (s.gatherHomes ads ≠ [] → s.me.gathered = false → Answers (.hsgath d a b k) s (fun t =>
        t.held = true ∧ t.me.st = s.me.st ∧ t.me.wait = some (.gather (s.gatherHomes ads) s.ilen) ∧ t.me.pc = s.me.pc ∧
        t.me.x = s.me.x ∧ t.me.vec = v ∧
        (∀ h ∈ s.gatherHomes ads, ⟨.gatherPackageReply, .ctxPkg s.cur h⟩ ∈ t.events) ∧ SameBytes s t))) ∧
    (s.opd = .ctxPkg c p → (s.ctx c).wait = some (.gather l n) → Answers .gatherPackageReply s (fun t =>
      (t.ctx c).wait = some (.gather (l.filter (· != p)) n) ∧ SameBytes s t ∧ ∀ w, w ≠ c → t.ctx w = s.ctx w))

/-- R279, R282 and R283: a join that is refused gets its refusal code and changes no instance; one that is taken gets a handle
with bit 63 set and is a participant with its rank, and where it is the last of them its instance's performance is to come. A
wait on a handle of no instance gets 0xFE, on an ended one its status word, and else parks; the end of an instance gives every
waiting context its status word. `x[rd]` that is also a pointer's register traps `ILLEGAL` with reason 0x7. R280 and R281: the
performance of an instance that every rank has joined, once every line of it is at its home (R367) and no record of a
participant's stream waits for the buffer (R391). Where a participant's domain lacks a right its status is code 3; else it is 0,
or 1 after a failure; its end is to come. A reduction leaves at every participant's destination the ranks' elements combined in
the order of their ranks, a broadcast the root's elements, a gather every rank's elements at the place of its rank; this is said
where the destinations lie apart and apart from what is still to be read, and are reached by translations that the writes do not
touch. The bits of a handle but 63 are the model's own (log entry 47), and nothing is said of them. The descriptor is read as
8-byte loads by the model's choice (log entry 46), one aligned to 8 bytes alone joins (log entry 130), and log entries 20 and 22
hold of the writes. -/
def Obligations.Collectives : Prop :=
  (∀ (s t1 t2 : State) (d a b : XReg) (img rb : List Byte) (k : Collective) (rank n : Nat) (v : Word) (c : CtxId) (rd : XReg)
     (desc : VAddr) (ep : BitVec 32),
     let ds := BitVec.ofNat 56 ((s.rx a).toNat % 2 ^ 56)
     let r := collRec (ofBytes rb)
     (kindOf s.cur = .user ∨ kindOf s.cur = .firmware) →
     (∀ p ∈ [(Instr.clred d a b, 0), (.clbcast d a b, 1), (.clgather d a b, 2)],
       ((d = a ∨ d = b) → Faults p.1 s 0x01 (BitVec.ofNat 16 (7 + 16 * 163)) 0) ∧
       (d ≠ a → d ≠ b → s.resync.readWords (s.rx a) 0 8 = .ok (t1, img) → t1.readWords (s.rx b) 0 4 = .ok (t2, rb) →
         (t2.collRefusal p.2 ds img r ≠ 0 → Answers p.1 s (fun t =>
           Result s t d (BitVec.ofNat 64 (t2.collRefusal p.2 ds img r)) ∧ t.collectives = s.collectives ∧ SameBytes s t)) ∧
         (t2.collRefusal p.2 ds img r = 0 → Answers p.1 s (fun t => ∃ h : Word, h.getLsbD 63 = true ∧ Result s t d h ∧ SameBytes s t ∧
           ∃ q ∈ t.collectives, q.desc = ds ∧ q.epoch = r.epoch ∧ (∃ x ∈ q.parts, x.handle = h ∧ x.rank = r.rank ∧ x.who = s.ownerOf s.cur) ∧
             ((collDesc (ofBytes img)).npart ≤ q.parts.length → ⟨.collectivePerform, .coll ds r.epoch⟩ ∈ t.events))))) ∧
     (s.collHandle (s.rx a) = none → Answers (.clwait d a) s (fun t => Result s t d 0xFE ∧ SameBytes s t)) ∧
     (s.collHandle (s.rx a) = some (k, rank) →
       (k.ended = true → k.status = some v → Answers (.clwait d a) s (fun t => Result s t d v ∧ SameBytes s t)) ∧
       (k.ended = false → Answers (.clwait d a) s (fun t => ParkedOn s t (.collective k.desc k.epoch rank d s.ilen)))) ∧
     (s.opd = .coll desc ep → s.collAt desc ep = some k → k.status = some v → s.waiters = [(c, .collective desc ep rank rd n)] →
       Answers .collectiveEnd s (fun t => (t.ctx c).st = .run ∧ (t.ctx c).wait = none ∧
         (t.ctx c).pc = (s.ctx c).pc + BitVec.ofNat 56 (2 * n) ∧
         xGet (t.ctx c).x rd = (if rd = 0 then xGet (s.ctx c).x 0 else v) ∧ SameBytes s t))) ∧
  (∀ (s s1 u : State) (desc : VAddr) (ep : BitVec 32) (k : Collective) (src dst : Nat → Nat → Loc),
     let d := collDesc (ofBytes k.image)
     let n := collSize d.fmt
     let denied := k.parts.any (fun p => (s.partDenied k d p).isSome)
     let outs := if k.form = 2 then d.npart * d.count else d.count
     let apart (x y : Loc) : Prop := x.sp ≠ y.sp ∨ x.a + n ≤ y.a ∨ y.a + n ≤ x.a
     let within (y : Loc) : Prop := ∃ p ∈ k.parts, ∃ i, i < outs ∧ (dst p.rank i).sp = y.sp ∧ (dst p.rank i).a ≤ y.a ∧
       y.a < (dst p.rank i).a + n
     let like (m : Stores) : Prop := ∀ y : Loc, ¬within y → (m.of y.sp).read y.a = (s1.st.of y.sp).read y.a
     let val (r e : Nat) : Nat := ofBytes ((List.range n).map (fun j => s.byteAt (src r e).sp ((src r e).a + j)))
     let sg (v : Nat) : Int := intVal (8 * n) (d.fmt % 2 == 1) v
     let op (a b : Nat) : Nat :=
       if d.op = 0 then (a + b) % 2 ^ (8 * n)
       else if d.op = 1 then (if sg a ≤ sg b then a else b)
       else if d.op = 2 then (if sg a ≤ sg b then b else a)
       else match fatFloat d.fmt with
         | some t => if d.op = 3 then ((exactAdd .rne (t.val a) (t.val b)).round t .rne false).v
             else (fMinMax t (d.op == 5) a b).v
         | none => a
     let reduced (e : Nat) : Nat := ((List.range (d.npart - 1)).map (fun r => val (r + 1) e)).foldl op (val 0 e)
     s.opd = .coll desc ep → s.collAt desc ep = some k → k.status = none → d.npart ≤ k.parts.length →
     ((∃ p ∈ k.parts, s.streamHeld ((s.holderOf p.who).getD p.from_) 2 = true) → Answers .collectivePerform s (fun t => t = s)) ∧
     ((∀ p ∈ k.parts, s.streamHeld ((s.holderOf p.who).getD p.from_) 2 = false) →
       (s.takeColl k d = .error u → Answers .collectivePerform s (fun t => t = u)) ∧
       (s.takeColl k d = .ok s1 → Answers .collectivePerform s (fun t => ⟨.collectiveEnd, .coll desc ep⟩ ∈ t.events ∧
         ∃ q v, t.collAt desc ep = some q ∧ q.status = some v ∧ q.parts = k.parts ∧
           (if denied then v.toNat % 256 = 3 else v.toNat % 256 = 0 ∨ v.toNat % 256 = 1))) ∧
       (s.takeColl k d = .ok s1 → s.memWf → denied = false → k.form ≤ 2 → d.npart = k.parts.length → 0 < d.npart → d.root < d.npart →
         (k.form = 0 → (d.op = 1 ∨ d.op = 2) → d.fmt ≤ 8) → (k.form = 0 → d.op ≤ 5) → (k.parts.map (·.rank)).Nodup →
         (∀ p ∈ k.parts, p.rank < d.npart ∧ s.pathsOf p.who = [] ∧ s1.flaggedIn p.src.toNat (d.count * n) = false) →
         (∀ p ∈ k.parts, (k.form = 1 → p.rank = d.root) → ∀ e, e < d.count → ∀ m : Stores, like m →
           ∃ u, ({ s1 with st := m } : State).locate (engReq k.pdid 0) 0 (p.src.toNat + e * n) = .ok (u, src p.rank e)) →
         (∀ p ∈ k.parts, ∀ i, i < outs → ∀ m : Stores, like m →
           ∃ u, ({ s1 with st := m } : State).locate (engReq k.pdid 0) 0 (p.dst.toNat + i * n) = .ok (u, dst p.rank i)) →
         (∀ p ∈ k.parts, ∀ q ∈ k.parts, ∀ i j, i < outs → j < outs → (p.rank ≠ q.rank ∨ i ≠ j) → apart (dst p.rank i) (dst q.rank j)) →
         (∀ p ∈ k.parts, ∀ q ∈ k.parts, (k.form = 1 → q.rank = d.root) → ∀ i e, i < outs → e < d.count → (k.form = 2 ∨ i ≠ e) →
           apart (dst p.rank i) (src q.rank e)) →
         Answers .collectivePerform s (fun t => ∀ p ∈ k.parts, ∀ e, e < d.count → ∀ j, j < n →
           let at_ (i : Nat) : Byte := t.byteAt (dst p.rank i).sp ((dst p.rank i).a + j)
           (k.form = 0 → at_ e = BitVec.ofNat 8 (reduced e / 256 ^ j)) ∧
           (k.form = 1 → at_ e = s.byteAt (src d.root e).sp ((src d.root e).a + j)) ∧
           (k.form = 2 → ∀ r, r < d.npart → at_ (r * d.count + e) = s.byteAt (src r e).sp ((src r e).a + j)) ∧
           ∃ q v, t.collAt desc ep = some q ∧ q.status = some v ∧ v.toNat % 256 = 0))))

/-! ## Messages, migration and work -/

/-- R345, R346 and R350: `SEND`. A malformed header traps `ILLEGAL` with reason 0x7; a package outside the load-store domain
faults with `MSG_DEST` (0x14), `FADDR` the header; a full send queue or no credit parks a user or firmware context, and enters
the routine at `MSGTRAP` in a message context, or faults there with `SEND_FULL` (0x2A) without one. Otherwise the request enters
the queue with its payload, takes a credit and its sequence number is the result. R346 and R347: what reaches its destination
side in this package. A request in order that finds an entry and whose tag entry takes it is an arrival, last and held where its
tag is disabled, and leaves its send queue; with 32 entries in use it waits there; one that its tag entry does not take gets an
`ABORT` reply, and freezes the send stream of its sender in this package, with a record of cause `PROT_VIOL` (0x40), kind 3 and
the `FPC` of its `SEND`. A reply that is taken is an arrival, and otherwise its credit returns. That a message of `PDID` 0
passes at an entry which is not `VALID` too, and that a `SEND` whose stream was thawed issues again, are the model's readings
(log entries 41, 42 and 97); what another package answers is free (log entry 43). -/
def Obligations.Messages : Prop :=
  (∀ (s : State) (d a b : XReg),
     let h := s.rx a
     let k := kindOf s.cur
     let x := s.mySide
     let full := 8 ≤ x.sendq.length ∨ x.replyCredits = 0
     let R := (s.core s.cur.unit).msgtrap
     (k = .user ∨ k = .message ∨ k = .firmware) →
     (headerBad h b = true → Faults (.send d a b) s 0x01 (BitVec.ofNat 16 (7 + 16 * 128)) 0) ∧
     (headerBad h b = false → s.me.sendFrozen = true → k ≠ .message →
       Answers (.send d a b) s (fun t => ParkedOn s t (.reissue .sendFrozen))) ∧
     (headerBad h b = false → s.me.sendFrozen = true → k = .message → s.recordHeld s.cur = false →
       Answers (.send d a b) s (fun t => t.me.st = faultState s.me true ∧ t.me.causeCode = 0x40 ∧ t.me.fpc = s.me.pc)) ∧
     (headerBad h b = false → s.me.sendFrozen = false → s.hasPkg (headerOf h).pkg = false → s.recordHeld s.cur = false → Answers (.send d a b) s (fun t =>
       t.me.causeCode = 0x14 ∧ t.me.faddr = h ∧ t.me.st = faultState s.me false ∧ t.me.fpc = s.me.pc ∧ t.me.x = s.me.x)) ∧
     (headerBad h b = false → s.me.sendFrozen = false → s.hasPkg (headerOf h).pkg = true →
       (full → k ≠ .message → Answers (.send d a b) s (fun t => ParkedOn s t (.reissue .sendFull))) ∧
       (full → k = .message → R ≠ 0 → Answers (.send d a b) s (fun t => t.me.pc = R ∧ t.me.causeCode = 0x2A ∧
         t.me.causeInfo = BitVec.ofNat 16 (256 * s.ilen) ∧ t.me.faddr = h ∧ t.me.fpc = s.me.pc ∧ t.me.st = s.me.st ∧
         t.me.x = s.me.x ∧ SameBytes s t)) ∧
       (full → k = .message → R = 0 → Faults (.send d a b) s 0x2A (BitVec.ofNat 16 (256 * s.ilen)) h) ∧
       (¬full → Answers (.send d a b) s (fun t =>
         Result s t d (x.seq.setWidth 64) ∧ SameBytes s t ∧ t.mySide.sendq = x.sendq ++ [s.request h b] ∧
         t.mySide.replyCredits = x.replyCredits - 1 ∧ t.mySide.seq = x.seq + 1 ∧
         t.mySide.owed = x.owed ++ [⟨x.seq, some (s.ownerOf s.cur), s.me.pdid, s.me.pc⟩] ∧
         t.events = s.events ++ [⟨.messageAccept, .message (s.request h b)⟩])))) ∧
  (∀ (s : State) (m : Message),
     let x := s.side m.dstCore m.dstSide
     let e := s.tagEntry m.dstCore m.tag
     let off := !(s.core m.dstCore).tagen.getLsbD m.tag.toNat
     let arrives (t : State) : Prop := (t.side m.dstCore m.dstSide).arrivals = x.arrivals ++ [⟨m, off, x.accepted, e.entry, e.pdid, e.prio⟩] ∧
       (off = true → (t.core m.dstCore).tagpend.getLsbD m.tag.toNat = true) ∧ SameBytes s t
     s.opd = .message m → m.dstPkg = s.pkg →
     (m.net = false → s.inOrder m = true →
       (s.requestsHeld m.dstCore m.dstSide < 32 → e.takes m = true → Answers .messageAccept s (fun t => arrives t ∧
         (m.srcPkg = s.pkg → (t.side m.srcCore m.srcSide).sendq = (s.side m.srcCore m.srcSide).sendq.erase m))) ∧
       (s.requestsHeld m.dstCore m.dstSide < 32 → e.takes m = false → Answers .messageAccept s (fun t =>
         (t.side m.dstCore m.dstSide).arrivals = x.arrivals ∧ ⟨.messageAccept, .message (replyTo m true m.pdid [])⟩ ∈ t.events ∧
         ∀ (o : Owed) (w : Owner) (c : CtxId), m.srcPkg = s.pkg →
           (s.side m.srcCore m.srcSide).owed.find? (fun q => q.seq == m.seq) = some o → o.who = some w → s.holderOf w = some c →
           (t.ctx c).sendFrozen = true ∧ (s.streamHeld c 3 = false → ∃ r ∈ (t.die (dieOf c)).fbHeld, r.code = 0x40 ∧ r.info = 0 ∧
             r.master = ⟨c.unit, c.side, c.slot, 3⟩ ∧ r.fpc = o.fpc ∧ r.pdid = o.pdid ∧ r.fid = (s.ctx c).fid ∧
             r.launchId = (s.ctx c).launchId))) ∧
       (32 ≤ s.requestsHeld m.dstCore m.dstSide → Answers .messageAccept s (fun t =>
         (t.side m.dstCore m.dstSide).waiting = x.waiting ++ [m] ∧ (t.side m.dstCore m.dstSide).arrivals = x.arrivals ∧ SameBytes s t))) ∧
     (m.net = false → s.inOrder m = false → Answers .messageAccept s (fun t => SameBytes s t ∧ t.sides = s.sides)) ∧
     (m.net = true → e.takes m = true → Answers .messageAccept s arrives) ∧
     (∀ o, m.net = true → e.takes m = false → x.owed.find? (fun q => q.seq == m.seq) = some o → Answers .messageAccept s (fun t =>
       (t.side m.dstCore m.dstSide).replyCredits = x.replyCredits + 1 ∧ (∀ q ∈ (t.side m.dstCore m.dstSide).owed, q.seq ≠ m.seq) ∧
       (t.side m.dstCore m.dstSide).arrivals = x.arrivals)))

/-- R347, R348 and R349: handlers. An idle message context starts the arrival that is next at its entry, with the arrival word,
the payload and the domain in `x1` to `x10`; a first reply to a request goes to its sender, and a second, or one to a reply,
faults with `REPLY_COUNT` (0x29); the end of a handler that owes no reply leaves the context idle, and of one that owes faults.
With it the credit of a reply returns, and a request's entry is free for the one that waited first. A load or store that does
not confirm yet holds its handler at its own instruction, so that none is left when `HRET` is reached. -/
def Obligations.Handlers : Prop :=  ∀ (s : State) (core : Nat) (side : Bool) (ar : Arrival) (a b : XReg) (m : Message) (p : Bool) (imm : Word),
    let c : CtxId := ⟨false, core, side, 8⟩
    let h := (s.rx a).toNat
    let n := h / 2 ^ 8 % 16
    let bad (i : Instr) : Prop := s.recordHeld s.cur = false → Answers i s (fun t =>
      t.me.causeCode = 0x29 ∧ t.me.fpc = s.me.pc ∧ t.me.st = faultState s.me false ∧ t.me.x = s.me.x)
    (s.opd = .side core side → (s.ctx c).st = .idle → (s.side core side).nextArrival = some ar →
      Answers .handlerStart s (fun t =>
        let y := t.ctx c
        y.st = .run ∧ y.pc = ar.entry ∧ y.pdid = ar.pdid ∧ y.rs.depth = 0 ∧ y.rs.spilled = 0 ∧ y.flags = 0 ∧ y.rnd = 0 ∧
        xGet y.x 1 = msgWord ar.msg ∧ (∀ i : Fin 8, y.x[i.val + 2] = ar.msg.payload.getD i.val 0) ∧
        xGet y.x 10 = ar.msg.pdid.setWidth 64 ∧
        (∀ i : Fin 21, y.x[i.val + 11] = if (s.ctx c).lastHandlerPdid = some ar.pdid then (s.ctx c).x[i.val + 11] else 0) ∧
        (t.side core side).arrivals = (s.side core side).arrivals.erase ar ∧ SameBytes s t)) ∧
    (kindOf s.cur = .message →
      (s.me.handler = some ⟨m, p⟩ → h % 2 ^ 8 = 0 → h / 2 ^ 12 = 0 → n ≤ 8 → b.toNat + n ≤ 32 →
        ((p = true ∨ m.net = true) → bad (.reply a b)) ∧
        (p = false → m.net = false → Answers (.reply a b) s (fun t =>
          t.events = s.events ++ [⟨.messageAccept, .message (replyTo m false s.me.pdid (s.payload b n))⟩] ∧
          t.me.handler = some ⟨m, true⟩ ∧ t.me.x = s.me.x ∧ t.me.rs = s.me.rs ∧ NextChain s t ∧ SameBytes s t))) ∧
      (s.me.handler = some ⟨m, false⟩ → m.net = false → bad .hret) ∧
      (s.me.handler = some ⟨m, p⟩ → (p = true ∨ m.net = true) → (∀ w ∈ s.waiters, w.1 ≠ s.cur) →
        Answers .hret s (fun t => t.me.st = .idle ∧ t.me.handler = none ∧ t.cur = s.cur ∧
          (m.net = true → t.mySide.replyCredits = s.mySide.replyCredits + 1 ∧ t.mySide.owed = s.mySide.owed.filter (fun o => o.seq != m.seq)) ∧
          (∀ (w : Message) (r : List Message), m.net = false → s.mySide.waiting = w :: r → w.dstCore = s.cur.unit → w.dstSide = s.cur.side →
            (s.mySide.arrivals.filter (fun q => !q.msg.net)).length < 32 → (s.tagEntry s.cur.unit w.tag).takes w = true →
            ∃ q ∈ t.mySide.arrivals, q.msg = w))) ∧
      (∀ i ∈ ([.ld a b imm, .lw a b imm, .lwu a b imm, .lh a b imm, .lhu a b imm, .lb a b imm, .lbu a b imm, .sd a b imm false,
          .sw a b imm false, .sh a b imm false, .sb a b imm false] : List Instr), s.held = false → ∀ t, exec i s = .next t → t.held = true →
        t.me.pc = s.me.pc ∧ t.me.handler = s.me.handler ∧ t.me.st = s.me.st))

/-- R351 and R352: migration. While a reply, a copy command or a collective of the firing is open it is held at its instruction.
A firing that may leave goes to its owner core in this package with its next chain's address, `x1` to `x8` and its identity, or
is refused there with the result 1 when the core's count stands at `SPAWNLIM`; toward another package it leaves or is refused,
as that one decides. Without the right over the address it freezes; in a state that may not migrate it faults with
`MIGRATE_STATE` (0x28), and toward a package that no link reaches with `PEER_LOST` (0x13). An arrival is accepted under the same
limit, into the hardware queue while that has room, and else into the overflow area, as a record of 128 bytes in the slot after
the newest one's. The first arrival of a core binds to the context chosen for it. What another package answers is a free choice
(log entry 4); the statement is of this package's cores. -/
def Obligations.Migration : Prop :=  ∀ (s : State) (d a : XReg) (f : Firing) (core : Nat) (r : MigRec) (at_ : Nat) (rest : List (MigRec × Nat)) (c : CtxId),
    let A := s.rx a
    let va := A.toNat % 2 ^ 56
    let oc := A.toNat % 2 ^ 48 / 4096 % 768
    let right := (s.rights s.req (va / 2 ^ 21)).getLsbD 0
    let slot := match (s.core core).migOv.getLast? with
      | some (k, _) => if k + 1 < (s.core core).spawnlim.toNat - (s.core core).migq.toNat then k + 1 else 0
      | none => 0
    let open_ := s.owedTo s.cur ≠ 0 ∨ s.copiesOf (s.ownerOf s.cur) ≠ 0 ∨ s.collsJoined (s.ownerOf s.cur) ≠ 0
    let stops (i : Word) (code : BitVec 8) (frozen : Bool) : Prop := s.recordHeld s.cur = false → Answers (.migrate d a) s (fun t =>
      t.me.st = faultState s.me frozen ∧ t.me.causeCode = code ∧ t.me.faddr = i ∧ t.me.fpc = s.me.pc ∧ t.me.x = s.me.x)
    (kindOf s.cur = .user → s.me.firing = some f →
      (right = false → stops (BitVec.ofNat 64 va) 0x40 true) ∧
      (right = true → s.me.mayMigrate = false → stops A 0x28 false) ∧
      (right = true → s.me.mayMigrate = true → open_ → Held (.migrate d a) s s) ∧
      (right = true → s.me.mayMigrate = true → ¬open_ → va / 2 ^ 48 = s.pkg.toNat → s.namesHost s.pkg = false →
        ((s.core oc).spawnlim.toNat < (s.core oc).migCount + 1 → Answers (.migrate d a) s (fun t =>
          Result s t d 1 ∧ t.me.firing = s.me.firing ∧ SameBytes s t)) ∧
        ((s.core oc).migCount + 1 ≤ (s.core oc).spawnlim.toNat → Answers (.migrate d a) s (fun t =>
          t.me.st = .drain ∧ t.me.firing = none ∧ (t.core oc).migCount = (s.core oc).migCount + 1 ∧
          ((s.core oc).migHw.length < (s.core oc).migq.toNat → SameBytes s t ∧ ∃ m : MigRec,
            (t.core oc).migHw = (s.core oc).migHw ++ [(m, (s.die (oc / 96)).dcyc.toNat)] ∧
            m.pc = s.me.pc + BitVec.ofNat 56 (2 * s.ilen) ∧ m.fid = f.fid ∧ m.pkt = f.pkt ∧
            ∀ j, j < 8 → m.x18[j]? = some (if d = BitVec.ofNat 5 (j + 1) then 0 else xGet s.me.x (BitVec.ofNat 5 (j + 1))))))) ∧
      (right = true → s.me.mayMigrate = true → ¬open_ → va / 2 ^ 48 ≠ s.pkg.toNat →
        (s.hasPkg (BitVec.ofNat 8 (va / 2 ^ 48)) = false → stops A 0x13 false) ∧
        (s.hasPkg (BitVec.ofNat 8 (va / 2 ^ 48)) = true → Answers (.migrate d a) s (fun t => SameBytes s t ∧
          ((t.me.st = .drain ∧ t.me.firing = none) ∨ (Result s t d 1 ∧ t.me.firing = s.me.firing)))))) ∧
    (s.opd = .migration core r →
      ((s.core core).spawnlim.toNat < (s.core core).migCount + 1 → Answers .migrationArrival s (fun t => t = s)) ∧
      ((s.core core).migCount + 1 ≤ (s.core core).spawnlim.toNat → (s.core core).migHw.length < (s.core core).migq.toNat →
        Answers .migrationArrival s (fun t => (t.core core).migCount = (s.core core).migCount + 1 ∧
          (t.core core).migHw = (s.core core).migHw ++ [(r, (s.die (core / 96)).dcyc.toNat)] ∧ SameBytes s t)) ∧
      (∀ l, s.memWf → (s.core core).migCount + 1 ≤ (s.core core).spawnlim.toNat → (s.core core).migq.toNat ≤ (s.core core).migHw.length →
        r.x18.length = 8 → s.fwLoc ((s.core core).migovf.toNat + 128 * slot) = some l → s.hostWait l = none →
        Answers .migrationArrival s (fun t =>
          let field (o : Nat) : Nat := ofBytes ((List.range 8).map (fun j => t.byteAt l.sp (l.a + o + j)))
          (t.core core).migCount = (s.core core).migCount + 1 ∧ (t.core core).migHw = (s.core core).migHw ∧
          (t.core core).migOv = (s.core core).migOv ++ [(slot, (s.die (core / 96)).dcyc.toNat)] ∧ SameBytesBut l 128 s t ∧
          field 0 = r.pc.toNat ∧ (∀ j, j < 8 → field (8 + 8 * j) = (r.x18.getD j 0).toNat) ∧ field 0x48 = r.fid.toNat ∧
          (r.pkt.q < 65536 → refOf (field 0x50) = r.pkt) ∧ ∀ j, 0x58 ≤ j → j < 128 → t.byteAt l.sp (l.a + j) = 0))) ∧
    (s.opd = .unit core → (s.core core).migHw = (r, at_) :: rest → s.migCtx core r = some c →
      ((s.die (core / 96)).power = 4 → Answers .migrationBind s (fun t => t = s.push .stopWake (.unit (core / 96)))) ∧
      ((s.die (core / 96)).power ≠ 4 → Answers .migrationBind s (fun t =>
        (t.ctx c).st = .binding ∧ (t.core core).migCount = (s.core core).migCount - 1 ∧
        (∃ g, (t.ctx c).firing = some g ∧ g.fid = r.fid ∧ g.pkt = r.pkt) ∧
        (∃ b, (t.ctx c).start = some b ∧ b.entry = r.pc ∧ b.x = (0 : Word) :: r.x18 ++ [0, 0, r.fid]) ∧
        ⟨.firingStart, .ctx c⟩ ∈ t.events)))

/-- R33, R34, R35, R40, R60 and R61: a tail write moves the tail forward by 1 to 2^31 − 1 within the ring's room and else, but
for a stale one, puts the queue in `ERROR` with cause 8 `TAIL_OVER`; one of another package under a domain that is not the
queue's does nothing, and of what the host accesses through BAR 2 what is no doorbell word is discarded or reads 0. A taken
packet is open under the queue's head as its number, the head moves on by one, and the first failing check of R40 puts the queue
in `ERROR` with its cause; one that a barrier holds back is not looked at; a ready queue that has waited a step falls a class.
The model's readings: tables and rings are read by the page table of die 0 (log entry 36), a packet behind a barrier is not
checked yet (log entry 109), and a vector whose entry has no translation is not raised (log entry 23). -/
def Obligations.QueueEngine : Prop :=  ∀ (s : State) (q off : Nat) (tl : BitVec 32) (who : Option (BitVec 12)) (v : Word) (cause : BitVec 8) (p : PacketForm) (w : Work),
    let Q := s.queue q
    let n := (tl - Q.tail).toNat
    let step := s.engine.ageStep.toNat
    let foreign := ∃ d, who = some d ∧ d ≠ 0 ∧ d ≠ Q.pdid
    let word (o : Nat) : Word :=
      if o = 0 then Q.tail.setWidth 64 else if o = 8 then Q.head.setWidth 64
      else BitVec.ofNat 64 (Q.state.code + 256 * Q.cause.toNat + 65536 * (s.inflight q).toNat)
    ((s.opd = .tail q tl who ∧ ¬foreign) ∨ (s.opd = .bar (4096 * q) (some v) ∧ q < 4096 ∧ tl = v.setWidth 32) →
      ((Q.state = .disabled ∨ n = 0 ∨ 2 ^ 31 ≤ n) → Answers .tailWrite s (fun t => t = s)) ∧
      (Q.state ≠ .disabled → 0 < n → n < 2 ^ 31 → (Q.tail - Q.head).toNat + n ≤ 2 ^ Q.log2size →
        Answers .tailWrite s (fun t => t = s.setQueue q { Q with tail := tl })) ∧
      (0 < n → n < 2 ^ 31 → 2 ^ Q.log2size < (Q.tail - Q.head).toNat + n →
        ((Q.state = .active ∨ Q.state = .stopped) →
          Answers .tailWrite s (fun t => t.queue q = { Q with prior := Q.state, state := .error, cause := 8 })) ∧
        (Q.state = .error → Answers .tailWrite s (fun t => t = s)))) ∧
    (s.opd = .tail q tl who → foreign → Answers .tailWrite s (fun t => t = s)) ∧
    (s.opd = .bar off (some v) → (2 ^ 24 ≤ off ∨ off % 4096 ≠ 0) → Answers .tailWrite s (fun t => t = s)) ∧
    (s.opd = .bar off none →
      (off / 4096 = q → q < 4096 → off % 4096 ∈ [0, 8, 16] →
        Answers .tailWrite s (fun t => t = { s with hostOut := s.hostOut ++ [.read (word (off % 4096))] })) ∧
      ((2 ^ 24 ≤ off ∨ off % 4096 ∉ [0, 8, 16]) →
        Answers .tailWrite s (fun t => t = { s with hostOut := s.hostOut ++ [.read 0] }))) ∧
    (s.opd = .unit q →
      (s.headForm q = some p → (p.barrier = true ∨ p.type = 3) → s.inflight q = true → Answers .packetTake s (fun t => t = s)) ∧
      (s.hasNext q = false → Answers .packetTake s (fun t => t = s)) ∧
      (s.hasNext q = true → s.readPacket q = .error cause → Answers .packetTake s (fun t =>
        t.queue q = { Q with prior := Q.state, state := .error, cause := cause } ∧ t.packets = s.packets)) ∧
      (s.hasNext q = true → s.readPacket q = .ok (p, w) → s.mayTake q p w = false → Answers .packetTake s (fun t => t = s)) ∧
      (s.hasNext q = true → s.readPacket q = .ok (p, w) → s.mayTake q p w = true → Answers .packetTake s (fun t =>
        (t.queue q).head = Q.head + 1 ∧ (t.queue q).state = .active ∧ SameBytes s t ∧
        ∃ o, t.packets = s.packets ++ [o] ∧ o.ref = ⟨s.pkg, q, Q.head⟩ ∧ o.work = w ∧ o.pdid = Q.pdid ∧ o.args = p.args ∧
          o.launchId = p.launchId ∧ o.firings = 0)) ∧
      (s.queueReady q = true → 0 < step → Q.since + step ≤ s.sdcyc →
        Answers .queueAgeing s (fun t => t = s.setQueue q { Q with eff := Q.eff - 1, since := Q.since + step })) ∧
      ((s.queueReady q = false ∨ step = 0 ∨ s.sdcyc < Q.since + step) → Answers .queueAgeing s (fun t => t = s)))

/-- R63, R71 and R64: the oldest packet of a queue that may start deals. A chunk goes to the die chosen for it with the next
iterations, `ChunkSize` of them: the least of what remains and the greater of `MINCHUNK` and the remainder over twice the free
pods, rounded up; a gang goes whole to its queue. A walker binds the chunk chosen, one in a cycle, whose firing is to start. The
order among chunks of one class at a die is the model's choice (log entries 63 and 66), as is that of a queue's open packets
(log entry 111). -/
def Obligations.Dealing : Prop :=  ∀ (s : State) (q d f next : Nat) (p : Packet) (rest : List Packet) (card : Card) (g : Nat) (gq : Option Nat) (x : ChunkCand),
    let left := card.total - next
    let size := min left (max card.minchunk ((left + 2 * f - 1) / (2 * f)))
    (s.opd = .unit q → s.mayStart ⟨s.pkg, q, 0⟩ = true → s.packetsOf q = p :: rest → p.work = .nest card next → p.dealt = false →
      (card.gangLevel = none → s.chunkDie p card = some (d, f) → Answers .chunkDeal s (fun t =>
        (∃ k, (t.die d).chunks = (s.die d).chunks ++ [k] ∧ k.pkt = p.ref ∧ k.first = next ∧ k.len = size ∧ k.ordinal = p.firings) ∧
        (∃ r, t.packet p.ref = some r ∧ r.work = .nest card (next + size) ∧ r.firings = p.firings + 1 ∧
          r.dealt = decide (card.total ≤ next + size)) ∧ SameBytes s t)) ∧
      (card.gangLevel = some g → s.gangDie p card g = some gq → Answers .gangDeal s (fun t =>
        (∃ k, (t.gangq gq).gangs = (s.gangq gq).gangs ++ [k] ∧ k.pkt = p.ref ∧ k.chunks.length = card.gangSize ∧
          ∀ (i : Nat) (c : Chunk), k.chunks[i]? = some c → c.rank = i ∧ c.first = next + i * card.minchunk ∧
            c.ordinal = p.firings + i ∧ c.gangSize = card.gangSize ∧ c.len = min card.minchunk (card.total - c.first)) ∧
        SameBytes s t))) ∧
    (s.opd = .unit d → ((s.die d).power = 4 ∨ d ∈ s.cycle.walked) → Answers .chunkBind s (fun t => t = s)) ∧
    (s.opd = .unit d → (s.die d).power ≠ 4 → d ∉ s.cycle.walked → s.bestChunk (s.chunkCands d) = some x → Answers .chunkBind s (fun t =>
      d ∈ t.cycle.walked ∧ podOf x.c ∈ t.cycle.pods ∧
      (t.ctx x.c).st = .binding ∧ (t.ctx x.c).pdid = x.p.pdid ∧ (t.ctx x.c).vec.vregs = x.card.vregs ∧
      (∃ y, (t.ctx x.c).firing = some y ∧ y.pkt = x.p.ref ∧ y.fid = firingId x.p.pdid x.p.ref.q x.p.ref.num x.k.ordinal) ∧
      (∃ b, (t.ctx x.c).start = some b ∧ b.entry = x.card.entry ∧ b.staging = x.card.indexBlock x.k) ∧
      (t.die d).chunks = (s.die d).chunks.erase x.k ∧ ⟨.firingStart, .ctx x.c⟩ ∈ t.events ∧ SameBytes s t))

/-- R66, R70, R72, R73 and R363: an actor that is ready fires into the context chosen for it, once its home die and the die of
that are awake (R409), and one that is not does not. A gang that fits is placed whole, in a cycle in which the pods of its
contexts have bound nothing, and leaves its queue; one that has come of age without fitting reserves a unit that its extents
allow, of least shortfall and of those the lowest, where there is one with a shortfall. A port enqueue of no graph firing, or
past its ports, gets 2; with no allowance left 1; otherwise 0, and the port's queue has the record last and its allowance is one
less. R66, R69 and R57: a fire removes from the queue of each of its inputs the records that it takes, the oldest first, or, of
a sorted queue, each time the least key among the first 256 and of equal keys the oldest; it reserves its allowance in the
queues of its outputs; and the records of its unsorted inputs are staged in the order of the ports, then their 4-byte keys,
zeros up to a multiple of 16, and the table of its output ports, which begins at the firing's offset. The measure of shortfall
is the model's reading (log entry 63), from when a candidate is ready its choice (log entry 67); the order of the bindings of a
cycle is its choice (log entries 66, 111 and 126). -/
def Obligations.ActorsGangsPorts : Prop :=
  (∀ (s t1 : State) (q idx : Nat) (num : BitVec 32) (p : Packet) (g : Graph) (a : Actor) (c : CtxId) (gq : Option Nat) (gg : Gang)
     (card : Card) (lv : Nat) (ft : GangFit) (d xa xb : XReg) (f : Firing) (bs : List Byte),
     let r : PktRef := ⟨s.pkg, q, num⟩
     let q0 := g.tq (a.ins.headD (0, 0)).1
     let tile := if q0.sorted then q0.next.map (fun e => tileOfKey e.key) else none
     let k := (s.rx xa).toNat
     let port := f.outq.getD k 0
     let short (u : Nat) : Option Nat := s.shortfall (card.budget p.pdid) card gq (4 - lv) lv u
     (s.opd = .actor q num idx → s.packet r = some p → p.work = .graph g → g.actors[idx]? = some a →
       (s.actorReady g false a = false → Answers .actorFire s (fun t => t = s)) ∧
       (p.killPkt = false → s.mayStart r = true → s.actorReady g false a = true → (s.die q0.home).power = 4 →
         Answers .actorFire s (fun t => t = s.push .stopWake (.unit q0.home))) ∧
       (p.killPkt = false → s.mayStart r = true → s.actorReady g false a = true → (s.die q0.home).power ≠ 4 →
         s.actorCtx p g a q0.home tile = none → Answers .actorFire s (fun t => t = s)) ∧
       (p.killPkt = false → s.mayStart r = true → s.actorReady g false a = true → (s.die q0.home).power ≠ 4 →
         s.actorCtx p g a q0.home tile = some c → (s.die (dieOf c)).power = 4 → Answers .actorFire s (fun t => t = s.push .stopWake (.unit (dieOf c)))) ∧
       (p.killPkt = false → s.mayStart r = true → s.actorReady g false a = true → (s.die q0.home).power ≠ 4 →
         s.actorCtx p g a q0.home tile = some c → (s.die (dieOf c)).power ≠ 4 → Answers .actorFire s (fun t =>
           (t.ctx c).st = .binding ∧ (t.ctx c).vec.vregs = a.vregs ∧ (t.ctx c).vec.vclass = a.vclass ∧
           (∃ y, (t.ctx c).firing = some y ∧ y.graph = true ∧ y.pkt = p.ref ∧ y.fid = firingId p.pdid p.ref.q p.ref.num p.firings ∧
             y.outq = a.outs.map (·.1) ∧ y.allow = a.outs.map (·.2)) ∧
           (∃ b, (t.ctx c).start = some b ∧ b.entry = a.entry) ∧ ⟨.firingStart, .ctx c⟩ ∈ t.events ∧ SameBytes s t))) ∧
     (s.opd = .place gq → s.headGang gq = some (gg, card) → s.packet gg.pkt = some p →
       (bestFit (s.gangFits gq gg.pkt card (card.budget p.pdid)) = some ft → (∃ x ∈ ft.picks, podOf x ∈ s.cycle.pods) →
         Answers .gangPlace s (fun t => t = s)) ∧
       (s.mayStart gg.pkt = true → bestFit (s.gangFits gq gg.pkt card (card.budget p.pdid)) = some ft →
         (∀ x ∈ ft.picks, podOf x ∉ s.cycle.pods) → s.awake ft.picks = true →
         Answers .gangPlace s (fun t => (∀ x ∈ ft.picks, podOf x ∈ t.cycle.pods) ∧ (t.gangq gq).gangs = (s.gangq gq).gangs.tail ∧ (t.gangq gq).reserving = none ∧
           (∀ x ∈ gg.chunks.zip ft.picks, (t.ctx x.2).st = .binding) ∧ SameBytes s t)) ∧
       (s.gangFits gq gg.pkt card (card.budget p.pdid) = [] → Answers .gangPlace s (fun t => t = s)) ∧
       (card.gangLevel = some lv → (s.gangq gq).reserving = none → s.aged gq = true →
         s.gangFits gq gg.pkt card (card.budget p.pdid) = [] → Answers .gangReserving s (fun t =>
           (t.gangq gq).gangs = (s.gangq gq).gangs ∧ ∀ u, (t.gangq gq).reserving = some u →
             u ∈ regionUnits gq lv ∧ s.gangAllowed gg.pkt card lv u = true ∧
             ∃ n, short u = some n ∧ ∀ v m, v ∈ regionUnits gq lv → s.gangAllowed gg.pkt card lv v = true → short v = some m →
               n < m ∨ (n = m ∧ u ≤ v))) ∧
       (card.gangLevel = some lv → (s.gangq gq).reserving = none → s.aged gq = true →
         s.gangFits gq gg.pkt card (card.budget p.pdid) = [] →
         (∃ u n, u ∈ regionUnits gq lv ∧ s.gangAllowed gg.pkt card lv u = true ∧ short u = some n) →
         Answers .gangReserving s (fun t => ∃ u, (t.gangq gq).reserving = some u)) ∧
       (s.aged gq = false → Answers .gangReserving s (fun t => t = s))) ∧
     (kindOf s.cur = .user →
       (s.me.firing = none → Answers (.penq d xa xb) s (fun t => Result s t d 2 ∧ SameBytes s t)) ∧
       (s.me.firing = some f →
         ((f.graph = false ∨ f.outq.length ≤ k) → Answers (.penq d xa xb) s (fun t => Result s t d 2 ∧ SameBytes s t)) ∧
         (f.graph = true → k < f.outq.length → f.allow.getD k 0 = 0 →
           Answers (.penq d xa xb) s (fun t => Result s t d 1 ∧ SameBytes s t)) ∧
         (f.graph = true → k < f.outq.length → f.allow.getD k 0 ≠ 0 → s.graphOf f = none →
           Answers (.penq d xa xb) s (fun t => Result s t d 0 ∧ SameBytes s t)) ∧
         (f.graph = true → k < f.outq.length → f.allow.getD k 0 ≠ 0 → s.graphOf f = some (p, g) → port < g.tqs.length →
           s.resync.readWords (s.rx xb) 0 ((g.tq port).esize / 8) = .ok (t1, bs) → Answers (.penq d xa xb) s (fun t =>
             Result s t d 0 ∧ (∃ y, t.me.firing = some y ∧ y.allow.getD k 0 = f.allow.getD k 0 - 1) ∧
             ∃ p' g', t.graphOf f = some (p', g') ∧ (g'.tq port).entries = (g.tq port).entries ++
               [⟨bs.take (g.tq port).esize, (s.rx d).setWidth 32, (s.die (g.tq port).home).dcyc⟩]))))) ∧
  (∀ (s : State) (q idx : Nat) (num : BitVec 32) (p : Packet) (g : Graph) (a : Actor) (c : CtxId),
     let r : PktRef := ⟨s.pkg, q, num⟩
     let q0 := g.tq (a.ins.headD (0, 0)).1
     let tile := if q0.sorted then q0.next.map (fun e => tileOfKey e.key) else none
     let least (l m : List TqEntry) : Prop := ∃ pre e post, l = pre ++ e :: post ∧ m = pre ++ post ∧ pre.length < 256 ∧
       (∀ x ∈ pre, e.key.toNat < x.key.toNat) ∧ ∀ x ∈ post.take (255 - pre.length), e.key.toNat ≤ x.key.toNat
     let taken := a.ins.flatMap (fun i => (g.tq i.1).entries.take i.2)
     let blk := taken.flatMap (·.rec_) ++ taken.flatMap (fun e => toBytes 4 e.key.toNat)
     let pad := (16 - blk.length % 16) % 16
     s.opd = .actor q num idx → s.packet r = some p → p.work = .graph g → g.actors[idx]? = some a → p.killPkt = false →
     s.mayStart r = true → s.actorReady g false a = true → (s.die q0.home).power ≠ 4 → s.actorCtx p g a q0.home tile = some c →
     (s.die (dieOf c)).power ≠ 4 → (a.ins.map (·.1)).Nodup → Answers .actorFire s (fun t =>
       (∃ p' g', t.packet r = some p' ∧ p'.work = .graph g' ∧ p'.firings = p.firings + 1 ∧ g'.tqs.length = g.tqs.length ∧
         ∀ k, k < g.tqs.length →
           (g'.tq k).reserved = (g.tq k).reserved + ((a.outs.filter (fun o => o.1 == k)).map (·.2)).sum ∧
           ((∀ i ∈ a.ins, i.1 ≠ k) → (g'.tq k).entries = (g.tq k).entries) ∧
           ∀ n, (k, n) ∈ a.ins →
             ((g.tq k).sorted = false → (g'.tq k).entries = (g.tq k).entries.drop n) ∧
             ((g.tq k).sorted = true → ∃ L : Nat → List TqEntry, L 0 = (g.tq k).entries ∧ L n = (g'.tq k).entries ∧
               ∀ j, j < n → least (L j) (L (j + 1)))) ∧
       ((∀ i ∈ a.ins, i.1 < g.tqs.length ∧ (g.tq i.1).sorted = false) →
         (∃ b, (t.ctx c).start = some b ∧ b.staging = blk ++ List.replicate pad 0 ++
           a.outs.flatMap (fun o => toBytes 2 o.1 ++ toBytes 2 o.2 ++ List.replicate 12 0)) ∧
         ∃ y, (t.ctx c).firing = some y ∧ y.outAt = blk.length + pad)))

/-- R55, R57, R58, R179, R397 and R402: how firings start and end. A binding context starts at its entry with its registers and
its staging area, zeros after what is staged; `END` drains a user context and its retirement is to come, and leaves a firmware
context idle, and is held while its collectives or requests are under way; a drained context that is owed nothing, or one that
has been killed and to which no reply of the Keep is to land, the kills before its own complete, is `IDLE`, and a kill of a
command stream that waited for it is carried out; a packet whose work has ended is, once what it is to write is ready, open no
longer: its status area holds its counts and its code, then its signal word its value or the old one less that, at address 0
too, and then the queue's vector is raised: its message is sent or, of a masked one, its pending bit set. When a killed context
is `IDLE`, and what holds `END` of a firmware context, are the model's readings (log entries 68 and 70); a status or signal that
cannot be translated is left out (log entry 48), a vector's word waits for the host (log entry 20), and kills are carried out in
their order (log entry 132). -/
def Obligations.FiringsStartAndEnd : Prop :=  ∀ (s : State) (c : CtxId) (b : Start) (q : Nat) (num : BitVec 32) (p : Packet) (cs : CtxState),
    let x := s.ctx c
    let A := stagingOf c * 4096
    let r : PktRef := ⟨s.pkg, q, num⟩
    (s.opd = .ctx c →
      (s.memWf → x.st = .binding → x.start = some b → b.restored = none → b.staging.length ≤ 4096 → Answers .firingStart s (fun t =>
        (t.ctx c).st = .run ∧ (t.ctx c).pc = b.entry ∧ (t.ctx c).start = none ∧ xGet (t.ctx c).x 0 = 0 ∧
        (∀ i : Fin 31, (t.ctx c).x[i.val + 1] = b.x.getD (i.val + 1) 0) ∧
        (∀ j, j < 4096 → t.byteAt .staging (A + j) = b.staging.getD j 0) ∧
        (∀ sp a, sp ≠ .staging ∨ a < A ∨ A + 4096 ≤ a → t.byteAt sp a = s.byteAt sp a))) ∧
      (x.st = .binding → x.start = some b → b.restored = some cs → Answers .firingStart s (fun t =>
        (t.ctx c).st = cs ∧ (t.ctx c).start = none ∧ (t.ctx c).pc = x.pc ∧ SameBytes s t)) ∧
      (c.keep = false → x.st = .drain → x.killed = false → s.drained c = true → s.settled c = true →
        Answers .firingRetire s (fun t => (t.ctx c).st = .idle ∧ (t.ctx c).firing = none ∧ (t.ctx c).vec.vregs = 0)) ∧
      (c.keep = false → (s.drained c = false ∨ s.settled c = false) → Answers .firingRetire s (fun t => t = s)) ∧
      (x.killed = true → s.drained c = true → s.reqsOf c = 0 → s.kills.head? = some (.ctx c) →
        (∀ k ∈ s.kills.tail.head?, k.isUser = true) → Answers .killComplete s (fun t =>
          (t.ctx c).st = .idle ∧ (t.ctx c).firing = none ∧ t.kills = s.kills.tail)) ∧
      (∀ d, x.killed = true → s.drained c = true → s.reqsOf c = 0 → s.kills = [.ctx c, .engine d] →
        Answers .killComplete s (fun t => (t.ctx c).st = .idle ∧ (t.ctx d).engFrozen = false ∧ t.kills = [])) ∧
      ((x.killed = false ∨ s.drained c = false ∨ s.reqsOf c ≠ 0 ∨ s.kills.head? ≠ some (.ctx c)) →
        Answers .killComplete s (fun t => t = s))) ∧
    (kindOf s.cur = .user → Answers .endFiring s (fun t =>
      t.me.st = .drain ∧ NextChain s t ∧ t.me.bundle = none ∧ t.me.snap = none ∧ ⟨.firingRetire, .ctx s.cur⟩ ∈ t.events)) ∧
    (kindOf s.cur = .firmware → (s.fwBusy s.cur = true → Held .endFiring s s) ∧
      (s.fwBusy s.cur = false → Answers .endFiring s (fun t => t.me.st = .idle ∧ t.me.bundle = none))) ∧
    (s.opd = .packet q num → s.packet r = some p →
      (s.packetDone p = false → Answers .packetComplete s (fun t => t = s)) ∧
      (∀ u, s.packetDone p = true → s.packetReady p = .error u → Answers .packetComplete s (fun t => t = u)) ∧
      (∀ u, s.packetDone p = true → s.packetReady p = .ok u →
        let v : State := { u with packets := s.packets.filter (fun y => y.ref != r) }
        let v1 := v.writeStatus p
        let w := v1.signal p
        let dom := s.domain p.pdid.toNat
        let e := dom.ivtab.toNat + 16 * (s.queue q).irqvec.toNat
        let status := p.retired % 2 ^ 32 + 2 ^ 32 * (p.killed % 2 ^ 32) + 2 ^ 64 * (p.residue % 2 ^ 32) + 2 ^ 96 * p.statusCode
        let sig (z : State) (l : Loc) : Nat :=
          (if p.sigop = 2 then BitVec.ofNat 64 (ofBytes (z.st.get l 8)) - p.sigval else p.sigval).toNat
        OnlyLines s u ∧
        Answers .packetComplete s (fun t => (∀ y ∈ t.packets, y.ref ≠ r) ∧
          (p.irq = false → t = w) ∧
          (p.irq = true → dom.state ≠ 0 → (w.fwLoc e).isSome = true →
            (w.fwRead (e + 12) 4 % 2 = 0 → t = { w with hostOut := w.hostOut ++
              [.write4 (BitVec.ofNat 64 (w.fwRead e 8)) (BitVec.ofNat 32 (w.fwRead (e + 8) 4))] }) ∧
            (w.fwRead (e + 12) 4 % 4 = 1 → t = w.fwWrite (e + 12) 4 (w.fwRead (e + 12) 4 + 2)) ∧
            (w.fwRead (e + 12) 4 % 4 = 3 → t = w))) ∧
        (s.memWf →
          (p.stataddr = 0 → v1 = v) ∧ (p.sigop = 0 → w = v1) ∧
          (∀ t1 l, p.stataddr ≠ 0 → v.locate (engReq p.pdid 0) 0 p.stataddr.toNat = .ok (t1, l) → SetsBytes s v1 l 16 status) ∧
          (∀ t1 l, p.sigop ≠ 0 → v1.locate (engReq p.pdid 0) 0 p.sigaddr.toNat = .ok (t1, l) → s.strongHits none l 8 = [] →
            SetsBytes v1 w l 8 (sig v1 l)))))

/-! ## The Keep and the matrix engine -/

/-- R148 and R149: residue words. Adding the words of two integers gives that of their sum, and a word gives back an integer
that lies within half of the modulus. R290 to R293, R302: the operation registers. A write of a shadow register keeps the bits
that are not reserved, and parks while an operation is armed; a weight set is written with the Keep's domain as its owner when
it is in its limits, and where it was valid its queued requests complete `ABORTED` and leave the queue; a read gives the
register: of 0x00 to 0x0F the shadow one, of `MXSTAT`, `MXNEXT` and `MXQUEUE` what they count, an amax register, or a weight
set; `MXGO` arms an operation under the next ticket, which it answers, and starts it where the engine is free; `MXSYNC` answers
the status of a ticket that has ended, 0xFE for one that is not known, and parks for one under way. A register that is not
named, or a number out of range, traps `ILLEGAL` with reason 0x7. That `MXSET` and `MXGO` which wait for the armed set issue
again is the model's reading (log entry 55). -/
def Obligations.MatrixRegisters : Prop :=
  ((∀ a b : Int, rnsAdd (rnsOfInt a) (rnsOfInt b) = rnsOfInt (a + b)) ∧
   (∀ v : Int, -((rnsM / 2 : Nat) : Int) ≤ v → v < ((rnsM / 2 : Nat) : Int) → rnsValid (rnsOfInt v) = true ∧ rnsToInt (rnsOfInt v) = v)) ∧
  (∀ (s : State) (d a b : XReg) (n : BitVec 8) (w : BitVec 6),
     let P := podOf s.cur
     let p := s.pod P
     let v := s.rx d
     let kind := (s.rx a).toNat
     let op : MxOp := ⟨kind, s.rx b, p.next, s.cur.slot, p.domain, none⟩
     let tk : BitVec 32 := if s.rx a = 0 then p.next - 1 else (s.rx a).setWidth 32
     let img := BitVec.ofNat 64 (v.toNat &&& mxMask 0x80) ||| (p.domain.setWidth 64 <<< 48)
     let free := p.running = none ∧ p.mxFrozen = false ∧ s.mxHeld P = false
     let reg (k : Nat) : Word :=
       if k < 0x10 then p.shadow.get 0 k
       else if k = 0x40 then BitVec.ofNat 64 (p.running.isSome.toNat + 2 * p.armed.isSome.toNat + 2 ^ 32 * p.last.toNat)
       else if k = 0x41 then p.next.setWidth 64
       else if k < 0x50 then (p.amax.get 0 (k - 0x48)).setWidth 64
       else if k = 0x50 then BitVec.ofNat 64 (p.queue.length + 2 ^ 16 * p.batches.length)
       else p.wset.get 0 (k - 0x80)
     (kindOf s.cur = .keep ∨ kindOf s.cur = .keepFw) →
     ((mxNamed n.toNat = false ∨ mxReadOnly n.toNat = true) →
       Faults (.mxset d n) s 0x01 (BitVec.ofNat 16 (7 + 16 * 192)) 0) ∧
     (n.toNat < 0x10 → p.armed.isSome = true → Answers (.mxset d n) s (fun t => ParkedOn s t (.reissue (.mxArmed P)))) ∧
     (n.toNat < 0x10 → p.armed = none → Answers (.mxset d n) s (fun t =>
       t.pod P = { p with shadow := p.shadow.set n.toNat (BitVec.ofNat 64 (v.toNat &&& mxMask n.toNat)) } ∧
       t.me.x = s.me.x ∧ NextChain s t ∧ SameBytes s t)) ∧
     (w.toNat < 64 → s.opd = .wset w d → ∀ i ∈ [Instr.mxset d (BitVec.ofNat 8 (128 + w.toNat)), .wsetWrite],
       (v.getLsbD 0 = true → (wsetOf img).ok = false → Faults i s 0x01 (BitVec.ofNat 16 (7 + 16 * 192)) 0) ∧
       ((v.getLsbD 0 = false ∨ (wsetOf img).ok = true) → Answers i s (fun t => (t.pod P).wset.get 0 w.toNat = img ∧
         ((p.wsetAt w.toNat).v = false → t.me.x = s.me.x ∧ NextChain s t ∧ SameBytes s t) ∧
         ((p.wsetAt w.toNat).v = true → s.waiters = [] →
           (t.pod P).queue = p.queue.filter (fun r => r.wset != w.toNat) ∧ (t.pod P).batches = p.batches ∧
           ∀ r ∈ p.queue, r.wset = w.toNat → s.reqLive r = true → (s.ctx r.who).wait = none →
             (t.ctx r.who).replySlots.get .free r.slot = .landed 4 0)))) ∧
     (mxNamed n.toNat = false → Faults (.mxget d n) s 0x01 (BitVec.ofNat 16 (7 + 16 * 193)) 0) ∧
     (mxNamed n.toNat = true → Answers (.mxget d n) s (fun t => SetsX s t d (reg n.toNat))) ∧
     (2 < kind → Faults (.mxgo d a b) s 0x01 (BitVec.ofNat 16 (7 + 16 * 194)) 0) ∧
     (kind ≤ 2 → p.armed.isSome = true → Answers (.mxgo d a b) s (fun t => ParkedOn s t (.reissue (.mxArmed P)))) ∧
     (kind ≤ 2 → p.armed = none → Answers (.mxgo d a b) s (fun t =>
       Result s t d (p.next.setWidth 64) ∧ SameBytes s t ∧ (t.pod P).next = p.next + 1 ∧
       (¬free → (t.pod P).armed = some op ∧ (t.pod P).running = p.running ∧ (t.pod P).active = p.active) ∧
       (free → (t.pod P).armed = none ∧ (t.pod P).running = some op ∧ (t.pod P).active = p.shadow ∧
         ⟨[Instr.fill, .mma, .unfold].getD kind .unfold, .unit P⟩ ∈ t.events))) ∧
     (let under := (p.running.map (·.ticket)) = some tk ∨ (p.armed.map (·.ticket)) = some tk
      let ended := p.ended.find? (fun e => e.1 == tk)
      ((2 ^ 32 ≤ kind ∨ (ended = none ∧ ¬under)) → Answers (.mxsync d a) s (fun t => SetsX s t d 0xFE)) ∧
      (kind < 2 ^ 32 → ∀ e, ended = some e → Answers (.mxsync d a) s (fun t => SetsX s t d e.2)) ∧
      (kind < 2 ^ 32 → ended = none → under → Answers (.mxsync d a) s (fun t => ParkedOn s t (.mxsync P tk d s.ilen)))))

/-- R294, R295, R296 and R301: the matrix operations. A running operation of malformed fields is carried out with status 5 and
nothing else, one whose tile does not match with 6, one that a right denies with 3 and the stream frozen. A fill waits until its
lines are ready (R369); one whose rows lie apart leaves each source piece, which may lie in two pages, in its place in pod
scratch, status 0. When an operation ends its status is the latest of those kept. R154, R296 to R299: the values of the elements
of a product. Each block of 32 positions of a row of A, dense, of two in each group of four (`SPARSE`), or of a pixel that
unfolding takes (none where it is padded), is multiplied with its positions of a column of B. In an `FP32` tile the exact sum of
a block, scaled by both of its scale bytes, is rounded to FP32 and added with one rounding, the blocks in ascending order, to
what the element held, or to 0 without `ACC`; a scale byte 0xFF makes it NaN. In an `RNS48` tile the residue word gains the sum
of the products; with MXINT8 codes it does where every block of the row and of the column has one scale, and without `ACC` a
dense or sparse element where one differs, or is 0xFF, is the invalid marker. Whether a completion flag is written for a status
of malformed fields is the model's choice (log entry 57); an empty sum of a sparse block is +0 by its reading (log entry 58). -/
def Obligations.MatrixOperations : Prop :=
  (∀ (s s1 u : State) (P : Nat) (op : MxOp) (src : Nat → Nat → List (Loc × Nat)) (v : Word) (wr : Bool),
     let p := s.pod P
     let g := mxArgs p.active
     let B := P * 2 ^ 22
     let by_ : CtxId := ⟨true, P, false, op.by_⟩
     let cells (x : List (Loc × Nat)) : List Loc := x.flatMap (fun p => (List.range p.2).map p.1.add)
     let done (t : State) (v : Word) (w : Bool) : Prop := (t.pod P).running = some { op with done := some (v, w) } ∧
       ⟨.mxOperationEnd, .unit P⟩ ∈ t.events
     s.opd = .unit P → p.running = some op →
     (op.done = none → ∀ i ∈ [(Instr.fill, 0), (.mma, 1), (.unfold, 2)], op.kind = i.2 →
       (mxBad op g = true → Answers i.1 s (fun t => done t 5 (s.flagAllowed op) ∧ SameBytes s t)) ∧
       (mxBad op g = false → p.mxModeBad op g = true → Answers i.1 s (fun t => done t 6 (s.flagAllowed op) ∧ SameBytes s t)) ∧
       (∀ e, mxBad op g = false → p.mxModeBad op g = false → s.mxDenied op g = some e →
         Answers i.1 s (fun t => done t 3 false ∧ (t.pod P).mxFrozen = true)) ∧
       (mxBad op g = false → p.mxModeBad op g = false → s.mxDenied op g = none → i.2 ≠ 0 → Answers i.1 s (fun t =>
         (∃ c, done t c true ∧ c.toNat % 256 = 0) ∧ SameBytes s t ∧ ∀ z, z ≠ g.zt → (t.pod P).tile z = p.tile z))) ∧
     (op.done = none → op.kind = 0 → mxBad op g = false → s.mxDenied op g = none →
       (s.takeFill P op g = .error u → Answers .fill s (fun t => t = u)) ∧
       (s.takeFill P op g = .ok s1 → s.memWf → s.dir = [] → (s.ctx by_).paths = [] → g.bytes ≤ g.dstr →
         (∀ i k, i < g.rows → k < g.bytes / 16 →
           s1.spanLocs (engReq op.pdid (P / 12)) (pagePieces (g.fillFrom i + 16 * k) 16) = .ok (src i k)) →
         Answers .fill s (fun t => done t 0 true ∧ (∀ sp a, t.byteAt sp a = s.byteAt sp a) ∧
           ∀ (i k j : Nat) (y : Loc), i < g.rows → k < g.bytes / 16 → (cells (src i k))[j]? = some y →
             t.st.podScratch.read (B + g.fdst + i * g.dstr + 16 * k + j) = s.byteAt y.sp y.a))) ∧
     (op.done = some (v, wr) →
       (s.takeFlag P op wr = .error u → Answers .mxOperationEnd s (fun t => t = u)) ∧
       (s.takeFlag P op wr = .ok s1 → Answers .mxOperationEnd s (fun t =>
         (t.pod P).last = op.ticket ∧ (t.pod P).ended.head? = some (op.ticket, v) ∧
         (p.armed = none → (t.pod P).running = none) ∧ ((wr = false ∨ op.flag = 0) → SameBytes s t))))) ∧
  (∀ (s : State) (P : Nat) (op : MxOp),
     let p := s.pod P
     let g := mxArgs p.active
     let m := s.st.podScratch
     let B := P * 2 ^ 22
     let nb := g.k / 32
     let z0 := p.tile g.zt
     let rd (x : Nat) : Nat := (m.read x).toNat
     let bits (q w : Nat) : Nat := (rd (q / 8) + 256 * rd (q / 8 + 1)) / 2 ^ (q % 8) % 2 ^ w
     let el (x c L n : Nat) : Nat := match fatMx c with
       | some f => bits (8 * x + (n / L / 32 * (32 + 4 * L * f.width) + 32) * 8 + (n - 32 * L * (n / L / 32)) * f.width) f.width
       | none => ofBytes (m.readN (x + n * (fatSize c).getD 1) ((fatSize c).getD 1))
     let sc (x c L n : Nat) : Nat := match fatMx c with
       | some f => rd (x + n / L / 32 * (32 + 4 * L * f.width) + n / L % 32)
       | none => 127
     let row (i : Nat) : Nat := B + g.opa + i * g.lda
     let col (j : Nat) : Nat := B + g.opb + j * g.ldb
     let pos (i q : Nat) : Nat := bits (8 * (B + g.meta_) + 4 * (i * (g.k / 4) + q)) 4
     let two (i q : Nat) : List (Nat × Nat) :=
       if pos i q % 4 < pos i q / 4 then
         [(4 * q + pos i q % 4, el (row i) g.acode 16 (2 * q)), (4 * q + pos i q / 4, el (row i) g.acode 16 (2 * q + 1))]
       else []
     let OH : Nat := (((g.h : Int) + g.pt - g.dh * ((g.kh : Int) - 1) - 1) / g.sh + 1).toNat
     let OW : Nat := (((g.w : Int) + g.pl - g.dw * ((g.kw : Int) - 1) - 1) / g.sw + 1).toNat
     let Y (i k : Nat) : Int := ((g.rowz + i) / OW % OH * g.sh : Nat) - (g.pt : Int) + (k / (g.kw * g.c) * g.dh : Nat)
     let X (i k : Nat) : Int := ((g.rowz + i) % OW * g.sw : Nat) - (g.pl : Int) + (k / g.c % g.kw * g.dw : Nat)
     let pixel (i k : Nat) : Nat := B + g.opa + (((g.rowz + i) / (OH * OW) * g.h + (Y i k).toNat) * g.w + (X i k).toNat) * g.lda
     let block (kind i b : Nat) : Option (Nat × List (Nat × Nat)) :=
       if kind = 2 then
         if Y i (32 * b) < 0 ∨ (g.h : Int) ≤ Y i (32 * b) ∨ X i (32 * b) < 0 ∨ (g.w : Int) ≤ X i (32 * b) then none
         else some (sc (pixel i (32 * b)) g.acode 32 (32 * b % g.c),
           (List.range 32).map (fun k => (32 * b + k, el (pixel i (32 * b)) g.acode 32 (32 * b % g.c + k))))
       else if g.sparse then some (sc (row i) g.acode 16 (16 * b), (List.range 8).flatMap (fun q => two i (8 * b + q)))
       else some (sc (row i) g.acode 32 (32 * b), (List.range 32).map (fun k => (32 * b + k, el (row i) g.acode 32 (32 * b + k))))
     let val (c v : Nat) : FV := match fatMx c with
       | some f => f.elem v
       | none => if c = 10 then bf16.val v else fp16.val v
     let bel (j k : Nat) : Nat := el (col j) g.bcode 32 k
     let bsc (j b : Nat) : Nat := sc (col j) g.bcode 32 (32 * b)
     let part (x : Nat × List (Nat × Nat)) (j b : Nat) : FV :=
       let sum := (exactSum .rne (x.2.map (fun y => exactMul (val g.acode y.2) (val g.bcode (bel j y.1))))).x
       fp32.val (roundTo fp32 .rne false
         (if x.1 = 255 ∨ bsc j b = 255 then .nan false else sum.scale ((x.1 : Int) - 127 + ((bsc j b : Int) - 127)))).v
     let ints (kind i j : Nat) : Int := ((List.range nb).map (fun b => match block kind i b with
       | some x => (x.2.map (fun y => signedNat 8 y.2 * signedNat 8 (bel j y.1))).sum
       | none => 0)).sum
     let old (i j : Nat) : Nat := if g.acc then (z0.el.get 0 (64 * i + j)).toNat else 0
     let code (q : SMap Byte) (i : Nat) : Nat := if g.acc then scaleCode q i else 255
     s.opd = .unit P → p.running = some op → op.done = none → mxBad op g = false → p.mxModeBad op g = false → s.mxDenied op g = none →
     ∀ o ∈ [(Instr.mma, 1), (.unfold, 2)], op.kind = o.2 → Answers o.1 s (fun t =>
       let z := (t.pod P).tile g.zt
       z.m = g.m ∧ z.n = g.n ∧ z.mode = (if g.acode = 1 ∨ g.acode = 17 then 2 else 1) ∧
       (z.mode = 2 → z.count = min (2 ^ 33) ((if g.acc then z0.count else 0) + g.k)) ∧
       (g.acode ≠ 1 → g.acode ≠ 17 → ∀ i j, i < g.m → j < g.n → (z.el.get 0 (64 * i + j)).toNat % 2 ^ 32 =
         (List.range nb).foldl (fun e b => match block o.2 i b with
           | some x => (fAdd fp32 .rne (fp32.val e) (part x j b)).v
           | none => e) (old i j % 2 ^ 32)) ∧
       (g.acode = 1 → ∀ (i j : Nat) (v : Int), i < g.m → j < g.n → old i j = rnsOfInt v →
         (z.el.get 0 (64 * i + j)).toNat = rnsOfInt (v + ints o.2 i j)) ∧
       (g.acode = 17 → ∀ rc cc : Nat → Nat,
         (∀ i, i < g.m → rc i ≠ 255 ∧ (code z0.rows i = 255 ∨ code z0.rows i = rc i) ∧
           ∀ b x, b < nb → block o.2 i b = some x → x.1 = rc i) →
         (∀ j, j < g.n → cc j ≠ 255 ∧ (code z0.cols j = 255 ∨ code z0.cols j = cc j) ∧ ∀ b, b < nb → bsc j b = cc j) →
         ∀ (i j : Nat) (v : Int), i < g.m → j < g.n → old i j = rnsOfInt v →
           (z.el.get 0 (64 * i + j)).toNat = rnsOfInt (v + ints o.2 i j)) ∧
       (g.acode = 17 → o.2 = 1 → g.acc = false → ∀ i j b, i < g.m → j < g.n → b < nb →
         (∀ x y, block 1 i 0 = some x → block 1 i b = some y →
           (y.1 ≠ x.1 ∨ y.1 = 255 ∨ bsc j b ≠ bsc j 0 ∨ bsc j b = 255) → (z.el.get 0 (64 * i + j)).toNat = rnsBad))))

/-- R303: the tile image. A tile of a legal size is loaded back from its image as it was, and `ZZERO` makes a tile of zeros of a
legal mode and size and traps `ILLEGAL` with reason 0x7 otherwise. R303: the layout of a tile image. Its mode, M and N are bytes
0 to 2, its product count bytes 8 to 15, its row scale codes bytes 64 to 127 and its column scale codes bytes 128 to 191, a code
unset being 0xFF; element (i, j) is the 8 bytes from 256 + 8 × (64 i + j) on, 0 outside M × N; and every other byte is 0. An
image is loaded where its reserved bytes are 0, its mode is at most 2, and M and N are from 1 to 64 unless its mode is 0. R304
to R306: conversion of a tile. With legal operands and rows that lie apart, each element's value, that of its FP32 bits or of
its residue word with the scale codes of its row and column, rounded as the operands say, lies in its place of pod scratch, or,
under an MX code, each run of 32 values as a block: its scale byte among the first 32 of its row, and its elements, bit after
bit, behind them; every other byte is as it was; an invalid residue word, or too many products, raises `RNGE`; an amax register
that is named follows. Operands that break a limit, an `EMPTY` tile, an MX code with N neither 32 nor 64, and rows that run past
4 MiB trap `ILLEGAL` with reason 0x7. `MXAMAX` answers an amax register and clears it. A limit of `MXCVT` that is an alignment
traps as its other limits do by the model's reading (log entry 61); rows that overlap are left out here (log entry 131). -/
def Obligations.Tiles : Prop :=
  ((∀ t : Tile, t.mode ≤ 2 → 1 ≤ t.m → t.m ≤ 64 → 1 ≤ t.n → t.n ≤ 64 → t.count < 2 ^ 64 →
     (t.mode = 1 → ∀ i, (t.el.get 0 i).toNat < 2 ^ 32) →
     t.image.length = tileBytes ∧ imageOk t.image = true ∧
     let u := tileOf t.image
     u.mode = t.mode ∧ u.m = t.m ∧ u.n = t.n ∧ u.count = t.count ∧
     (∀ i, i < 64 → scaleCode u.rows i = scaleCode t.rows i ∧ scaleCode u.cols i = scaleCode t.cols i) ∧
     (∀ i j, i < t.m → j < t.n → u.el.get 0 (64 * i + j) = t.el.get 0 (64 * i + j))) ∧
   (∀ (s t1 t2 : State) (z : ZReg) (a b : XReg) (bs : List Byte),
     let P := podOf s.cur
     let mn := (s.rx b).toNat
     let M := mn % 128
     let N := mn / 256 % 128
     let legal := ((s.rx a).toNat = 1 ∨ (s.rx a).toNat = 2) ∧ 1 ≤ M ∧ M ≤ 64 ∧ 1 ≤ N ∧ N ≤ 64 ∧ mn = M + 256 * N
     (kindOf s.cur = .keep ∨ kindOf s.cur = .keepFw) →
     (¬legal → Faults (.zzero z a b) s 0x01 (BitVec.ofNat 16 (7 + 16 * 197)) 0) ∧
     ((s.pod P).mxBusy (some z.toNat) [] = false →
       (legal → Answers (.zzero z a b) s (fun t => let u := (t.pod P).tile z.toNat
         u.mode = (s.rx a).toNat ∧ u.m = M ∧ u.n = N ∧ u.count = 0 ∧ (∀ k, u.el.get 0 k = 0) ∧ t.me.x = s.me.x ∧ NextChain s t ∧
         SameBytes s t)) ∧
       (s.confirmTile 17 (s.rx a) = .ok t1 → t1.readLines ((s.rx a).toNat % 2 ^ 56) 258 = .ok (t2, bs) →
         (imageOk bs = true → Answers (.zld z a) s (fun t => (t.pod P).tile z.toNat = tileOf bs ∧ t.me.x = s.me.x ∧ NextChain s t ∧
           SameBytes s t)) ∧
         (imageOk bs = false → s.recordHeld s.cur = false → Answers (.zld z a) s (fun t => t.me.causeCode = 0x27 ∧ t.me.fpc = s.me.pc ∧ t.me.x = s.me.x))) ∧
       (s.confirmTile 18 (s.rx a) = .ok t1 → t1.storeLines ((s.rx a).toNat % 2 ^ 56) ((s.pod P).tile z.toNat).image 258 = .ok t2 →
         Answers (.zst z a) s (fun t => t.st = t2.st ∧ t.me.x = s.me.x ∧ NextChain s t))) ∧
     ((s.pod P).mxBusy (some z.toNat) [] = true → legal → Held (.zzero z a b) s s))) ∧
  ((∀ (t : Tile) (k : Nat), t.mode < 256 → t.m < 256 → t.n < 256 → k < 33024 →
     let e := (k - 256) / 8
     let shown := if e / 64 < t.m ∧ e % 64 < t.n then (t.el.get 0 e).toNat else 0
     t.image.getD k 0 =
       if k = 0 then BitVec.ofNat 8 t.mode else if k = 1 then BitVec.ofNat 8 t.m else if k = 2 then BitVec.ofNat 8 t.n
       else if k < 8 then 0 else if k < 16 then BitVec.ofNat 8 (t.count / 256 ^ (k - 8)) else if k < 64 then 0
       else if k < 128 then t.rows.get 0xFF (k - 64) else if k < 192 then t.cols.get 0xFF (k - 128) else if k < 256 then 0
       else BitVec.ofNat 8 (shown / 256 ^ (k % 8))) ∧
   (∀ l : List Byte, l.length = 33024 → (imageOk l = true ↔
     (∀ k, (3 ≤ k ∧ k < 8) ∨ (16 ≤ k ∧ k < 64) ∨ (192 ≤ k ∧ k < 256) → l.getD k 0 = 0) ∧ (l.getD 0 0).toNat ≤ 2 ∧
     ((l.getD 0 0).toNat ≠ 0 → (1 ≤ (l.getD 1 0).toNat ∧ (l.getD 1 0).toNat ≤ 64) ∧
       1 ≤ (l.getD 2 0).toNat ∧ (l.getD 2 0).toNat ≤ 64)))) ∧
  (∀ (s : State) (z : ZReg) (d a b : XReg),
     let P := podOf s.cur
     let p := s.pod P
     let t0 := p.tile z.toNat
     let c := cvtForm (s.rx a).toNat (s.rx b).toNat
     let sz := (fatSize c.code).getD 4
     let n := (s.rx a).toNat
     let place (i j : Nat) : Nat := P * 2 ^ 22 + c.off + i * c.stride + j * sz
     let word (i j : Nat) : Nat := (t0.el.get 0 (64 * i + j)).toNat
     let rowc (i : Nat) : Nat := (t0.rows.get 0xFF i).toNat
     let colc (j : Nat) : Nat := (t0.cols.get 0xFF j).toNat
     let kscale (i j : Nat) : Int := if rowc i = 255 ∨ colc j = 255 then 0 else ((rowc i : Int) - 127) + ((colc j : Int) - 127) - 12
     let val (i j : Nat) : FV :=
       if t0.mode = 1 then (fp32.val (word i j % 2 ^ 32)).scale c.e
       else if rnsValid (word i j) then (intFV (rnsToInt (word i j))).scale (kscale i j + c.e) else .nan false
     let rmode := RMode.ofCode (if c.mode = 0 then s.me.rnd.toNat % 8 else c.mode - 1)
     let len := match fatMx c.code with
       | some f => 32 + t0.n * f.width / 8
       | none => t0.n * sz
     let past := ∃ i, i < t0.m ∧ 2 ^ 22 < c.off + i * c.stride + len
     let rd (s : State) (q : Nat) : Nat := (s.st.podScratch.read q).toNat
     let bits (s : State) (q w : Nat) : Nat := (rd s (q / 8) + 256 * rd s (q / 8 + 1)) / 2 ^ (q % 8) % 2 ^ w
     let trap := Faults (.mxcvt z a b) s 0x01 (BitVec.ofNat 16 (7 + 16 * 195)) 0
     let ready := cvtBad (s.rx a).toNat (s.rx b).toNat = false ∧ p.mxBusy (some z.toNat) [] = false ∧ t0.mode ≠ 0 ∧ ¬past ∧
       p.mxBusy none (c.ranges t0) = false ∧ len ≤ c.stride ∧ s.memWf
     let rest (t : State) : Prop :=
       (∀ sp q, t.byteAt sp q = s.byteAt sp q) ∧
       (∀ r, (t.pod P).amax.get 0 r = if c.amx = true ∧ r = c.reg then t0.amaxAll c.e (p.amax.get 0 r) else p.amax.get 0 r) ∧
       ((t0.mode = 2 ∧ ((∃ i j, i < t0.m ∧ j < t0.n ∧ rnsValid (word i j) = false) ∨ (2 ^ 32 < t0.count ∧ 0 < t0.m ∧ 0 < t0.n))) →
         t.me.flags.getLsbD 6 = true) ∧
       t.me.x = s.me.x ∧ NextChain s t
     (kindOf s.cur = .keep ∨ kindOf s.cur = .keepFw) →
     (cvtBad (s.rx a).toNat (s.rx b).toNat = true → trap) ∧
     (cvtBad (s.rx a).toNat (s.rx b).toNat = false → p.mxBusy (some z.toNat) [] = false →
       (t0.mode = 0 ∨ (12 ≤ c.code ∧ t0.n ≠ 32 ∧ t0.n ≠ 64) ∨ (0 < t0.n ∧ past)) → trap) ∧
     (ready → c.code < 12 → Answers (.mxcvt z a b) s (fun t =>
       (∀ i j k, i < t0.m → j < t0.n → k < sz → t.st.podScratch.read (place i j + k) =
         BitVec.ofNat 8 ((cvtOne c.code rmode (val i j)).v / 256 ^ k)) ∧
       (∀ q, (∀ i j, i < t0.m → j < t0.n → q < place i j ∨ place i j + sz ≤ q) → t.st.podScratch.read q = s.st.podScratch.read q) ∧
       rest t)) ∧
     (∀ f, ready → 12 ≤ c.code → (t0.n = 32 ∨ t0.n = 64) → fatMx c.code = some f → Answers (.mxcvt z a b) s (fun t =>
       (∀ i k, i < t0.m → k < t0.n / 32 →
         let r := mxBlock f rmode (s.me.rnd.getLsbD 3) ((List.range 32).map (fun j => val i (32 * k + j)))
         let at_ := P * 2 ^ 22 + c.off + i * c.stride
         rd t (at_ + k) = r.scale ∧
         ∀ j, j < 32 → bits t ((at_ + 32) * 8 + (32 * k + j) * f.width) f.width = r.els.getD j 0) ∧
       (∀ q, (∀ i, i < t0.m → q < P * 2 ^ 22 + c.off + i * c.stride ∨ P * 2 ^ 22 + c.off + i * c.stride + len ≤ q) →
         t.st.podScratch.read q = s.st.podScratch.read q) ∧
       rest t)) ∧
     (7 < n → Faults (.mxamax d a) s 0x01 (BitVec.ofNat 16 (7 + 16 * 196)) 0) ∧
     (n ≤ 7 → Answers (.mxamax d a) s (fun t => Result s t d ((p.amax.get 0 n).setWidth 64) ∧ (t.pod P).amax.get 0 n = 0 ∧
       (∀ r, r ≠ n → (t.pod P).amax.get 0 r = p.amax.get 0 r) ∧ SameBytes s t)))

/-- R307 to R310 and R288: inference requests. A request of a set that is not valid for its domain gets 2, of a slot in use 3;
else it is queued with its input and gets 0, or parks on a full queue; a wait takes what has landed in a slot. A take moves the
oldest requests of its set, up to its limit, from the queue into a batch; with none it gets 0 or parks. A reply to an unknown
batch gets 0xFE, and to a batch of one live request lands it. A Keep context that ends drains while operations it armed have yet
to end. R288, R308 to R311: batches. A take writes the inputs of its requests to rows of 256 bytes of pod scratch, zeros after
each input, and takes them from the queue. A reply to a batch reads row i, at 128 bytes a row, into the slot of its i-th request
where that is alive, zeros after it, and lands it `DONE` with its byte count: a context that waits for the slot goes on with
that and the slot is free again. It answers how many it landed, and lands nothing in the others. A Keep context that ends
completes the live requests of the batches that it has taken `ABORTED`, with no bytes, and drains while an operation that it
armed has yet to end. That a take that waits issues again, and that a parked request keeps its input, are the model's readings
(log entries 53 and 54), as is that an open batch keeps its set as it was taken (log entry 59). -/
def Obligations.InferenceRequests : Prop :=
  (∀ (s t1 : State) (d a b : XReg) (bs : List Byte) (x : Batch) (r : MxReq) (st k : Byte),
     let P := podOf s.cur
     let p := s.pod P
     let q := (s.rx a).toNat
     let w := q % 64
     let slot := q / 256
     let S := p.wsetAt w
     let off := (s.rx b).toNat
     let lim := q / 256 % 128
     let mine := (p.queue.filter (fun y => y.wset == w)).take lim
     (kindOf s.cur = .user →
       ((q / 64 % 4 ≠ 0 ∨ 2 ^ 11 ≤ q) → Faults (.mxreq d a b) s 0x01 (BitVec.ofNat 16 (7 + 16 * 164)) 0) ∧
       (q / 64 % 4 = 0 → q < 2 ^ 11 →
         ((S.v = false ∨ S.owner ≠ s.me.pdid) → Answers (.mxreq d a b) s (fun t => SetsX s t d 2)) ∧
         (S.v = true → S.owner = s.me.pdid → s.me.replySlots.get .free slot ≠ .free → Answers (.mxreq d a b) s (fun t => SetsX s t d 3)) ∧
         (S.v = true → S.owner = s.me.pdid → s.me.replySlots.get .free slot = .free →
           s.readPacked (s.rx b) ((fatSize S.icode).getD 1) 0 S.k = .ok (t1, bs) →
           (256 ≤ p.queue.length → Answers (.mxreq d a b) s (fun t => ParkedOn s t (.mxqueue w slot bs d s.ilen))) ∧
           (p.queue.length < 256 → Answers (.mxreq d a b) s (fun t => Result s t d 0 ∧ SameBytes s t ∧
             (t.pod P).queue = p.queue ++ [⟨s.cur, slot, w, bs, true⟩] ∧ t.me.replySlots.get .free slot = .pending)))) ∧
       (7 < q → Faults (.mxrwait d a) s 0x01 (BitVec.ofNat 16 (7 + 16 * 164)) 0) ∧
       (q ≤ 7 → s.me.replySlots.get .free q = .free → Answers (.mxrwait d a) s (fun t => SetsX s t d 0xFE)) ∧
       (q ≤ 7 → s.me.replySlots.get .free q = .pending → Answers (.mxrwait d a) s (fun t => ParkedOn s t (.mxreply q d s.ilen))) ∧
       (q ≤ 7 → s.me.replySlots.get .free q = .landed st k → Answers (.mxrwait d a) s (fun t =>
         Result s t d (BitVec.ofNat 64 (st.toNat + 256 * k.toNat)) ∧ t.me.replySlots.get .free q = .free ∧ SameBytes s t))) ∧
     ((kindOf s.cur = .keep ∨ kindOf s.cur = .keepFw) → s.me.st = .run → (∀ y ∈ s.waiters, y.1 ≠ s.cur) →
       (q / 64 % 4 = 0 → q < 2 ^ 16 → 1 ≤ lim → lim ≤ 64 → off % 64 = 0 → off + 256 * lim ≤ 2 ^ 22 →
         (S.v = false → s.me.wait = none → Answers (.mxtake d a b) s (fun t => SetsX s t d 0)) ∧
         (S.v = true → (mine = [] ∨ 16 ≤ p.batches.length) →
           (q / 2 ^ 15 = 1 → Answers (.mxtake d a b) s (fun t => SetsX s t d 0)) ∧
           (q / 2 ^ 15 = 0 → Answers (.mxtake d a b) s (fun t => ParkedOn s t (.reissue (.mxTake P))))) ∧
         (S.v = true → mine ≠ [] → p.batches.length < 16 → p.mxBusy none [(off, 256 * mine.length)] = false →
           Answers (.mxtake d a b) s (fun t => Result s t d (BitVec.ofNat 64 (mine.length + 256 * p.freeBid)) ∧
             (t.pod P).batches = p.batches ++ [⟨p.freeBid, s.cur.slot, p.wset.get 0 w, mine⟩]))) ∧
       (q ≤ 15 → off < 2 ^ 22 → p.batches.find? (fun y => y.bid == q) = none →
         Answers (.mxreply d a b) s (fun t => SetsX s t d 0xFE)) ∧
       (q ≤ 15 → off < 2 ^ 22 → p.batches.find? (fun y => y.bid == q) = some x → x.reqs = [r] → r.who ≠ s.cur →
         (let n := min 128 ((wsetOf x.wset).n * (fatSize (wsetOf x.wset).ocode).getD 1)
          p.mxBusy none [(off, n)] = false →
           (s.reqLive r = true → (s.ctx r.who).wait = none → Answers (.mxreply d a b) s (fun t => Result s t d 1 ∧
             (t.ctx r.who).replySlots.get .free r.slot = .landed 0 (BitVec.ofNat 8 n))) ∧
           (s.reqLive r = false → Answers (.mxreply d a b) s (fun t => Result s t d 0 ∧ SameBytes s t)))) ∧
       (kindOf s.cur = .keep → s.mxOwed s.cur = true → p.batches = [] → s.me.bundle = none → Answers .endFiring s (fun t =>
         t.me.st = .drain ∧ NextChain s t ∧ SameBytes s t)))) ∧
  (∀ (s : State) (d a b : XReg) (x : Batch),
     let P := podOf s.cur
     let p := s.pod P
     let q := (s.rx a).toNat
     let w := q % 64
     let off := (s.rx b).toNat
     let lim := q / 256 % 128
     let B := P * 2 ^ 22 + off
     let mine := (p.queue.filter (fun y => y.wset == w)).take lim
     let n := min 128 ((wsetOf x.wset).n * (fatSize (wsetOf x.wset).ocode).getD 1)
     let user (r : MxReq) : Prop := r.who.keep = false ∧ r.who.slot < 8 ∧ r.slot < 8 ∧ r.who ≠ s.cur
     let place (r : MxReq) (k : Nat) : Nat := stagingOf r.who * 4096 + 0xC00 + 128 * r.slot + k
     s.memWf → (∀ y ∈ s.waiters, y.1 ≠ s.cur) →
       ((kindOf s.cur = .keep ∨ kindOf s.cur = .keepFw) → s.me.st = .run → q / 64 % 4 = 0 → q < 2 ^ 16 → 1 ≤ lim → lim ≤ 64 →
         off % 64 = 0 → off + 256 * lim ≤ 2 ^ 22 → (p.wsetAt w).v = true → mine ≠ [] → p.batches.length < 16 →
         p.mxBusy none [(off, 256 * mine.length)] = false → (∀ r ∈ mine, r.input.length ≤ 256) →
         Answers (.mxtake d a b) s (fun t =>
           (∀ (i k : Nat) (r : MxReq), mine[i]? = some r → k < 256 →
             t.st.podScratch.read (B + 256 * i + k) = r.input.getD k 0) ∧
           (∀ y, y < B ∨ B + 256 * mine.length ≤ y → t.st.podScratch.read y = s.st.podScratch.read y) ∧
           (∀ sp y, t.byteAt sp y = s.byteAt sp y) ∧
           (s.waiters = [] → (t.pod P).queue = mine.foldl (fun l r => l.erase r) p.queue))) ∧
       ((kindOf s.cur = .keep ∨ kindOf s.cur = .keepFw) → s.me.st = .run → q ≤ 15 → off < 2 ^ 22 →
         p.batches.find? (fun y => y.bid == q) = some x → (∀ r ∈ x.reqs, user r) →
         (x.reqs.map (fun r => (r.who, r.slot))).Nodup → p.mxBusy none (rowRanges off 128 x.reqs.length n) = false →
         Answers (.mxreply d a b) s (fun t =>
           Result s t d (BitVec.ofNat 64 (x.reqs.filter s.reqLive).length) ∧
           (t.pod P).batches = p.batches.filter (fun y => y.bid != q) ∧
           (∀ (i : Nat) (r : MxReq), x.reqs[i]? = some r →
             (s.reqLive r = false → (t.ctx r.who).replySlots.get .free r.slot = (s.ctx r.who).replySlots.get .free r.slot ∧
               ∀ k, k < 128 → t.byteAt .staging (place r k) = s.byteAt .staging (place r k)) ∧
             (s.reqLive r = true →
               (∀ k, k < n → off + 128 * i + k < 2 ^ 22 →
                 t.byteAt .staging (place r k) = s.st.podScratch.read (B + 128 * i + k)) ∧
               (∀ k, n ≤ k → k < 128 → t.byteAt .staging (place r k) = 0) ∧
               ((s.ctx r.who).wait = none → (t.ctx r.who).replySlots.get .free r.slot = .landed 0 (BitVec.ofNat 8 n)) ∧
               (∀ rd len, (s.ctx r.who).wait = some (.mxreply r.slot rd len) → (s.ctx r.who).st = .wait →
                 (t.ctx r.who).replySlots.get .free r.slot = .free ∧ (t.ctx r.who).st = .run ∧
                 (rd ≠ 0 → xGet (t.ctx r.who).x rd = BitVec.ofNat 64 (256 * n))))) ∧
           (∀ sp y, (sp ≠ .staging ∨ ∀ r ∈ x.reqs, ∀ k, k < 128 → y ≠ place r k) → t.byteAt sp y = s.byteAt sp y) ∧
           ∀ y, t.st.podScratch.read y = s.st.podScratch.read y)) ∧
       (kindOf s.cur = .keep → s.me.bundle = none → s.me.snap = none → Answers .endFiring s (fun t =>
         (t.pod P).batches = p.batches.filter (fun y => y.keepSlot != s.cur.slot) ∧
         t.me.st = (if s.mxOwed s.cur then CtxState.drain else .idle) ∧
         ∀ y ∈ p.batches, y.keepSlot = s.cur.slot → ∀ r ∈ y.reqs, user r → s.reqLive r = true → (s.ctx r.who).wait = none →
           (t.ctx r.who).replySlots.get .free r.slot = .landed 4 0 ∧ ∀ k, k < 128 → t.byteAt .staging (place r k) = 0)))

/-! ## Firmware -/

/-- R392, R395 and R396: inspecting and steering. `CTXSTAT` answers a status word, in the layout of R395, and `CTXRD` a
register, by the map of R395, of the context that a selector names, and `CTXWR` writes one; `RESUME` lets a faulted context run
at its saved address or the one given, whose bit 0 the program counter does not have (R80), `THAW` a frozen context, and it lets
the commands of a frozen stream start again. A master in no such state traps `ILLEGAL` with reason 0x8, a selector, a kind of
master, a word or a register out of its limits with 0x7. R390, R391 and R394: a die's fault buffer accepts the first held record
in arrival order while it has room; with none a record that has not been offered before sets `OVF` and raises event 0, and is
held; `FBPOP` writes the oldest record's 64 bytes to its area and takes it out, once in a cycle of the die, and with none
answers 1 or waits; `FBSTAT` answers the counts and `OVF`, which it clears for x[ra] = 1. Which reason comes first, that
reserved bits of a system register are ignored, and that a waiting `FBPOP` issues again are the model's readings (log entries 71
and 77). -/
def Obligations.MasterInspection : Prop :=
  (∀ (s : State) (d a b : XReg),
     let m := selOf (s.rx a)
     let c := m.ctx
     let n := (s.rx b).toNat
     let good := selOk (dieOf s.cur) (s.rx a) = true
     let x := s.ctx c
     let v := s.rx d
     let fw := kindOf s.cur = .firmware ∨ kindOf s.cur = .keepFw
     let trap (i : Instr) (reason major : Nat) : Prop := Faults i s 0x01 (BitVec.ofNat 16 (reason + 16 * (224 + major))) 0
     let stCode := [CtxState.idle, .binding, .run, .wait, .drain, .faulted, .frozen, .saving].idxOf x.st
     let kind := match kindOf c with
       | .user => 0
       | .message => 1
       | .firmware => 2
       | _ => 3
     let stat : Word :=
       if n = 0 then BitVec.ofNat 64 (stCode + 2 ^ 3 * kind + 2 ^ 6 * (s.recordHeld c).toNat + 2 ^ 7 * x.engFrozen.toNat +
         2 ^ 8 * x.sendFrozen.toNat + 2 ^ 16 * x.pdid.toNat + 2 ^ 32 * x.causeCode.toNat)
       else if n = 1 then (x.firing.map (·.fid)).getD 0
       else if n = 2 then BitVec.ofNat 64 (x.vec.vregs + 2 ^ 8 * x.vec.vclass + 2 ^ 16 * (x.vec.vregs * 2 ^ x.vec.vclass))
       else ((x.firing.map Firing.launchId).getD 0).setWidth 64
     let named : Prop := n ≤ 0x22 ∨ (0x30 ≤ n ∧ n ≤ 0x3F) ∨ (0x40 ≤ n ∧ n ≤ 0x42 ∧ kindOf c = .user) ∨
       (0x100 ≤ n ∧ n ≤ 0x10C ∧ (sysAccess (kindOf c) (n - 0x100)).rd = true)
     let reg : Word :=
       if n < 0x20 then xGet x.x (BitVec.ofNat 5 n)
       else if n = 0x20 then x.pc.setWidth 64
       else if n = 0x21 then BitVec.ofNat 64 x.rs.depth
       else if n = 0x22 then BitVec.ofNat 64 x.rs.spilled
       else if n < 0x40 then ((x.rs.hw.toList.getD (n - 0x30) 0)).setWidth 64
       else if n = 0x40 then x.vec.vl.setWidth 64
       else if n = 0x41 then x.vec.vt.setWidth 64
       else if n = 0x42 then x.vec.vw2.setWidth 64
       else x.sysRead (n - 0x100)
     let fits : Prop :=
       (n = 0x20 → v.toNat < 2 ^ 56 ∧ v.toNat % 2 = 0) ∧ (n = 0x21 → v.toNat ≤ 16) ∧ (n = 0x22 → v.toNat < 2 ^ 32) ∧
       (0x30 ≤ n → n < 0x40 → v.toNat < 2 ^ 56) ∧ (n = 0x40 → v.toNat ≤ 8192) ∧
       (n = 0x41 → v.toNat < 2 ^ 16 ∧ typeValid v.toNat = true) ∧ (n = 0x42 → v.toNat < 8) ∧ (n = 0x101 → v.toNat % 8 ≤ 4)
     let fixed : Prop := n = 0x103 ∨ n = 0x106 ∨ n = 0x108 ∨ n = 0x109
     let runsAt (t : State) (p : VAddr) : Prop := (t.ctx c).st = .run ∧ (t.ctx c).pc = evenVa p ∧ (t.ctx c).fpc = p ∧ (t.ctx c).wait = none ∧
       (t.ctx c).x = (s.ctx c).x ∧ t.me.x = s.me.x ∧ NextChain s t ∧ SameBytes s t
     fw →
     ((¬good ∨ 1 < m.kind) → trap (.ctxstat d a b) 7 0 ∧ trap (.ctxrd d a b) 7 0 ∧ trap (.ctxwr d a b) 7 0 ∧ trap (.resume a b) 7 1) ∧
     ((¬good ∨ 4 < m.kind) → trap (.thaw a b) 7 1) ∧ (¬good → trap (.kill a b) 7 1) ∧
     (good → m.kind ≤ 1 →
       (n ≤ 3 → Answers (.ctxstat d a b) s (fun t => SetsX s t d stat)) ∧ (3 < n → trap (.ctxstat d a b) 7 0) ∧
       (¬named → trap (.ctxrd d a b) 7 0 ∧ trap (.ctxwr d a b) 7 0) ∧
       (named →
         (x.st = .faulted ∨ x.st = .frozen ∨ x.st = .wait → Answers (.ctxrd d a b) s (fun t => SetsX s t d reg)) ∧
         (x.st ≠ .faulted → x.st ≠ .frozen → x.st ≠ .wait → trap (.ctxrd d a b) 8 0) ∧
         (c ≠ s.cur → (x.st = .faulted ∨ x.st = .frozen) → ¬fixed → fits → Answers (.ctxwr d a b) s (fun t =>
           t.me.x = s.me.x ∧ NextChain s t ∧ SameBytes s t ∧ t.ctx c =
             if n < 0x20 then { x with x := xSet x.x (BitVec.ofNat 5 n) v }
             else if n = 0x20 then { x with pc := v.setWidth 56 }
             else if n = 0x21 then { x with rs := { x.rs with depth := v.toNat } }
             else if n = 0x22 then { x with rs := { x.rs with spilled := v.toNat } }
             else if n < 0x40 then { x with rs := { x.rs with hw := x.rs.hw.setIfInBounds (n - 0x30) (v.setWidth 56) } }
             else if n = 0x40 then { x with vec := { x.vec with vl := v.setWidth 14 } }
             else if n = 0x41 then { x with vec := { x.vec with vt := v.setWidth 16 } }
             else if n = 0x42 then { x with vec := { x.vec with vw2 := v.setWidth 3 } }
             else if n = 0x100 then { x with flags := v.setWidth 8 }
             else if n = 0x102 then { x with strip := v.setWidth 32, stripDone := v.setWidth 32 }
             else x.sysWrite (n - 0x100) v)) ∧
         (((x.st ≠ .faulted ∧ x.st ≠ .frozen) ∨ fixed ∨ ¬fits) → trap (.ctxwr d a b) 8 0)) ∧
       (n % 2 = 1 → trap (.resume a b) 7 1 ∧ trap (.thaw a b) 7 1) ∧
       (n % 2 = 0 → (x.st ≠ .faulted → trap (.resume a b) 8 1) ∧ (x.st ≠ .frozen → trap (.thaw a b) 8 1)) ∧
       (n % 2 = 0 → c ≠ s.cur →
         (x.st = .faulted → Answers (.resume a b) s (runsAt · (if n = 0 then x.fpc else (s.rx b).setWidth 56))) ∧
         (x.st = .frozen → Answers (.thaw a b) s (runsAt · (if n = 0 then x.fpc else (s.rx b).setWidth 56))))) ∧
     (good → 2 ≤ m.kind → m.kind ≤ 4 → n ≠ 0 → trap (.thaw a b) 7 1) ∧
     (good → n = 0 →
       ((m.kind = 2 ∧ x.engFrozen = false) ∨ (m.kind = 3 ∧ x.sendFrozen = false) ∨ (m.kind = 4 ∧ (s.pod m.unit).mxFrozen = false) →
         trap (.thaw a b) 8 1)) ∧
     (good → n = 0 → c ≠ s.cur →
       (m.kind = 2 → x.engFrozen = true → Answers (.thaw a b) s (fun t => (t.ctx c).engFrozen = false ∧ NextChain s t ∧ SameBytes s t ∧
         ∀ k e, k < 8 → e < 4 → (∃ q ∈ (s.die k).copyQueue e, q.owner = s.ownerOf c) → ⟨.copyCommandStart, .engine k e⟩ ∈ t.events)) ∧
       (m.kind = 3 → x.sendFrozen = true → Answers (.thaw a b) s (fun t => (t.ctx c).sendFrozen = false ∧ NextChain s t ∧ SameBytes s t ∧
         (x.wait = some (.reissue .sendFrozen) → (t.ctx c).st = .run ∧ (t.ctx c).pc = x.pc))) ∧
       (m.kind = 4 → (s.pod m.unit).mxFrozen = true → Answers (.thaw a b) s (fun t => (t.pod m.unit).mxFrozen = false ∧ SameBytes s t ∧
         ∀ op, (s.pod m.unit).running = none → (s.pod m.unit).armed = some op → s.mxHeld m.unit = false →
           (t.pod m.unit).running = some op ∧ (t.pod m.unit).armed = none)))) ∧
  (∀ (s t1 t2 : State) (dd : Nat) (d a : XReg) (r : FaultRec) (rest : List FaultRec) (l : Loc),
     let D := s.die (dieOf s.cur)
     let v := s.rx a
     let va := v.toNat / 64 * 64
     let bad := v.toNat / 2 % 32 ≠ 0 ∨ v.toNat / 2 ^ 56 ≠ 0
     (s.opd = .unit dd → firstRec (s.die dd).fbHeld = some r →
       ((s.die dd).fb.length < 1024 → Answers .faultRecordAccept s (fun t => (t.die dd).fb = (s.die dd).fb ++ [r] ∧
         (r.master.kind ≠ 4 → (t.die dd).fbHeld = (s.die dd).fbHeld.erase r ∧ SameBytes s t))) ∧
       (1024 ≤ (s.die dd).fb.length →
         ((s.die dd).fbNew = true → Answers .faultRecordAccept s (fun t => (t.die dd).fbOvf = true ∧
           t.mgmt.mgmtev.getLsbD 0 = true ∧ (t.die dd).fbHeld = (s.die dd).fbHeld ∧ (t.die dd).fb = (s.die dd).fb ∧ SameBytes s t)) ∧
         ((s.die dd).fbNew = false → Answers .faultRecordAccept s (fun t => t = s)))) ∧
     ((kindOf s.cur = .firmware ∨ kindOf s.cur = .keepFw) →
       (bad → Faults (.fbpop d a) s 0x01 (BitVec.ofNat 16 (7 + 16 * 227)) 0) ∧
       (¬bad → D.fb = [] →
         (v.getLsbD 0 = true → Answers (.fbpop d a) s (fun t => ParkedOn s t (.reissue (.fbpop (dieOf s.cur))))) ∧
         (v.getLsbD 0 = false → Answers (.fbpop d a) s (fun t => SetsX s t d 1))) ∧
       (¬bad → D.fb = r :: rest → dieOf s.cur ∈ s.cycle.popped → Held (.fbpop d a) s s) ∧
       (s.memWf → ¬bad → D.fb = r :: rest → dieOf s.cur ∉ s.cycle.popped → s.locate s.req 2 va = .ok (t1, l) → s.attr va ≠ 3 →
         (t1.claim true va l = .ok t2 → Answers (.fbpop d a) s (fun t => Result s t d 0 ∧ SetsBytes s t l 64 (ofBytes r.image) ∧
           (t.die (dieOf s.cur)).fb = rest)) ∧
         (t1.claim true va l = .error (.hold t2) → Held (.fbpop d a) s t2)) ∧
       (1 < v.toNat → Faults (.fbstat d a) s 0x01 (BitVec.ofNat 16 (7 + 16 * 227)) 0) ∧
       (v.toNat ≤ 1 → Answers (.fbstat d a) s (fun t =>
         Result s t d (BitVec.ofNat 64 (D.fb.length + 2 ^ 16 * D.fbOvf.toNat + 2 ^ 32 * (D.fbHeld.length % 2 ^ 10))) ∧
         (t.die (dieOf s.cur)).fbOvf = (if v.toNat = 1 then false else D.fbOvf) ∧ (t.die (dieOf s.cur)).fb = D.fb ∧ SameBytes s t))))

/-- R397 and R356: `KILL` of a user context that is bound: its firing is killed, after the kills before it, its state as it was
(R77), its takes are withdrawn, and its work for others is to end; of an idle one it traps `ILLEGAL` with reason 0x8. R399 and
R95: `PREEMPT` puts a context that runs, waits or has faulted in `SAVING`; of any other it tells the save area why not, or holds
the request, as it does of a killed one. The save is made once the vector queue has drained and the reply slots have settled,
and no fault of it waits: the context is idle and the firing stands in the table; or it is abandoned. R400 and R401: `CTXSAVE`
of a context that is neither faulted nor frozen answers 1, else 0; `CTXREST` answers the first reason of R401 for which the
firing saved in an area cannot be restored, or binds it into the context, its start to come. R398 and R400: what a save writes,
of a user context into an area of memory that `PDID` 0 reaches and that the host does not hold (R385): every field of layout
0x0001, and no byte outside it; then `STATUS` alone, and the firing's entry in the table: the area's address with `VALID`, the
queue number and the layout. That a full table counts saves under way, and the order of the reasons of `CTXREST`, are the
model's readings (log entries 75 and 76), when a killed context is `IDLE` (log entry 68), and what a pre-emption of one is told
(log entry 133). -/
def Obligations.KillPreemptSave : Prop :=
  (∀ (s : State) (a b : XReg) (c : CtxId) (v : Saving) (k : Nat) (f : Firing),
     let m := selOf (s.rx a)
     let area : VAddr := (s.rx b).setWidth 56
     let told (n : Nat) : Prop := Answers (.preempt a b) s (fun t => t.st = (s.fwWrite area.toNat 1 n).st ∧ t.ctx m.ctx = s.ctx m.ctx ∧
       t.me.x = s.me.x ∧ NextChain s t)
     ((kindOf s.cur = .firmware ∨ kindOf s.cur = .keepFw) → selOk (dieOf s.cur) (s.rx a) = true → m.kind = 0 → m.slot ≤ 7 →
       (s.rx b = 0 → (s.ctx m.ctx).st = .idle → Faults (.kill a b) s 0x01 (BitVec.ofNat 16 (8 + 16 * 225)) 0) ∧
       (s.rx b = 0 → (s.ctx m.ctx).st ≠ .idle → (s.ctx m.ctx).firing = some f → Answers (.kill a b) s (fun t =>
         (t.ctx m.ctx).st = (s.ctx m.ctx).st ∧ (∃ g, (t.ctx m.ctx).firing = some g ∧ g.killed = true ∧ g.fid = f.fid ∧ g.pkt = f.pkt) ∧
         .ctx m.ctx ∈ t.kills ∧ (∀ w ∈ s.kills, w ∈ t.kills) ∧ (∀ q ∈ t.takes, q.who ≠ m.ctx) ∧ ⟨.killComplete, .ctx m.ctx⟩ ∈ t.events)) ∧
       ((s.rx b).toNat % 256 = 0 →
         ((s.ctx m.ctx).killed = false → ((s.ctx m.ctx).st = .idle → told 3) ∧ ((s.ctx m.ctx).st = .frozen → told 2) ∧
           ((s.ctx m.ctx).st = .saving → told 4)) ∧
         ((s.ctx m.ctx).killed = true ∨ (s.ctx m.ctx).st = .binding ∨ (s.ctx m.ctx).st = .drain → Answers (.preempt a b) s (fun t =>
           t.preempts = s.preempts ++ [⟨m.ctx, area⟩] ∧ t.me.x = s.me.x ∧ NextChain s t ∧ SameBytes s t)) ∧
         ((s.ctx m.ctx).killed = false → (s.ctx m.ctx).st = .run ∨ (s.ctx m.ctx).st = .wait ∨ (s.ctx m.ctx).st = .faulted →
           (s.tableFull = true → told 5) ∧ (s.tableFull = false → s.layoutOk 1 = false → told 6) ∧
           (s.tableFull = false → s.layoutOk 1 = true → Answers (.preempt a b) s (fun t =>
             (t.ctx m.ctx).st = .saving ∧ (t.ctx m.ctx).x = (s.ctx m.ctx).x ∧
             (∃ y, (t.ctx m.ctx).saving = some y ∧ y.area = area ∧
               y.before = if (s.ctx m.ctx).st = .faulted then .faulted else .run) ∧
             ⟨.saveComplete, .ctx m.ctx⟩ ∈ t.events ∧ t.me.x = s.me.x ∧ NextChain s t ∧ SameBytes s t))))) ∧
     (s.opd = .ctx c → (s.ctx c).st = .saving → (s.ctx c).saving = some v →
       ((s.vqClear c = false ∨ (s.ctx c).slotsSettled = false ∨ (s.ctx c).late ≠ []) → Answers .saveComplete s (fun t => t = s)) ∧
       (s.vqClear c = true → (s.ctx c).slotsSettled = true → (s.ctx c).late = [] →
         (s.spillsReadable c = false → Answers .saveComplete s (fun t => (t.ctx c).st = v.before ∧ (t.ctx c).saving = none ∧
           t.st = (s.fwWrite v.area.toNat 1 8).st)) ∧
         (s.spillsReadable c = true → s.freeEntry = some k → (s.ctx c).firing = some f → Answers .saveComplete s (fun t =>
           (t.ctx c).st = .idle ∧ (t.ctx c).firing = none ∧
           (∃ e ∈ t.saved, e.area = v.area ∧ e.firing = f ∧ e.replySlots = (s.ctx c).replySlots) ∧
           t.st = (((s.saveImage c v.area (BitVec.ofNat 8 (if v.before = .faulted then 5 else v.before.code))).putEntry k v.area
             (s.ctx c).fid).areaStatus v.area 0).st))))) ∧
  (∀ (s : State) (d a b : XReg) (x : Saved) (k : Nat),
     let c := (selOf (s.rx a)).ctx
     let area : VAddr := (s.rx b).setWidth 56
     let e := s.savedEntry (s.rx b)
     (kindOf s.cur = .firmware ∨ kindOf s.cur = .keepFw) → selOk (dieOf s.cur) (s.rx a) = true → (selOf (s.rx a)).kind = 0 →
     (selOf (s.rx a)).slot ≤ 7 →
     ((s.rx b).toNat % 256 = 0 →
       ((s.ctx c).st ≠ .faulted → (s.ctx c).st ≠ .frozen → Answers (.ctxsave d a b) s (fun t => Result s t d 1 ∧ SameBytes s t)) ∧
       ((s.ctx c).st = .faulted ∨ (s.ctx c).st = .frozen → Answers (.ctxsave d a b) s (fun t => Result s t d 0 ∧ t.ctx c = s.ctx c ∧
         ∃ w : Byte, ((s.ctx c).st = .faulted → w = 5) ∧ t.st = ((s.saveImage c area w).areaStatus area 0).st))) ∧
     (e = none → Answers (.ctxrest d a b) s (fun t => Result s t d 1 ∧ SameBytes s t)) ∧
     (e = some (x, k) → s.restStatus c e ≠ 0 →
       Answers (.ctxrest d a b) s (fun t => Result s t d (BitVec.ofNat 64 (s.restStatus c e)) ∧ SameBytes s t)) ∧
     (e = some (x, k) → s.restStatus c e = 0 → Answers (.ctxrest d a b) s (fun t => Result s t d 0 ∧ (t.ctx c).st = .binding ∧
       (t.ctx c).firing = some x.firing ∧ (t.ctx c).replySlots = x.replySlots ∧ t.saved = s.saved.erase x ∧
       (t.ctx c).pdid = fidPdid x.firing.fid ∧ (t.ctx c).spillBase = s.spillOf (fidPdid x.firing.fid) c ∧
       ⟨.firingStart, .ctx c⟩ ∈ t.events ∧
       ∀ P, s.memWf → s.AreaAt x.area 0xC000 P → RestoredFrom (s.fieldAt P) (x.snap.bind (·.record)).isSome (t.ctx c) ∧
         ∀ j, j < 4096 → t.byteAt .staging (stagingOf c * 4096 + j) = BitVec.ofNat 8 (s.fieldAt P (0x840 + j) 1)))) ∧
  (∀ (s : State) (c : CtxId) (area : VAddr) (w : Byte) (P : Nat → Loc) (k : Nat) (l : Loc),
     let x := s.ctx c
     let n := 0xC000 + 8 * x.rs.spilled
     s.memWf →
     (area.toNat % 256 = 0 → s.AreaHeld area n P → x.vec.vhwm.toNat ≤ 1024 → s.spillsReadable c = true →
       let t := s.saveImage c area w
       let spill (j : Nat) : Nat := s.fwRead (x.spillAt j) 8
       SavedAs (t.fieldAt P) x w (fun j => s.byteAt .staging (stagingOf c * 4096 + j)) spill ∧
       HomeWrites s t ∧
       (∀ sp a, (∀ j, j < n → P j ≠ ⟨sp, a⟩) → t.byteAt sp a = s.byteAt sp a) ∧
       (∀ v, v < 256 → (t.areaStatus area v).fieldAt P 0 1 = v ∧
         ∀ sp a, P 0 ≠ ⟨sp, a⟩ → (t.areaStatus area v).byteAt sp a = t.byteAt sp a)) ∧
     (s.fwLoc (s.saveEntry k) = some l → s.hostWait l = none → s.hostWait (l.add 8) = none →
       (∀ u : State, HomeWrites s u → SameBytesBut l 8 s u → u.fwLoc (s.saveEntry k + 8) = some (l.add 8)) →
       SetsBytes s (s.putEntry k area x.fid) l 16
         (1 + area.toNat / 256 * 256 + 2 ^ 64 * (x.fid.toNat / 2 ^ 40 % 2 ^ 12 + 2 ^ 16))))

/-- R403, R238 and R243: an invalidation parks its context until it is complete, and then no PLB holds an entry that it names,
or no TLB a page of its range; a `TLBINV` waits for committed bundles with lines in the range, and for holders in other
packages, and then, where no request waits, no die of this package holds a line or a lease in the range, the directory names no
holder there, and what was dirty has been written back. R29 and R403: `IRQRAISE` raises a management event or a tenant vector:
an unmasked vector of a domain that is not `FREE`, whose entry has a translation, is written to the host, and a masked one is
pending; unmasking one that is pending writes it. R409: power. A state below `STOP` is set at once; `STOP` is set once the die
holds nothing that keeps it from stopping, and until then the context waits; a die in `STOP` that work reaches returns to `P3`;
the limiter slows the fastest die by one and raises event 3. R406: `ACTIVATE` holds while its activation begins, answers `BUSY`
beside another's, and else the status of its checks. The model's own readings: a die in `STOP` has released its leases (log
entry 107), an invalidation drops its entries when it completes (log entry 78), an activation takes two issues (log entry 79),
and a vector of a `FREE` domain, or without a translated entry, is not raised (log entries 23 and 24). -/
def Obligations.InvalidationPowerActivation : Prop :=
  (∀ (s : State) (a b : XReg) (c : CtxId) (w : Inval) (n : Nat) (pd : BitVec 12) (vec : BitVec 4) (l : Loc),
     let A := s.rx a
     let B := s.rx b
     let park (i : Instr) (w : Inval) : Prop := Answers i s (fun t => ParkedOn s t (.invalidate w s.ilen) ∧
       t.events = s.events ++ [⟨.invalidateComplete, .ctx s.cur⟩])
     let e (p v : Nat) : Nat := (s.domain p).ivtab.toNat + 16 * v
     let sent (p v : Nat) : HostOut := .write4 (BitVec.ofNat 64 (s.fwRead (e p v) 8)) (BitVec.ofNat 32 (s.fwRead (e p v + 8) 4))
     ((kindOf s.cur = .firmware ∨ kindOf s.cur = .keepFw) →
       park (.plbinv a b) (.plb (if A.getLsbD 63 then none else some (A.setWidth 12))
         (if B.getLsbD 0 then none else some (B.toNat % 2 ^ 56 / 2 ^ 21))) ∧
       ((A.toNat % 65536 ≠ 0 ∨ B.toNat % 65536 ≠ 0 ∨ B = 0) → Faults (.tlbinv a b) s 0x01 (BitVec.ofNat 16 (7 + 16 * 228)) 0) ∧
       (A.toNat % 65536 = 0 → B.toNat % 65536 = 0 → B ≠ 0 → park (.tlbinv a b) (.tlb A.toNat B.toNat)) ∧
       (A = BitVec.ofNat 64 (2 ^ 63) → B.toNat < 64 → Answers (.irqraise a b) s (fun t => t.mgmt.mgmtev.getLsbD B.toNat = true ∧
         t.me.x = s.me.x ∧ NextChain s t ∧ SameBytes s t)) ∧
       (A.toNat < 2 ^ 12 → B.toNat < 16 →
         ((s.domain A.toNat).state = 0 ∨ s.fwLoc (e A.toNat B.toNat) = none → Answers (.irqraise a b) s (fun t => OnlyPc s t ∧ NextChain s t)) ∧
         ((s.domain A.toNat).state ≠ 0 → s.fwLoc (e A.toNat B.toNat) = some l → s.fwRead (e A.toNat B.toNat + 12) 4 % 2 = 0 → Answers (.irqraise a b) s (fun t =>
           t.hostOut = s.hostOut ++ [sent A.toNat B.toNat] ∧ t.me.x = s.me.x ∧ NextChain s t ∧ SameBytes s t)) ∧
         ((s.domain A.toNat).state ≠ 0 → s.fwLoc (e A.toNat B.toNat) ≠ none → s.fwLoc (e A.toNat B.toNat + 12) = some l → s.fwRead (e A.toNat B.toNat + 12) 4 % 4 = 1 →
           Answers (.irqraise a b) s (fun t => (s.hostWait l = none → t.hostOut = s.hostOut) ∧
             t.st = (s.fwWrite (e A.toNat B.toNat + 12) 4 (s.fwRead (e A.toNat B.toNat + 12) 4 + 2)).st ∧ NextChain s t)) ∧
         ((s.domain A.toNat).state ≠ 0 → s.fwLoc (e A.toNat B.toNat) = some l → s.fwRead (e A.toNat B.toNat + 12) 4 % 4 = 3 →
           Answers (.irqraise a b) s (fun t => OnlyPc s t ∧ NextChain s t))) ∧
       ((A.toNat ≠ 2 ^ 63 ∧ (2 ^ 12 ≤ A.toNat ∨ 16 ≤ B.toNat) ∨ A.toNat = 2 ^ 63 ∧ 64 ≤ B.toNat) →
         Faults (.irqraise a b) s 0x01 (BitVec.ofNat 16 (7 + 16 * 229)) 0)) ∧
     (s.opd = .ctx c → (s.ctx c).st = .wait → (s.ctx c).wait = some (.invalidate w n) →
       (s.mayInvalidate w = false → Answers .invalidateComplete s (fun t => t = s)) ∧
       (s.mayInvalidate w = true → Answers .invalidateComplete s (fun t => (t.ctx c).st = .run ∧ (t.ctx c).wait = none ∧
         (t.ctx c).pc = (s.ctx c).pc + BitVec.ofNat 56 (2 * n) ∧
         (∀ p g, w = .plb p g → ∀ y ∈ t.cores, ∀ z ∈ y.2.plb, ¬((p = none ∨ p = some z.pdid) ∧ (g = none ∨ g = some z.seg))) ∧
         (∀ lo sz, w = .tlb lo sz → ∀ y ∈ t.dies, ∀ z ∈ y.2.tlb,
           ¬(lo ≤ s.pkg.toNat * 2 ^ 48 + z.page * 2 ^ 16 ∧ s.pkg.toNat * 2 ^ 48 + z.page * 2 ^ 16 < lo + sz)) ∧
         (∀ lo sz, w = .tlb lo sz → s.cohWait = [] →
           let inside (line : Nat) : Prop := lo ≤ line * 128 ∧ line * 128 < lo + sz
           SameBytes s t ∧ (∀ y ∈ t.dies, ∀ z ∈ y.2.l2 ++ y.2.rdc, ¬inside z.1) ∧
           (∀ h, h ∈ t.leases ↔ h ∈ s.leases ∧ ¬inside h.line) ∧
           (∀ e ∈ t.dir, inside e.line → e.sharers = []) ∧
           ∀ e, ¬inside e.line → (e ∈ t.dir ↔ e ∈ s.dir))))) ∧
     (s.opd = .vector pd vec →
       ((s.domain pd.toNat).state = 0 → Answers .interruptUnmask s (fun t => t = s)) ∧
       ((s.domain pd.toNat).state ≠ 0 → (∀ k, s.fwLoc (e pd.toNat vec.toNat + 12) = some k → s.hostWait k = none) →
         Answers .interruptUnmask s (fun t =>
         let ctl := s.fwRead (e pd.toNat vec.toNat + 12) 4
         t.st = (s.fwWrite (e pd.toNat vec.toNat + 12) 4 (ctl / 4 * 4)).st ∧
         (ctl / 2 % 2 = 0 → t.hostOut = s.hostOut) ∧
         (ctl / 2 % 2 = 1 → t.hostOut = s.hostOut ++ [.write4 (BitVec.ofNat 64 (t.fwRead (e pd.toNat vec.toNat) 8))
           (BitVec.ofNat 32 (t.fwRead (e pd.toNat vec.toNat + 8) 4))]))))) ∧
  (∀ (s u : State) (d a b : XReg) (k v : Nat) (c : CtxId),
     let dd := (s.rx a).toNat
     let p := (s.rx b).toNat
     ((kindOf s.cur = .firmware ∨ kindOf s.cur = .keepFw) → s.me.st = .run → (∀ w ∈ s.waiters, w.1 ≠ s.cur) →
       ((7 < dd ∨ 4 < p) → Faults (.pwrset a b) s 0x01 (BitVec.ofNat 16 (7 + 16 * 230)) 0) ∧
       (dd ≤ 7 → p < 4 → Answers (.pwrset a b) s (fun t => (t.die dd).power = p ∧ t.me.x = s.me.x ∧ NextChain s t ∧ SameBytes s t)) ∧
       (dd ≤ 7 → p = 4 → s.mayStop dd = true → Answers (.pwrset a b) s (fun t => (t.die dd).power = 4 ∧ t.me.st = .run ∧
         t.me.x = s.me.x ∧ NextChain s t ∧ SameBytes s t)) ∧
       (dd ≤ 7 → p = 4 → s.mayStop dd = false → Answers (.pwrset a b) s (fun t => ParkedOn s t (.powerStop dd s.ilen) ∧
         (t.die dd).power = (s.die dd).power ∧ (t.die dd).stopPend = true)) ∧
       (p % 8 ≠ 0 → Faults (.activate d a b) s 0x01 (BitVec.ofNat 16 (7 + 16 * 231)) 0) ∧
       (p % 8 = 0 →
         (s.mgmt.activating = none → Held (.activate d a b) s (s.setActivating (some s.cur))) ∧
         (s.mgmt.activating = some c → c ≠ s.cur → Answers (.activate d a b) s (fun t => SetsX s t d 5)) ∧
         (s.mgmt.activating = some s.cur → s.activateAt s.req dd (p % 2 ^ 56) (some s.cur) = .ok (u, v) →
           Answers (.activate d a b) s (fun t => Result s t d (BitVec.ofNat 64 v) ∧ t.mgmt.activating = none ∧ t.st = u.st)))) ∧
     (s.opd = .unit k → ((s.die k).power = 4 → Answers .stopWake s (fun t => (t.die k).power = 3 ∧ SameBytes s t)) ∧
       ((s.die k).power ≠ 4 → Answers .stopWake s (fun t => t = s))) ∧
     Answers .powerLimiterAction s (fun t => t.mgmt.mgmtev.getLsbD 3 = true ∧ SameBytes s t ∧
       ∀ f, s.fastest = some f → (t.die f).power = (s.die f).power + 1 ∧ ∀ j, j < 8 → (s.die f).power ≤ (s.die j).power))

/-- R87, R89, R90, R91 and R92: the firmware credit of a side grows by `SHARE.SLOTS` up to 64 in a cycle of 64; the oldest entry
that has not started starts, and the oldest that has leaves; a memory operation that is confirmed has no effect of its own, one
without a translation faults at its instruction, and what its context issued after it is discarded, but a killed context takes
no fault; a load that performs gets its bytes and a store leaves its own. R10, R100 and R409: with nothing pending and no unit's
turn left, a cycle passes: each die's clock, at the frequency of its power state, and each switch die's, at 2.0 GHz, comes
nearer its next cycle by one step of 1 / 2.7 GHz, and where it comes to one `DCYC` or the switch cycle goes up by one; the units
that then have their turns are those that hold a context in `RUN`. Those whose firmware kills have theirs first (R78); then what
falls due happens and contexts are bound (R70), one candidate after another; then the other units have theirs. What one cycle
is, and that latencies without a number are not counted in it, is the model's choice (log entries 12, 13 and 66); so is the
operand of the confirming and the performing of an access (log entry 95). -/
def Obligations.UnitsAndCycles : Prop :=
  (∀ (s u u2 : State) (core : Nat) (sd : Bool) (e : VqEntry) (c : CtxId) (op : MemOp) (l : Loc) (x : Nat),
     let y := s.side core sd
     let f := s.focus c
     let va := op.va.toNat
     (s.opd = .side core sd →
       ((s.die (core / 96)).dcyc.toNat % 64 = 0 → Answers .firmwareCreditRefill s (fun t =>
         (t.side core sd).credit = min 64 (y.credit + (s.core core).share.toNat) ∧ SameBytes s t)) ∧
       ((s.die (core / 96)).dcyc.toNat % 64 ≠ 0 → Answers .firmwareCreditRefill s (fun t => t = s)) ∧
       Answers .vqEntryStart s (fun t => SameBytes s t ∧ (t.side core sd).vq.length = y.vq.length ∧
         ∀ (i : Nat) (q : VqEntry), y.vq[i]? = some q → (∀ j r, j < i → y.vq[j]? = some r → r.started = true) →
           (t.side core sd).vq[i]? = some { q with started := true }) ∧
       (y.vq.find? (·.started) = none → Answers .vqEntryLeave s (fun t => t = s)) ∧
       (y.vq.find? (·.started) = some e → Answers .vqEntryLeave s (fun t => (t.side core sd).vq = y.vq.erase e ∧ SameBytes s t))) ∧
     (s.opd = .ctxOp c op → (s.ctx c).st = .run ∨ (s.ctx c).st = .drain ∨ (s.ctx c).st = .saving →
       ((s.ctx c).killed = true → Answers .memoryConfirm s (fun t => t = s)) ∧
       (f.locate (f.accReq op.acc) (accNeed op.acc) va = .ok (u, l) →
         ((s.ctx c).killed = false → op ∉ (s.ctx c).late →
           Answers .memoryConfirm s (fun t => t.cur = c ∧ t.me = s.ctx c ∧ SameBytes s t)) ∧
         (op.acc = .load → s.attr va ≠ 3 → u.claim false va l = .ok u2 → Answers .accessPerformed s (fun t => t.cur = c ∧ SameBytes s t ∧
           (∀ r, r ≠ op.reg → xGet t.me.x r = xGet (s.ctx c).x r) ∧
           xGet t.me.x op.reg = (if op.reg = 0 then xGet (s.ctx c).x 0
             else loadExt op.signed op.size (ofBytes (s.st.getSeen s.free pCore (s.ctx c).paths l op.size))))) ∧
         (s.memWf → op.acc = .store → s.attr va ≠ 3 → u.claim true va l = .ok u2 → Answers .accessPerformed s (fun t => t.cur = c ∧
           SetsBytes s t l op.size op.data.toNat ∧ t.me.x = (s.ctx c).x))) ∧
       (f.locate (f.accReq op.acc) (accNeed op.acc) va = .error (.xlate x) → accByEngine op.acc = false →
         (s.recordHeld c = false → (s.ctx c).killed = false → op ∉ (s.ctx c).late → Answers .memoryConfirm s (fun t => t.cur = c ∧ t.me.causeCode = accCause op.acc ∧
           t.me.faddr = BitVec.ofNat 64 va ∧ t.me.fpc = op.fpc ∧ t.me.pc = op.fpc ∧
           t.me.x = op.later.xs.foldl (fun a p => xSet a p.1 p.2) (s.ctx c).x ∧
           t.me.flags = op.later.flags.getD (s.ctx c).flags ∧ SameBytes s t)) ∧
         Answers .accessPerformed s (fun t => t = s)))) ∧
  (∀ (s : State) (tried : List Happening), s.events = [] →
   let runs (t : State) (l : List CtxId) : Prop := ∀ c ∈ l, ∃ p ∈ t.allCtx, p.2.st = .run ∧ c = { p.1 with slot := 0 }
   (s.cycle.early = some [] → ∃ t, step s = .next t ∧ t.cycle.early = none ∧ t.cycle.bind = some [] ∧ runs t t.todo ∧
     (∀ c ∈ t.todo, c ∉ s.cycle.turned) ∧ ∀ d, d < 8 → (t.die d).phase = (s.die d).phase ∧ (t.die d).dcyc = (s.die d).dcyc) ∧
   (s.cycle.early = none → s.cycle.bind = some tried →
     (∀ h, s.nextBind tried = some h → h ∉ tried ∧
       step s = exec h.i { s with cycle := { s.cycle with bind := some (h :: tried) }, opd := h.opd, free := s.free + 1 }) ∧
     (s.nextBind tried = none → step s = .next { s with cycle := { s.cycle with bind := none } })) ∧
   (s.cycle.early = none → s.cycle.bind = none → s.todo = [] → ∃ t, step s = .next t ∧
     t.cycle.turned = [] ∧ runs t t.todo ∧
     (t.cycle.early = none → t.cycle.bind = some []) ∧ (∀ l, t.cycle.early = some l → l ≠ [] ∧ t.todo = [] ∧ runs t l) ∧
     (∀ d, d < 8 →
       let f := [27, 22, 16, 10].getD (s.die d).power 0
       let p := (s.die d).phase + f
       let q := if 27 ≤ p then p - 27 else p
       (t.die d).phase = q ∧ (t.die d).dcyc = (s.die d).dcyc + (if q < f then 1 else 0)) ∧
     (∀ d, let p := (s.sd d).phase + 20
       let q := if 27 ≤ p then p - 27 else p
       (t.sd d).cyc = (s.sd d).cyc + (if (s.sd d).lost = false ∧ q < 20 then 1 else 0))))

/-! ## Coherence with the other packages, the switch dies and the host -/

/-- R370, R371, R375 and R378: a request for a line of this package is granted in one step where nothing stands against it: a
write into `X`; a read into `X` where the region is in `X` already, or is `U` and the reader asks to own it, and else into `S`;
with a lease end for its agent, whose own count began when it asked. It waits behind a request for its region that waits, and
while `SDROLL` works on the region. Where other agents' holdings stand against it they are recalled, and it is granted once they
have answered. A holder that answers a recall for another's ownership is in the entry no more, and the request that waited is
granted; one that answers a recall for reading keeps the region for reading, and one that answers a checkpoint has written back.
R374, R375, R372, R380: the lives of leases. A renewal starts both counts again for an agent that is in the entry and whose
lease end has not passed (R387), and not for a package that cannot be reached (R382), and of a die of another package the count
of this one; a release leaves the entry; at a holder's own expiry its copies are dropped and what was dirty reads as it was last
written back. At the switch's lease end a read lease lapses without a mark, and a write lease reverts, flags the region `LAPSE`,
is recorded with its reason and the interval of the agent's last renewal, and raises event 2. Two siblings that agree merge, and
a `REBUILD` flag clears when its lease ends have passed. That the requests of other packages come as steps, and when dirty bytes
revert, are the model's choices (log entries 16 and 17), as are the count of a merged lease (log entry 18), a holder's silence
(log entry 101) and a full directory that is split (log entry 102); a reading die asks to own, and the last quarter is the one
just past, by its reading (log entries 103 and 105). -/
def Obligations.DirectoryAndLeases : Prop :=
  (∀ (s : State) (agent q left2 : Nat) (va : VAddr) (want want2 : Want) (own : Bool) (e : DirEntry),
     let line := va.toNat / 128
     let sole := s.entry line = some e ∧ ∀ x ∈ s.dir, x = e ∨ overlap x.line x.lg e.line e.lg = false
     let r : CohReq := ⟨agent, line, want, s.holderCycles (agent % 8) line⟩
     let after (d : DirState) : DirState := if want = .write ∨ d = .x ∨ want = .readOwn ∧ d = .u then .x else .s
     let granted (d : DirState) (t : State) : Prop := SameBytes s t ∧ t.cohWait = s.cohWait ∧ ∃ x, t.entry line = some x ∧ agent ∈ x.sharers ∧
       (∃ n, x.endOf agent = some n ∧ s.cycOf line + s.switchCycles line ≤ n) ∧
       (s.localAgent agent = true → ∃ h ∈ t.leases, h.agent = agent ∧ h.line = x.line ∧ h.lg = x.lg ∧
         h.left = s.holderCycles (agent % 8) line ∧ (x.st = .x → h.own = true)) ∧ x.st = after d
     let waits := s.cohWait.any (fun p => p.agent == agent && p.line == line && p.want == want) = true
     let answering (a : Nat) : Prop := s.localAgent a = true ∧ ∀ h ∈ s.leases, h.agent = a → h.mute = false ∧
       ∀ k : Nat, Config.pick s.free (16 * (4096 * k + a) + 7) = false
     (s.opd = .request agent va want →
       (s.tracked line = true → waits → Answers .coherenceRequest s (fun t => t = s)) ∧
       (s.tracked line = true → ¬waits → (s.behind line = true ∨ s.rolling line = true) → Answers .coherenceRequest s (fun t =>
         t = { s with cohWait := s.cohWait ++ [r] })) ∧
       (s.tracked line = true → ¬waits → s.behind line = false → s.rolling line = false →
         (s.entry line = none → (s.entriesOf (s.tracker line)).length < 2 ^ 20 → Answers .coherenceRequest s (granted .u)) ∧
         (sole → e.clashes agent (want == .write) = false → Answers .coherenceRequest s (granted e.st)) ∧
         (sole → e.clashes agent (want == .write) = true → Answers .coherenceRequest s (fun t => SameBytes s t ∧
           (r ∈ t.cohWait ∨ ∃ x, t.entry line = some x ∧ agent ∈ x.sharers))) ∧
         (sole → e.clashes agent (want == .write) = true → (s.entriesOf (s.tracker line)).length + 16 ≤ 2 ^ 20 →
           (∀ a ∈ e.sharers, a ≠ agent → answering a) → Answers .coherenceRequest s (fun t =>
           SameBytes s t ∧ t.cohWait = s.cohWait ∧ ∃ x, t.entry line = some x ∧ agent ∈ x.sharers ∧ x.lg ≤ e.lg ∧
             (want = .write → x.st = .x ∧ ∀ k ∈ x.sharers, k = agent) ∧ (want ≠ .write → x.st = .s))))) ∧
     (s.opd = .line agent va own → sole →
       (agent ∉ e.sharers → Answers .recallAcknowledge s (fun t => t = s)) ∧
       (agent ∈ e.sharers → own = true → s.cohWait = [] → Answers .recallAcknowledge s (fun t => SameBytes s t ∧
         (∀ h ∈ t.leases, h.agent = agent → h.covers line = false) ∧
         ∃ x, t.entry line = some x ∧ agent ∉ x.sharers ∧ ((∀ k ∈ e.sharers, k = agent) → x.st = .u ∧ x.coarse = none))) ∧
       (e.sharers = [agent] → own = true → q ≠ agent → s.cohWait = [⟨q, line, want2, left2⟩] → s.rolling line = false →
         Answers .recallAcknowledge s (fun t => SameBytes s t ∧ t.cohWait = [] ∧
           ∃ x, t.entry line = some x ∧ x.sharers = [q] ∧ x.st = (if want2 = .read then .s else .x))) ∧
       (agent ∈ e.sharers → own = false → s.owesCkpt agent e.line = true → Answers .recallAcknowledge s (fun t =>
         SameBytes s t ∧ t = { s with ckptOwed := t.ckptOwed, leases := t.leases, dies := t.dies } ∧ t.owesCkpt agent e.line = false ∧
         ∀ h ∈ t.leases, h.agent = agent → h.covers e.line = true → h.dirty = [])) ∧
       (agent ∈ e.sharers → own = false → s.owesCkpt agent e.line = false → s.cohWait = [] → Answers .recallAcknowledge s (fun t =>
         SameBytes s t ∧ (∀ h ∈ t.leases, h.agent = agent → h.covers line = true → h.own = false ∧ h.dirty = []) ∧
         ∃ x, t.entry line = some x ∧ x.sharers = e.sharers ∧ x.st = (if e.st = .x then .s else e.st))))) ∧
  (∀ (s : State) (agent n : Nat) (va : VAddr) (sd : Bool) (h : HolderLease) (e a b : DirEntry),
     let line := va.toNat / 128
     let sole := s.entry line = some e ∧ ∀ x ∈ s.dir, x = e ∨ overlap x.line x.lg e.line e.lg = false
     let whole := s.holderCycles (agent % 8) line
     let renewed := { h with left := whole, total := whole, usedAt := whole + (h.usedAt - h.left) }
     let putBack (t : State) (h : HolderLease) : Prop :=
       (∀ sp k, (∀ d ∈ h.dirty, d.1 ≠ ⟨sp, k⟩) → t.byteAt sp k = s.byteAt sp k) ∧
       ((h.dirty.map (·.1)).Nodup → ∀ d ∈ h.dirty, t.byteAt d.1.sp d.1.a = d.2)
     (s.opd = .lease agent va → s.localAgent agent = false → sole →
       ((agent ∉ e.sharers ∨ s.rolling line = true ∨ ∃ k, e.endOf agent = some k ∧ k ≤ s.cycOf line) →
         Answers .leaseRenewal s (fun t => t = s)) ∧
       (agent ∈ e.sharers → s.rolling line = false → (∀ k, e.endOf agent = some k → s.cycOf line < k) → e.coarse = none →
         e.sharers.length ≤ 4 → Answers .leaseRenewal s (fun t => t = { s with dir := t.dir } ∧
           ∃ x, t.entry line = some x ∧ x.sharers = e.sharers ∧ x.endOf agent = some (s.cycOf line + s.switchCycles line))) ∧
       (agent ∈ e.sharers → s.cohWait = [] → Answers .leaseRelease s (fun t => SameBytes s t ∧
         ∃ x, t.entry line = some x ∧ agent ∉ x.sharers))) ∧
     (s.opd = .lease agent va → s.localAgent agent = true → s.leaseOf agent line = some h →
       ((h.dueRenew = false ∨ s.rolling line = true) → Answers .leaseRenewal s (fun t => t = s)) ∧
       (h.dueRenew = true → s.rolling line = false →
         (s.tracked line = false →
           (BitVec.ofNat 8 (linePkg line) ∈ s.peers → Answers .leaseRenewal s (fun t => renewed ∈ t.leases ∧ t = { s with leases := t.leases })) ∧
           (BitVec.ofNat 8 (linePkg line) ∉ s.peers → Answers .leaseRenewal s (fun t => t = s))) ∧
         (s.tracked line = true → sole →
           ((agent ∉ e.sharers ∨ ∃ k, e.endOf agent = some k ∧ k ≤ s.cycOf line) → Answers .leaseRenewal s (fun t => t = s)) ∧
           (agent ∈ e.sharers → (∀ k, e.endOf agent = some k → s.cycOf line < k) → e.coarse = none → e.sharers.length ≤ 4 →
             Answers .leaseRenewal s (fun t => SameBytes s t ∧ renewed ∈ t.leases ∧
               ∃ x, t.entry line = some x ∧ x.sharers = e.sharers ∧ x.endOf agent = some (s.cycOf line + s.switchCycles line))))) ∧
       (sole → s.cohWait = [] → Answers .leaseRelease s (fun t => SameBytes s t ∧
         (∀ x ∈ t.leases, x.agent = agent → x.covers line = false) ∧ ∃ x, t.entry line = some x ∧ agent ∉ x.sharers)) ∧
       (h.left ≠ 0 → Answers .holderLeaseExpiry s (fun t => t = s)) ∧
       (s.memWf → h.left = 0 → Answers .holderLeaseExpiry s (fun t => putBack t h ∧
         ∀ x ∈ t.leases, x.agent = agent → x.covers line = false))) ∧
     (s.opd = .lease agent va → sole → e.endOf agent = some n →
       (s.cycOf line < n → Answers .switchLeaseExpiry s (fun t => t = s)) ∧
       (n ≤ s.cycOf line → e.st ≠ .x → s.cohWait = [] → Answers .switchLeaseExpiry s (fun t => SameBytes s t ∧ t.mgmt = s.mgmt ∧
         ∃ x, t.entry line = some x ∧ agent ∉ x.sharers ∧ x.flag = e.flag ∧ (e.coarse ≠ none → x.sharers = [] ∧ x.st = .u))) ∧
       (n ≤ s.cycOf line → e.st = .x → Answers .switchLeaseExpiry s (fun t => t.mgmt.mgmtev.getLsbD 2 = true ∧
         (s.cohWait = [] → ∃ x, t.entry line = some x ∧ x.flag = .lapse) ∧
         (∃ p ∈ (t.sd (s.tracker e.line)).lapses, p.agent = agent ∧ p.line = e.line ∧ p.lg = e.lg ∧
           (∀ y, e.ends.find? (fun y => y.agent == agent) = some y → p.interval = y.interval) ∧
           ((∃ w ∈ s.cohWait, e.covers w.line = true) → p.reason = .recalled) ∧
           (s.cohWait = [] → s.owesCkpt agent e.line = true → p.reason = .checkpoint) ∧
           (s.cohWait = [] → s.ckptOwed = none → (s.entriesOf (s.tracker e.line)).length < 2 ^ 20 → p.reason = .ended)) ∧
         (s.leaseOf agent e.line = none → SameBytes s t) ∧
         (s.memWf → ∀ k, s.leaseOf agent e.line = some k → putBack t k)))) ∧
     (s.opd = .region sd va →
       Answers .rebuildFlagClear s (fun t => SameBytes s t ∧ t.leases = s.leases ∧
         ∀ x ∈ t.dir, x.covers line = true → x.flagEnd ≤ s.cycOf line → x.flag ≠ .rebuild) ∧
       (s.dir.find? (fun x => x.line == line) = some a → s.dir.find? (fun x => x.line == line + 2 ^ a.lg) = some b →
         (s.mayMerge a b = false → Answers .regionMerge s (fun t => t = s)) ∧
         (s.mayMerge a b = true → Answers .regionMerge s (fun t => SameBytes s t ∧
           (∃ x ∈ t.dir, x.line = line ∧ x.lg = a.lg + 1 ∧ x.st = a.st ∧ x.sharers = a.sharers) ∧
           ∀ x ∈ t.dir, x.line ≠ line + 2 ^ a.lg)))))

/-- R377 and R378: an interval ends with every dirty line written back and the next interval open on both switch dies, and
entries of the undo log older than `KEEP` intervals go; while a holder has not acknowledged its write-back, the interval stays
open and the holder is owed. `SDROLL` clears a region's flag, or rolls a region back, after which nothing holds it, its flag is
clear and a line whose log has an entry newer than the interval asked for holds that entry's bytes; a `BACK` of 0 or beyond the
log, and an address that is no region's base, are refused and set `ERR`. R380, R382, R342, R11, R12: what is lost. The loss of a
switch die leaves the survivor to serve its half of the addresses, every entry of which it has rebuilt of the holders that are
reported, flagged `REBUILD` with fresh lease ends but for a `LAPSE` flag that stands, and with `SD0` the host link and the
leases on host-homed lines go; the loss of the other as well stops the package, as no rule describes it. A peer that is lost is
no longer reached, and no gather waits for it. A port that fails carries no more; the host link comes up at a rate and width
that R11 allows, and without CXL nothing of the host's is held, tracked or asked for; a link's replay changes nothing. Which
holders delay a boundary, and what a rebuilt directory holds, are the model's readings (log entries 82 and 83), as is what plain
PCIe and the loss of `SD0` leave of the host's lines (log entries 106 and 122); whether a holder is silent is free (log entry
101). -/
def Obligations.CheckpointsAndLosses : Prop :=
  (∀ (s : State) (sd : Bool) (base : VAddr) (back : BitVec 3) (e : DirEntry) (u : Undo) (pa : Nat),
     let line := base.toNat / 128
     let main := if s.sd0.lost = true then s.sd1 else s.sd0
     let cur := main.cur.toNat
     let target := cur - back.toNat
     let bad := back = 0 ∨ cur < back.toNat ∨ target < s.st.dram.from_
     let ended (t : State) (err : Bool) : Prop := (t.sd sd).busy = false ∧ (t.sd sd).err = ((s.sd sd).err || err)
     let refused (t : State) : Prop := ended t true ∧ SameBytes s t ∧ (s.cohWait = [] → t.dir = s.dir ∧ t.leases = s.leases)
     let opened (t : State) : Prop := SameBytes s t ∧ t.sd0.cur = main.cur + 1 ∧ t.sd1.cur = main.cur + 1 ∧ t.ckptOwed = none ∧
       ∀ x, x ∈ t.st.dram.log ↔ x ∈ s.st.dram.log ∧ (main.cur + 1).toNat - main.keep.toNat ≤ x.interval
     (s.ckptOwed = none →
       (∀ x ∈ s.dir, x.st = .x → ∀ a ∈ x.sharers, s.localAgent a = true ∧ ((∀ k, s.silent a k = false) ∨ ∀ h ∈ s.leases, h.agent ≠ a)) →
         Answers .checkpointBoundary s (fun t => opened t ∧ ∀ x ∈ s.dir, x.st = .x → s.entry x.line = some x → ∀ a ∈ x.sharers,
           ∀ h ∈ t.leases, h.agent = a → h.covers x.line = true → h.dirty = [])) ∧
     (s.ckptOwed = none → ∀ x ∈ s.dir, x.st = .x → s.entry x.line = some x → ∀ a ∈ x.sharers, s.localAgent a = false →
       Answers .checkpointBoundary s (fun t => SameBytes s t ∧ t.sd0.cur = s.sd0.cur ∧ t.st.dram.log = s.st.dram.log ∧
         t.owesCkpt a x.line = true)) ∧
     (s.ckptOwed = some [] → Answers .checkpointBoundary s opened) ∧
     (s.opd = .region sd base →
       ((∀ x ∈ s.dir, x.line ≠ line) → Answers .sdrollClearFlag s refused) ∧
       ((∃ x ∈ s.dir, x.line = line) → s.cohWait = [] → Answers .sdrollClearFlag s (fun t => ended t false ∧ SameBytes s t ∧
         t.leases = s.leases ∧ ∀ x ∈ t.dir, x.line = line → x.flag = .none))) ∧
     (s.opd = .rollback sd base back →
       ((∀ x ∈ s.dir, x.line ≠ line) → Answers .sdrollRollback s refused) ∧
       (s.dir.find? (fun x => x.line == line) = some e → bad → Answers .sdrollRollback s refused) ∧
       (s.dir.find? (fun x => x.line == line) = some e → ¬bad → s.cohWait = [] → Answers .sdrollRollback s (fun t => ended t false ∧
         (∀ h ∈ t.leases, overlap h.line h.lg e.line e.lg = false) ∧
         (∃ x, t.dir.find? (fun x => x.line == line) = some x ∧ x.lg = e.lg ∧ x.st = .u ∧ x.sharers = [] ∧ x.flag = .none) ∧
         (s.memWf → s.leases = [] → e.lg = 0 → s.fwLoc (line * 128) = some ⟨.dram, 128 * pa⟩ →
           s.st.dram.log.find? (fun x => x.line == pa && decide (target ≤ x.interval)) = some u → u.bytes.length = 128 →
           ∀ k, k < 128 → t.byteAt .dram (128 * pa + k) = u.bytes.getD k 0))))) ∧
  (∀ (s : State) (d : Bool) (p : BitVec 8) (sdk : Bool) (k : BitVec 3) (rate width : Nat) (cxl : Bool),
     (s.opd = .sdie d →
       ((s.sd d).lost = true → Answers .switchDieLost s (fun t => t = s)) ∧
       ((s.sd d).lost = false → (s.sd (!d)).lost = true → exec .switchDieLost s = .fault .noSwitchDie) ∧
       ((s.sd d).lost = false → (s.sd (!d)).lost = false → Answers .switchDieLost s (fun t => (s.hostWrites = [] → SameBytes s t) ∧
         (t.sd d).lost = true ∧ (t.sd (!d)).lost = false ∧ (t.sd (!d)).takeover = true ∧
         (s.cohWait = [] →
           (∀ e ∈ s.dir, s.tracker e.line ≠ d → e ∈ t.dir) ∧
           ∀ x ∈ t.dir, (x ∈ s.dir ∧ s.tracker x.line ≠ d) ∨ ∃ e ∈ s.dir, s.tracker e.line = d ∧ x.line = e.line ∧ x.lg = e.lg ∧
             x.sharers = e.sharers.filter (s.reports e) ∧ (e.flag = .lapse → x.flag = .lapse) ∧
             (e.flag ≠ .lapse → x.flag = .rebuild ∧ x.st = e.st ∧ x.sharers ≠ [] ∧
               x.flagEnd = (s.sd (!d)).cyc + s.switchCycles e.line)) ∧
         (d = false → t.link.rate = 0 ∧ (s.cohWait = [] → ∀ h ∈ t.leases, s.hostLine h.line = false))))) ∧
     (s.opd = .pkg p → Answers .peerLost s (fun t => SameBytes s t ∧ (∀ q, q ∈ t.peers ↔ q ∈ s.peers ∧ q ≠ p) ∧
       ∀ c x l n, (c, x) ∈ s.allCtx → x.wait = some (.gather l n) → p ∈ l → (t.ctx c).wait = none)) ∧
     (s.opd = .port sdk k → Answers .berperLinkLoss s (fun t => SameBytes s t ∧
       (∀ j, (t.sd sdk).ports.getLsbD j = ((s.sd sdk).ports.getLsbD j && decide (j ≠ k.toNat))) ∧
       (t.sd (!sdk)).ports = (s.sd (!sdk)).ports)) ∧
     (s.opd = .link rate width cxl →
       let ok := s.sd0.lost = false ∧ 1 ≤ rate ∧ rate ≤ 6 ∧ (width = 16 ∨ width = 8 ∨ width = 4 ∨ width = 1)
       (ok → Answers .linkTraining s (fun t => t.link = ⟨rate, width, cxl && rate == 6⟩ ∧ (s.hostWrites = [] → SameBytes s t) ∧
         (t.link.cxl = true → t = { s with link := t.link }) ∧
         (t.link.cxl = false → t.hostHeld = [] ∧ t.hostCopies = [] ∧ (∀ h ∈ t.leases, s.hostLine h.line = false) ∧
           (∀ x ∈ t.dir, s.hostLine x.line = false) ∧ ∀ x ∈ t.cohWait, s.hostLine x.line = false))) ∧
       (¬ok → Answers .linkTraining s (fun t => t = s))) ∧
     Answers .linkReplay s (fun t => t = s))

/-- R234, R324, R384 and R385: the host's accesses. Through BAR 4, and through CXL.mem while CXL is in use, a write sets its
bytes of physical memory and a read is answered with them, once the lines have been taken back from device holders, and until
then it waits, as does what the host asks after it; above 192 GiB a write is discarded and a read is answered with 0. A snoop of
a host-homed line is answered with the line's bytes once its holders have given it up; an answer to a back-invalidate leaves the
host no line of the region that was snooped, and a write of the device's own that waited for it is made. That CXL.mem above 192
GiB is answered as BAR 4 is is the model's reading (log entry 21), as is when `SD0` holds a line of the host's (log entry 19).
-/
def Obligations.HostAccesses : Prop :=  ∀ (s : State) (a : HostAccess) (v : Word) (line : VAddr) (own : Bool) (hpa : Nat) (e : DirEntry),
    let n := min a.size 8
    let top := 192 * 2 ^ 30
    let k := line.toNat / 128
    let first := s.takePhys (a.pa / 128) a.write.isSome
    let last := first.1.takePhys ((a.pa + n - 1) / 128) a.write.isSome
    let asked (i : Instr) : HostReq := .access (if i = .hostBar4Access then { a with caching := false } else a)
    (s.opd = .host a → s.sd0.lost = false → ∀ i ∈ [Instr.hostBar4Access, .hostMemAccess], (i = .hostMemAccess → s.link.cxl = true) →
      (s.hostPend ≠ [] → Answers i s (fun t => t = { s with hostPend := s.hostPend ++ [asked i] })) ∧
      (s.hostPend = [] → a.pa + n ≤ top → first.2 = true → last.2 = true →
        (∀ v, s.memWf → a.write = some v → Answers i s (fun t => SetsBytes s t ⟨.dram, a.pa⟩ n v.toNat ∧ t.hostOut = s.hostOut)) ∧
        (a.write = none → Answers i s (fun t => SameBytes s t ∧
          t.hostOut = s.hostOut ++ [.read (BitVec.ofNat 64 (ofBytes (s.st.dram.bytes.readN a.pa n)))]))) ∧
      (s.hostPend = [] → a.pa + n ≤ top → (first.2 = false ∨ last.2 = false) → Answers i s (fun t => SameBytes s t ∧
        t.hostPend = [asked i] ∧ t.hostOut = s.hostOut)) ∧
      (s.hostPend = [] → a.write = some v → top < a.pa + n → Answers i s (fun t => t = s)) ∧
      (s.hostPend = [] → a.write = none → top < a.pa + n → Answers i s (fun t => t = { s with hostOut := s.hostOut ++ [.read 0] }))) ∧
    (s.opd = .host a → s.link.cxl = false → Answers .hostMemAccess s (fun t => t = s)) ∧
    (s.opd = .snoop line own → s.region line.toNat = .host hpa →
      (s.link.cxl = false → Answers .hostSnoop s (fun t => t = s)) ∧
      (s.link.cxl = true → s.sd0.lost = false → s.hostPend = [] →
        ((s.takeHome k own).2 = true → Answers .hostSnoop s (fun t => SameBytes s t ∧
          t.hostOut = s.hostOut ++ [.snoopAnswer line (s.st.host.readN (hpa / 128 * 128) 128)] ∧
          (own = true → ∀ c ∈ t.hostCopies, c.1 ≠ k) ∧ (own = false → ∀ c ∈ t.hostCopies, c.1 = k → c.2 = false) ∧
          (s.entry k = some e → (∀ x ∈ s.dir, x = e ∨ overlap x.line x.lg e.line e.lg = false) → e.st ≠ .u → own = true →
            (∀ h ∈ s.leases, h.covers k = true → h.line = e.line ∧ h.lg = e.lg ∧ h.agent ∈ e.sharers) →
            ∀ h ∈ t.leases, h.covers k = false))) ∧
        ((s.takeHome k own).2 = false → Answers .hostSnoop s (fun t => SameBytes s t ∧ t.hostPend = [.snoop line own] ∧
          t.hostOut = s.hostOut)))) ∧
    (s.opd = .addr line →
      (s.hostWrites = [] → Answers .hostBackInvalidateAnswer s (fun t => t = { s with hostHeld := t.hostHeld } ∧
        ∀ h, h ∈ t.hostHeld ↔ h ∈ s.hostHeld ∧ ¬(h.covers k = true ∧ h.snooped = true))) ∧
      (∀ l bs, s.memWf → s.hostWrites = [(l, bs)] →
        (∀ h ∈ s.hostHeld, h.covers (l.a / 128) = true → h.covers k = true ∧ h.snooped = true) →
        Answers .hostBackInvalidateAnswer s (fun t => SetsBytes s t l bs.length (ofBytes bs) ∧ t.hostWrites = [])))

/-! ## The host's commands, registers and requests -/

/-- R25, R26, R24 and R404: domain set and window set. A field out of range answers 2; a transition that the table of states
does not list, or whose condition does not hold, `BUSY` 1; `RETIRING` to `FREE` empties the descriptor and its windows. A window
entry is written, or removed by `NSEG` 0, only while the domain holds nothing that uses it; one that gives a segment another
attribute than another domain's window answers 3, and one over a vector table of a domain that is not `FREE` 1 (R24). What
changes a domain's windows leaves no PLB entry of it (R238). A refusal changes nothing. R32, R25 and R404: queue control. Each
transition of the table, and 4 where it does not list one from the queue's state, with the queue number out of range answered 2.
An enable takes its value for `HEAD` and `TAIL`, and is refused where the domain is not `LIVE` or may own no more; a clear
returns to the prior state, past the failed packet for skip; a disable with work outstanding answers 1; a stop and pre-empt with
too few areas leaves the queue `STOPPED` and answers 6. That a return to `LIVE` asks for no `PGROOT.EN` (log entry 129), the
order of the refusals, and `BUSY` for a window over a vector table, are the model's readings (log entries 87 and 88); commands
come through the ring as log entries 85 and 86 say. -/
def Obligations.DomainsAndQueues : Prop :=
  (∀ (s : State) (pd idx : Nat) (img : Word),
     let i := domainForm (s.fwGet (vaOf img) 64 3)
     let D := s.domain pd
     let w := (windowForm (s.fwGet (vaOf img) 16 2)).1
     let good := (windowForm (s.fwGet (vaOf img) 16 2)).2 = true
     let rest := D.wins.del idx
     let refused (ins : Instr) (n : Nat) : Prop := Commands ins s n (fun t => t = s)
     let onTable := ∃ y ∈ s.domains, y.2.state ≠ 0 ∧ w.covers (segOf y.2.ivtab.toNat) = true
     let hurts (wins : SMap Window) : Prop := D.state ≠ 0 ∧ spillCovered wins D.spillarea.toNat D.log2spill = false
     let inRange := 0 < pd ∧ pd ≤ 4095 ∧ idx ≤ 255 ∧ good ∧ (w.nseg ≠ 0 →
       w.base.toNat % 2 ^ 48 + w.nseg * 2 ^ 21 ≤ s.windowLimit w ∧ ∀ x ∈ rest, x.2.meets w = false)
     let noRights (t : State) : Prop := ∀ y ∈ t.cores, ∀ z ∈ y.2.plb, z.pdid.toNat ≠ pd
     (s.opd = .domain pd img →
       ((4095 < pd ∨ 2 < i.state) → refused .domainSet 2) ∧
       (pd = 0 → i.state ≤ 2 → refused .domainSet 1) ∧
       (0 < pd → pd ≤ 4095 →
         (D.state ≤ 1 → i.state = 1 → i.ok = false → refused .domainSet 2) ∧
         (D.state ≤ 1 → i.state = 1 → i.ok = true → s.domainFits pd i = false → refused .domainSet 1) ∧
         (D.state ≤ 1 → i.state = 1 → i.ok = true → s.domainFits pd i = true → Commands .domainSet s 0 (fun t =>
           t.domain pd = { D with state := 1, tcok := i.tcok == 1, qmax := i.qmax, ctxmax := i.ctxmax, ivtab := BitVec.ofNat 56 i.ivtab,
                                  spillarea := BitVec.ofNat 56 i.spillarea, log2spill := i.log2spill, wintab := (t.domain pd).wintab } ∧
           (t.domain pd).wintab.toNat % 16 = 0 ∧ t = { s with domains := t.domains })) ∧
         (D.state ≤ 1 → i.state = 1 → i.ok = true → (∃ y ∈ s.domains, (windowAt y.2.wins (segOf i.ivtab)).isSome = true) → refused .domainSet 1) ∧
         (D.state = 1 → i.state = 2 → Commands .domainSet s 0 (fun t => t = s.setDomain pd { D with state := 2 })) ∧
         (D.state = 2 → i.state = 1 → Commands .domainSet s 0 (fun t => t = s.setDomain pd { D with state := 1 })) ∧
         (D.state = 2 → i.state = 0 → s.domainGone pd = true → Commands .domainSet s 0 (fun t =>
           t = { s with domains := s.domains.del pd, cores := t.cores } ∧ noRights t)) ∧
         (D.state = 2 → i.state = 0 → s.domainGone pd = false → refused .domainSet 1) ∧
         ((D.state = 0 ∧ i.state ≠ 1 ∨ D.state = 1 ∧ i.state = 0 ∨ D.state = 2 ∧ i.state = 2) → i.state ≤ 2 → refused .domainSet 1))) ∧
     (s.opd = .window pd idx img →
       (¬inRange → refused .windowSet 2) ∧
       (inRange → s.windowsHeld pd = true → refused .windowSet 1) ∧
       (inRange → s.windowsHeld pd = false →
         (w.nseg = 0 → hurts rest → refused .windowSet 1) ∧
         (w.nseg = 0 → ¬hurts rest → Commands .windowSet s 0 (fun t => (t.domain pd).wins = rest ∧ (t.domain pd).nwin = topWindow rest ∧
           noRights t ∧ t = { s with domains := t.domains, cores := t.cores })) ∧
         (w.nseg ≠ 0 → onTable → refused .windowSet 1) ∧
         (w.nseg ≠ 0 → ¬onTable → s.attrConflict pd w = true → refused .windowSet 3) ∧
         (w.nseg ≠ 0 → ¬onTable → s.attrConflict pd w = false → hurts (rest.set idx w) → refused .windowSet 1) ∧
         (w.nseg ≠ 0 → ¬onTable → s.attrConflict pd w = false → ¬hurts (rest.set idx w) → Commands .windowSet s 0 (fun t =>
           (t.domain pd).wins = rest.set idx w ∧ (t.domain pd).nwin = topWindow (rest.set idx w) ∧
           (w.attr = 1 → ∀ a ∈ t.empties, w.covers (segOf a) = true → s.attr a = 1) ∧
           noRights t ∧ t = { s with domains := t.domains, cores := t.cores, empties := t.empties, bv := t.bv }))))) ∧
  (∀ (s : State) (q n : Nat) (v : BitVec 32) (areas : VAddr) (c : CtxId),
     let Q := s.queue q
     let live := (s.domain Q.pdid.toNat).state = 1
     let goes (i : Instr) (y : Queue) : Prop := Commands i s 0 (fun t => t = s.setQueue q y)
     let refused (i : Instr) (k : Nat) : Prop := Commands i s k (fun t => t = s)
     let stopped := s.setQueue q { Q with state := .stopped }
     (s.opd = .enable q v →
       (4095 < q → refused .queueEnable 2) ∧
       (q ≤ 4095 → (Q.state ≠ .disabled ∨ ¬live) → refused .queueEnable 4) ∧
       (q ≤ 4095 → Q.state = .disabled → live → s.mayOwn q Q = false → refused .queueEnable 2) ∧
       (q ≤ 4095 → Q.state = .disabled → live → s.mayOwn q Q = true →
         goes .queueEnable { Q with state := .active, head := v, tail := v, eff := Q.prio.toNat, since := s.sdcyc })) ∧
     (s.opd = .unit q →
       (4095 < q → ∀ i ∈ [Instr.queueStop, .queueResume, .queueClearReread, .queueClearSkip, .queueDisable], refused i 2) ∧
       (q ≤ 4095 →
         (Q.state = .active → goes .queueStop { Q with state := .stopped }) ∧
         (Q.state ≠ .active → refused .queueStop 4) ∧
         (Q.state = .stopped → goes .queueResume { Q with state := .active }) ∧
         (Q.state ≠ .stopped → refused .queueResume 4) ∧
         (Q.state = .error → goes .queueClearReread { Q with state := Q.prior }) ∧
         (Q.state = .error → goes .queueClearSkip { Q with state := Q.prior, head := if Q.cause = 8 then Q.head else Q.head + 1 }) ∧
         (Q.state ≠ .error → refused .queueClearReread 4 ∧ refused .queueClearSkip 4) ∧
         (Q.state = .disabled → refused .queueDisable 4) ∧
         (Q.state ≠ .disabled → s.inflight q = true → refused .queueDisable 1) ∧
         (Q.state ≠ .disabled → s.inflight q = false → goes .queueDisable { Q with state := .disabled }))) ∧
     (s.opd = .preempt q areas n →
       ((4095 < q ∨ areas.toNat % 256 ≠ 0) → refused .queueStopPreempt 2) ∧
       (q ≤ 4095 → areas.toNat % 256 = 0 →
         (Q.state ≠ .active → refused .queueStopPreempt 4) ∧
         (Q.state = .active → n < (stopped.firingsOn q).length → s.fromMbx .queueStopPreempt = false →
           Answers .queueStopPreempt s (fun t => t = stopped)) ∧
         (Q.state = .active → n < (stopped.firingsOn q).length → s.fromMbx .queueStopPreempt = true → s.mgmt.ring.wf = true →
           s.mgmt.mbxtail = s.mgmt.mbxhead + 1 → (stopped.firingsOn q).length < 2 ^ 64 → Answers .queueStopPreempt s (fun t =>
             t.queue q = { Q with state := .stopped } ∧ t.me = s.me ∧ t.others = s.others ∧
             ofBytes (t.mgmt.ring.readN (64 * (s.mgmt.mbxhead.toNat % 256) + 2) 2) = 6 ∧
             ofBytes (t.mgmt.ring.readN (64 * (s.mgmt.mbxhead.toNat % 256) + 56) 8) = (stopped.firingsOn q).length)) ∧
         (Q.state = .active → stopped.firingsOn q = [] → goes .queueStopPreempt { Q with state := .stopped }) ∧
         (Q.state = .active → stopped.firingsOn q = [c] → 1 ≤ n → (s.ctx c).st = .run → (s.ctx c).killed = false → stopped.tableFull = false →
           stopped.layoutOk 1 = true → s.fromMbx .queueStopPreempt = false → Answers .queueStopPreempt s (fun t =>
             t.queue q = { Q with state := .stopped } ∧ (t.ctx c).st = .saving ∧
             (∃ y, (t.ctx c).saving = some y ∧ y.area = areas ∧ y.before = .run) ∧
             ⟨.saveComplete, .ctx c⟩ ∈ t.events ∧ SameBytes s t)))))

/-- R396, R397, R285, R287 and R404: master control, and the bind of a tenant Keep context. A master whose state does not admit
the command, or a bad selector, answers 4. A bind starts the context in `RUN` with the registers of R285, and where its domain
is another than the Keep had, tiles, amax registers, weight sets, operation registers, the request queue and pod scratch are
reset once an operation that runs has ended, until when the bind answers `BUSY`; what was armed or taken by Keep context 3 goes
as well (the model's choice, log 127). A kill waits for the kills before it, and that of a packet for those of its bound
firings. R404, R406 and R409: the commands of the package. Domain configure sets its number, `HOSTPKG` and the routes of both
switch dies (from an image of one port mask per package, which is the model's own choice of form), unless a domain is `LIVE`: a
package that no route leads to any more is not lost at once (R382), and the number that names the host is no package's (R383);
firmware activate answers with the status of its checks, 4 higher; power sets every die of the mask, the limit no higher than
1500, and answers 2 for a state out of range; an unknown `OP` is not performed and answers 10. R407, R33, R25 and R103: after
package reset no queue is enabled, no domain is `LIVE`, no context but firmware's runs, and what lies outside the package is as
it was, as are the bytes of physical memory, whose page tables' fields no reset changes (R17, R240; the model's reading, log
94), but where boot puts the image. A boot image that passes its checks is `FWIMAGE`, every firmware context runs at its entry
with its selector in `x1` and 1 in `x2`, slots 2 and 3 hold the image's SHA-256 digest (R408) and `BOOTSTAT` reads 1; otherwise
`BOOTSTAT` reads 0x10 and the status of the check that failed, and no context runs. The model's own: the form of the routes
image (log entry 84), the refusals of master control (log entry 90), what a power command to `STOP` waits for (log entry 91),
how the mailbox names its entries (log entry 86), when a killed context is `IDLE` (log entry 68), the order of kills (log entry
132), what ends before a bind (log entries 62 and 127) and what package reset keeps (log entry 94). -/
def Obligations.PackageCommands : Prop :=
  (∀ (s : State) (die pod slot : Nat) (sel area entry arg : Word) (pd : BitVec 12) (f : Firing) (x : Saved) (k : Nat) (r : PktRef),
     let m := selOf sel
     let c := m.ctx
     let good := selOk die sel = true
     let refused (i : Instr) (n : Nat) : Prop := Commands i s n (fun t => t = s)
     let kc : CtxId := ⟨true, pod, false, slot⟩
     let D := s.domain pd.toNat
     let bound := pod ≤ 95 ∧ slot ≤ 2 ∧ entry.toNat % 2 = 0
     (s.opd = .master die sel →
       ((¬good ∨ 4 < m.kind) → refused .masterThaw 4) ∧
       (good → m.kind ≤ 1 → (s.ctx c).st ≠ .frozen → refused .masterThaw 4) ∧
       (good → m.kind ≤ 1 → (s.ctx c).st = .frozen → Commands .masterThaw s 0 (fun t =>
         (t.ctx c).st = .run ∧ (t.ctx c).pc = evenVa (s.ctx c).fpc ∧ (t.ctx c).x = (s.ctx c).x ∧ (t.ctx c).wait = none ∧ SameBytes s t)) ∧
       ((¬good ∨ m.kind ≠ 0 ∧ m.kind ≠ 2 ∨ s.packetOfMaster m = none) → refused .masterKillPacket 4) ∧
       (good → m.kind = 0 ∨ m.kind = 2 → s.packetOfMaster m = some r → s.fromMbx .masterKillPacket = false →
         Answers .masterKillPacket s (fun t => (∀ p, t.packet r = some p → p.killPkt = true ∧ p.dealt = true) ∧
           (∀ y ∈ t.dies, ∀ z ∈ y.2.chunks, z.pkt ≠ r) ∧
           (∀ c ∈ s.firingsOf r, .ctx c ∈ t.kills ∧ (t.ctx c).killed = (s.ctx c).firing.isSome ∧ ⟨.killComplete, .ctx c⟩ ∈ t.events) ∧
           ((s.kills ≠ [] ∨ s.firingsOf r ≠ []) → .packet r ∈ t.kills) ∧
           (s.kills = [] → s.firingsOf r = [] → ⟨.packetComplete, .packet r.q r.num⟩ ∈ t.events)))) ∧
     (s.opd = .kill die sel area →
       (¬good → refused .masterKill 4) ∧
       (good → m.kind = 5 → s.savedEntry area = none → refused .masterKill 4) ∧
       (good → m.kind = 5 → s.savedEntry area = some (x, k) → s.fromMbx .masterKill = false → Answers .masterKill s (fun t =>
         if s.kills = [] then t.saved = s.saved.erase x else t = { s with kills := s.kills ++ [.saved x.area] })) ∧
       (good → m.kind ≤ 1 → (s.ctx c).st = .idle → refused .masterKill 4) ∧
       (good → m.kind = 0 → m.slot ≤ 7 → (s.ctx c).st ≠ .idle → (s.ctx c).firing = some f → s.fromMbx .masterKill = false →
         Answers .masterKill s (fun t => (t.ctx c).st = (s.ctx c).st ∧
           (∃ g, (t.ctx c).firing = some g ∧ g.killed = true ∧ g.fid = f.fid ∧ g.pkt = f.pkt) ∧ .ctx c ∈ t.kills ∧
           ⟨.killComplete, .ctx c⟩ ∈ t.events))) ∧
     (s.opd = .keep pod slot pd entry arg →
       (¬bound → refused .keepBind 2) ∧
       (bound → D.state = 0 → refused .keepBind 4) ∧
       (bound → D.state = 2 → refused .keepBind 1) ∧
       (bound → D.state = 1 → ((s.ctx kc).st ≠ .idle ∨ s.keepOther pod pd = true ∨ s.keepRuns pod pd = true) →
         refused .keepBind 1) ∧
       (bound → D.state = 1 → (s.ctx kc).st = .idle → s.keepOther pod pd = false → s.keepRuns pod pd = false →
         ((s.pod pod).domain = pd ∨ (s.pod pod).running = none) → Commands .keepBind s 0 (fun t =>
         (t.ctx kc).st = .run ∧ (t.ctx kc).pc = entry.setWidth 56 ∧ (t.ctx kc).pdid = pd ∧ (t.ctx kc).flags = 0 ∧ (t.ctx kc).rnd = 0 ∧
         (t.ctx kc).rs.depth = 0 ∧ (t.ctx kc).rs.spilled = 0 ∧
         (∀ n : XReg, xGet (t.ctx kc).x n =
           if n = 1 then s.pkg.setWidth 64 else if n = 2 then BitVec.ofNat 64 (pod / 12) else if n = 3 then BitVec.ofNat 64 (pod % 12)
           else if n = 9 then arg else if n = 11 then BitVec.ofNat 64 (pd.toNat * 2 ^ 52 + 0xFFF * 2 ^ 40 + pod * 2 ^ 8 + slot) else 0) ∧
         (t.ctx kc).spillBase = D.spillarea + BitVec.ofNat 56 ((12288 + 4 * pod + slot) * 2 ^ D.log2spill) ∧
         ((s.pod pod).domain = pd → t.pod pod = s.pod pod ∧ SameBytes s t) ∧
         ((s.pod pod).domain ≠ pd → (t.pod pod).domain = pd ∧ (t.pod pod).shadow = [] ∧ (t.pod pod).active = [] ∧ (t.pod pod).last = 0 ∧
           (t.pod pod).next = 1 ∧ (t.pod pod).tiles = [] ∧ (t.pod pod).amax = [] ∧ (t.pod pod).wset = [] ∧ (t.pod pod).queue = [] ∧
           (t.pod pod).armed = none ∧ (t.pod pod).batches = [] ∧ (s.memWf → ∀ a, t.st.podScratch.read a =
             if pod * 2 ^ 22 ≤ a ∧ a < (pod + 1) * 2 ^ 22 then 0 else s.st.podScratch.read a)))))) ∧
  (∀ (s u : State) (pkg mask : BitVec 8) (hp routes img list : Word) (v ps lim : Nat),
     let refused (i : Instr) (n : Nat) : Prop := Commands i s n (fun t => t = s)
     let map := s.fwGet (vaOf routes) 256 6
     (s.opd = .configure pkg hp routes →
       ((∃ y ∈ s.domains, y.2.state = 1) → refused .domainConfigure 1) ∧
       ((∀ y ∈ s.domains, y.2.state ≠ 1) → Commands .domainConfigure s 0 (fun t => t.pkg = pkg ∧
         (∀ d, (t.sd d).hostNum = hp.setWidth 8 ∧ (t.sd d).hostEn = hp.getLsbD 8 ∧ ∀ k, (t.sd d).routes.get 0 k = map.getD k 0) ∧
         (∀ p ∈ t.peers, p ≠ pkg ∧ t.namesHost p = false) ∧ (∀ p ∈ s.peers, p ≠ pkg → t.namesHost p = false → p ∈ t.peers) ∧
         SameBytes s t))) ∧
     (s.opd = .activate img list →
       (s.mgmt.activating ≠ none → refused .firmwareActivate 9) ∧
       (s.mgmt.activating = none → s.fromMbx .firmwareActivate = false →
         (img.toNat % 512 ≠ 0 → Answers .firmwareActivate s (fun t => t = s)) ∧
         ((∃ x, s.activateAt (fwReq 0) img.toNat (vaOf list) none = .error x) → Answers .firmwareActivate s (fun t => t = s)) ∧
         (s.activateAt (fwReq 0) img.toNat (vaOf list) none = .ok (u, v) → Answers .firmwareActivate s (fun t => t = u ∧
           (v = 0 → t.mgmt.fwimage = BitVec.ofNat 56 img.toNat ∧ img.toNat < 2 ^ 56) ∧ (v ≠ 0 → t.me = s.me ∧ t.others = s.others))))) ∧
     (s.opd = .power mask ps lim →
       (4 < ps → refused .powerCommand 2) ∧
       (ps ≤ 4 → s.fromMbx .powerCommand = false → Answers .powerCommand s (fun t =>
         t.mgmt.pwrlim = BitVec.ofNat 16 (min lim 1500) ∧ SameBytes s t ∧
         (∀ d, d < 8 → mask.getLsbD d = false → (t.die d).power = (s.die d).power) ∧
         (∀ d, d < 8 → mask.getLsbD d = true → if ps < 4 then (t.die d).power = ps
           else (t.die d).power = 4 ∨ (t.die d).stopPend = true)))) ∧
     refused .unknownOp 10) ∧
  (∀ s : State, Answers .packageReset s (fun t =>
     let i := imageForm (s.mgmt.flash.readN 0 512)
     let st := imageStatus i (s.mgmt.flash.readN 0 (0x200 + i.size)) (s.mgmt.flash.readN (0x200 + i.size) 384)
     (∀ q, (t.queue q).state = .disabled) ∧ (∀ d, (t.domain d).state = 0) ∧ (∀ c, c ∉ fwContexts → (t.ctx c).st = .idle) ∧
     t.mgmt.flash = s.mgmt.flash ∧ t.st.host = s.st.host ∧ t.st.peer = s.st.peer ∧ t.hostOut = s.hostOut ∧ t.events = [] ∧
     t.mgmt.slots.get 0 3 = t.mgmt.slots.get 0 2 ∧ (st ≠ 0 → ∀ a, t.byteAt .dram a = s.byteAt .dram a) ∧
     (st = 0 → s.memWf → ∀ a, t.byteAt .dram a =
       if 512 * Config.bootAt.toNat ≤ a ∧ a < 512 * Config.bootAt.toNat + 0x200 + i.size + 384
       then s.mgmt.flash.read (a - 512 * Config.bootAt.toNat) else s.byteAt .dram a) ∧
     (st ≠ 0 → t.mgmt.bootstat.toNat = 0x10 + st ∧ ∀ c, (t.ctx c).st = .idle) ∧
     (st = 0 → t.mgmt.bootstat = 1 ∧
       (∃ l, (l = [] ∨ l = s.mgmt.flash.readN (0x200 + i.size) 384) ∧
         t.mgmt.slots.get 0 2 = sha256 (s.mgmt.flash.readN 0 (0x200 + i.size) ++ l)) ∧ ∀ c ∈ fwContexts, (t.ctx c).st = .run ∧ (t.ctx c).pdid = 0 ∧
       (t.ctx c).pc = t.mgmt.fwimage + BitVec.ofNat 56 (0x200 + i.entry) ∧
       ∀ r : XReg, xGet (t.ctx c).x r = if r = 1 then BitVec.ofNat 64 (selWord (masterOf c)) else if r = 2 then 1 else 0)))

/-- R17, R62, R241, R343, R386, R403, R404, R405 and R409: a write of a management register, and of `MGMTEV` by the host.
Reserved bits and read-only registers ignore it, `W1C` bits written 1 clear, values out of range become those that the register
tables name, `SDROLL` starts its command, and a write of `MBXTAIL` to an idle mailbox starts the first command. R17, R62, R343,
R386, R403, R404: reads of management registers. Firmware's read puts the value into its register, and the host's read through
BAR 0 answers at its port: `MBXTAIL`, `MBXHEAD`, `BOOTSTAT` and `MGMTEV` at 0x0000 to 0x0018, the ring's 8-byte words from
0x1000 on, and 0 elsewhere, where a write is ignored. A write-only register reads 0, `PQEOPEN` counts the open packets, and
`SDSTAT` says whether the other switch die lives, a takeover, `BUSY`, `ERR`, `LOGLOSS` and how many regions are flagged. R408:
the attestation requests that the device answers, each with one answer at the host port, and those that it does not support,
with `ERROR` of type `UnsupportedRequest`. The algorithms that it names are SHA-256 for measurements, RSASSA-3072 and SHA-256.
The codes of requests and answers are those of the SPDM document that R408 names, and the bytes that it leaves to that document
are free (the model's presumption, in its log). Without `SD0` nothing is sent. These codes are log entries 93 and 116; reads
come with the row of the writes (log entry 98); a `KEEP` out of its range is stored as written by the model's choice (log entry
92). -/
def Obligations.ManagementAndAttestation : Prop :=
  (∀ (s : State) (v : Word) (k d e : Nat) (sd : Bool) (reg : MgmtReg) (h : Happening),
     let n := v.toNat
     let low := fun (a w : Nat) => n / 2 ^ a % 2 ^ w
     let cleared (t : State) : Prop := (∀ i, t.mgmt.mgmtev.getLsbD i = (s.mgmt.mgmtev.getLsbD i && !v.getLsbD i)) ∧
       t = { s with mgmt := { s.mgmt with mgmtev := t.mgmt.mgmtev } }
     let writes (r : MgmtReg) (P : State → Prop) : Prop := s.opd = .mgmt r v → Answers .mgmtRegisterWrite s (fun t => P t ∧ SameBytes s t)
     (s.opd = .imm v → Answers .mgmtevClear s cleared) ∧
     writes .mgmtev cleared ∧
     (reg ∈ [MgmtReg.fwimage, .secver, .mbxhead, .bootstat, .pqeopen] → writes reg (fun t => t = s)) ∧
     writes (.tagbase k) (fun t => (t.core k).tagbase.toNat = low 0 56 / 16 * 16) ∧
     writes (.msgtrap k) (fun t => (t.core k).msgtrap.toNat = low 0 56 / 2 * 2) ∧
     ((s.core k).migOv = [] → writes (.migq k) (fun t => (t.core k).migq.toNat = if low 0 5 = 0 ∨ 16 < low 0 5 then 16 else low 0 5)) ∧
     writes (.migovf k) (fun t => (t.core k).migovf.toNat =
       if (s.core k).migOv = [] then low 0 56 / 128 * 128 else (s.core k).migovf.toNat) ∧
     writes (.fwspill k) (fun t => (t.core k).fwspill.toNat = low 0 56 / 8192 * 8192) ∧
     writes (.keepFwspill k) (fun t => (t.pod k).fwspill.toNat = low 0 56 / 8192 * 8192) ∧
     (k < 4 → e < 4 → writes (.postown d k) (fun t => (t.die d).postown[4 * k + e]? = some (BitVec.ofNat 12 (low (16 * e) 12)) ∧
       ∀ i, i / 4 ≠ k → (t.die d).postown[i]? = (s.die d).postown[i]?)) ∧
     writes (.pgroot d) (fun t => (t.die d).pgEn = v.getLsbD 0 ∧ (t.die d).pgAddr.toNat = low 0 38 / 4096 * 4096) ∧
     writes (.mixtrap k) (fun t => t.mixtrap.get false k = v.getLsbD 0 ∧ (v.getLsbD 0 = false → ∀ x ∈ t.strong, x.md ≠ k)) ∧
     writes .pqeage (fun t => t.engine.ageStep = v.setWidth 32) ∧
     writes .pqeglim (fun t => t.engine.glim = v.setWidth 32) ∧
     writes (.sdlease sd) (fun t => (t.sd sd).lns.toNat = max 4096 (low 0 32) ∧ (t.sd sd).eps.toNat = max 1 (low 32 6)) ∧
     writes (.sdquiet sd) (fun t => (t.sd sd).quiet = v.setWidth 32) ∧
     writes (.sdckpt sd) (fun t => (t.sd sd).interval = v.setWidth 32 ∧ (t.sd sd).keep.toNat = low 32 4) ∧
     writes (.sdckptlog sd) (fun t => (t.sd sd).logAddr.toNat = low 12 26 ∧ (t.sd sd).log2sz.toNat = low 40 5) ∧
     writes (.sdstat sd) (fun t => (t.sd sd).err = ((s.sd sd).err && !v.getLsbD 3) ∧ (t.sd sd).logloss = ((s.sd sd).logloss && !v.getLsbD 4)) ∧
     writes (.sdpeer sd) (fun t => (t.sd sd).tmo = v.setWidth 32) ∧
     writes (.hostpkg sd) (fun t => (t.sd sd).hostNum = v.setWidth 8 ∧ (t.sd sd).hostEn = v.getLsbD 8) ∧
     (n % 4 = 0 → writes (.sdroll sd) (fun t => t = s)) ∧
     (n % 4 = 1 → writes (.sdroll sd) (fun t => (t.sd sd).busy = true ∧
       t.events = s.events ++ [⟨.sdrollClearFlag, .region sd (BitVec.ofNat 56 (low 7 49 * 128))⟩])) ∧
     (n % 4 = 2 → writes (.sdroll sd) (fun t => (t.sd sd).busy = true ∧
       t.events = s.events ++ [⟨.sdrollRollback, .rollback sd (BitVec.ofNat 56 (low 7 49 * 128)) (BitVec.ofNat 3 (low 2 3))⟩])) ∧
     (n % 4 = 3 → writes (.sdroll sd) (fun t => (t.sd sd).err = true)) ∧
     writes .savetab (fun t => t.mgmt.savetab.toNat = low 0 56 / 256 * 256) ∧
     writes .pwrlim (fun t => t.mgmt.pwrlim.toNat = min (low 0 16) 1500) ∧
     (s.mgmt.mbxhead ≠ s.mgmt.mbxtail → writes .mbxtail (fun t => t = { s with mgmt := { s.mgmt with mbxtail := v } })) ∧
     (s.mgmt.mbxhead = s.mgmt.mbxtail → s.mgmt.mbxhead ≠ v → s.mgmt.bootstat = 1 → s.sd0.lost = false → s.mbxCommand = .ok h →
       writes .mbxtail (fun t => t.mgmt.mbxtail = v ∧ t.events = s.events ++ [h]))) ∧
  (∀ (s : State) (reg : MgmtReg) (c : CtxId) (d : XReg) (off k : Nat) (sd : Bool) (v : Word),
     let x := s.sd sd
     let gives (r : MgmtReg) (w : Nat) : Prop := s.opd = .mgmtRead r c d → isFw c = true → Answers .mgmtRegisterWrite s (fun t =>
       t = s.setCtx c { s.ctx c with x := xSet (s.ctx c).x d (BitVec.ofNat 64 w) })
     let host (w : Nat) : Prop := Answers .mgmtRegisterWrite s (fun t => t = { s with hostOut := s.hostOut ++ [.read (BitVec.ofNat 64 w)] })
     let bit (b : Bool) : Nat := b.toNat
     gives .pqeage s.engine.ageStep.toNat ∧ gives .pqeglim s.engine.glim.toNat ∧ gives .pqeopen s.packets.length ∧
     gives (.sdroll sd) 0 ∧ gives (.sdlease sd) (x.lns.toNat + 2 ^ 32 * x.eps.toNat) ∧ gives (.sdquiet sd) x.quiet.toNat ∧
     gives (.sdckpt sd) (x.interval.toNat + 2 ^ 32 * x.keep.toNat + 2 ^ 40 * x.cur.toNat) ∧ gives (.sdpeer sd) x.tmo.toNat ∧
     gives (.sdstat sd) (bit (!(s.sd (!sd)).lost) + 2 * bit x.takeover + 4 * bit x.busy + 8 * bit x.err + 16 * bit x.logloss +
       2 ^ 32 * (s.dir.filter (fun e => e.flag != .none && s.tracker e.line == sd)).length) ∧
     gives (.hostpkg sd) (x.hostNum.toNat + 256 * bit x.hostEn) ∧ gives (.mixtrap k) (bit (s.mixtrap.get false k)) ∧
     gives (.pgroot k) ((s.die k).pgAddr.toNat + bit (s.die k).pgEn) ∧ gives (.tagbase k) (s.core k).tagbase.toNat ∧
     gives (.msgtrap k) (s.core k).msgtrap.toNat ∧ gives (.migq k) (s.core k).migq.toNat ∧ gives .savetab s.mgmt.savetab.toNat ∧
     gives .fwimage s.mgmt.fwimage.toNat ∧ gives .mgmtev s.mgmt.mgmtev.toNat ∧ gives .bootstat s.mgmt.bootstat.toNat ∧
     gives .pwrlim s.mgmt.pwrlim.toNat ∧
     (s.opd = .mgmtRead reg c d → isFw c = false → Answers .mgmtRegisterWrite s (fun t => t = s)) ∧
     (s.opd = .bar off none →
       (off = 0x00 → host s.mgmt.mbxtail.toNat) ∧ (off = 0x08 → host s.mgmt.mbxhead.toNat) ∧ (off = 0x10 → host s.mgmt.bootstat.toNat) ∧
       (off = 0x18 → host s.mgmt.mgmtev.toNat) ∧
       (0x1000 ≤ off → off < 0x5000 → off % 8 = 0 → host (ofBytes (s.mgmt.ring.readN (off - 0x1000) 8))) ∧
       (off ∉ [0x00, 0x08, 0x10, 0x18] → (off < 0x1000 ∨ 0x5000 ≤ off ∨ off % 8 ≠ 0) → host 0)) ∧
     (s.opd = .bar off (some v) →
       (off = 0x18 → Answers .mgmtRegisterWrite s (fun t =>
         t = { s with mgmt := { s.mgmt with mgmtev := s.mgmt.mgmtev &&& ~~~v } })) ∧
       (s.mgmt.ring.wf = true → 0x1000 ≤ off → off < 0x5000 → off % 8 = 0 → Answers .mgmtRegisterWrite s (fun t =>
         t = { s with mgmt := { s.mgmt with ring := t.mgmt.ring } } ∧ t.mgmt.ring.wf = true ∧ ∀ a, t.mgmt.ring.read a =
           if off - 0x1000 ≤ a ∧ a < off - 0x1000 + 8 then BitVec.ofNat 8 (v.toNat / 256 ^ (a - (off - 0x1000))) else s.mgmt.ring.read a)) ∧
       (off ∉ [0x00, 0x08, 0x10, 0x18] → (off < 0x1000 ∨ 0x5000 ≤ off ∨ off % 8 ≠ 0) → Answers .mgmtRegisterWrite s (fun t => t = s)))) ∧
  (∀ (s : State) (slot off len idx : Nat) (nonce : BitVec 256) (b : Byte),
     let sends (i : Instr) (c : Byte) (P : List Byte → Prop) : Prop := Answers i s (fun t => ∃ body, P body ∧
       t = (if s.sd0.lost = true then s else { s with hostOut := s.hostOut ++ [.spdm c body] }))
     let digest (d : BitVec 256) (l : List Byte) : Prop := ofBytes l.reverse = d.toNat ∧ l.length = 32
     sends .getVersion 0x04 (· = [0x13]) ∧
     sends .getCapabilities 0x61 (fun _ => True) ∧
     sends .negotiateAlgorithms 0x63 (fun l => (l.drop 4).take 12 = [2, 0, 0, 0, 4, 0, 0, 0, 1, 0, 0, 0]) ∧
     sends .getDigests 0x01 (fun l => ∃ r, l = 1 :: r ∧ digest (sha256 Config.certChain) r) ∧
     (s.opd = .cert slot off len →
       (slot = 0 → off ≤ Config.certChain.length → sends .getCertificate 0x02 (· = (Config.certChain.drop off).take len)) ∧
       (slot ≠ 0 → sends .getCertificate 0x7F (fun _ => True))) ∧
     (s.opd = .challenge slot nonce →
       (slot = 0 → sends .challenge 0x03 (fun l => ∃ r q, l = r ++ q ∧ digest (sha256 Config.certChain) r)) ∧
       (slot ≠ 0 → sends .challenge 0x7F (fun _ => True))) ∧
     (s.opd = .unit idx →
       (1 ≤ idx → idx ≤ 4 → sends .getMeasurements 0x60 (fun l => ∃ r, l = BitVec.ofNat 8 idx :: r ∧ digest (s.mgmt.slots.get 0 idx) r)) ∧
       ((idx = 0 ∨ 4 < idx) → sends .getMeasurements 0x7F (fun _ => True))) ∧
     (s.opd = .code b → sends .unsupportedRequest 0x7F (· = [0x07, b])))

/-! ## The machine as a whole -/

/-- R16: the byte stores. A byte reads as it was last written, whatever else has been; a value of n bytes is kept least
significant byte first and read back whole; every write keeps the canonical form, and two stores in that form that read alike
are one. The canonical form, and that an unlisted byte reads 0, are the model's own (log entry 1). -/
def Obligations.MemoryLaws : Prop :=  ∀ (m m2 : Memory) (a b n v : Nat) (x : Byte), m.wf = true →
    (m.write a x).read b = (if b = a then x else m.read b) ∧ (m.write a x).wf = true ∧
    ofBytes ((m.writeN a (toBytes n v)).readN a n) = v % 256 ^ n ∧
    (b < a ∨ a + n ≤ b → (m.writeN a (toBytes n v)).read b = m.read b) ∧ (m.writeN a (toBytes n v)).wf = true ∧
    (m2.wf = true → (∀ k, m.read k = m2.read k) → m = m2)

/-- What a step runs (R86, R87, R113, R114, R241, R286). What is pending happens first. Otherwise the unit whose turn it is,
first in the cycle those that kill (R78), tries its contexts in their order, and where the halfwords at the program counter of
the first that may issue decode to an instruction that its kind may execute, that nothing holds and that the checking scoreboard
lets pass, the step is `exec` of that instruction, with its stall count, its length and its operand latched; the unit is charged
for it; and an instruction that is held gives the turn to the next context. With translation disabled, firmware fetches a
halfword from physical memory, its low byte first, of a line that is held where it says or that is brought in. The order of a
cycle, and the cycles of mid-dispatch of forms that R87 does not name, are the model's choice (log entries 12 and 100), and the
physical address of a fetch without translation its reading (log entry 5). -/
def Obligations.StepRunsDecoded : Prop :=  (∀ (s : State) (h : Happening) (r : List Happening), s.events = h :: r →
    step s = exec h.i { s with events := r, opd := h.opd, free := s.free + 1 }) ∧
  (∀ (s r : State) (c v : CtxId) (post : List CtxId) (ws : List Half) (d : Decoded) (F : Nat → State),
    s.TurnOf v c r post → decode ws = .ok d → d.n = ws.length → r.Fetches c ws F →
    let m := F ws.length
    let n := m.latch d (m.midCycles d.instr)
    m.permitted d.instr = true →
    (m.issueHeld d.instr = true → step s = State.tryIssue { m with held := true } post) ∧
    (m.issueHeld d.instr = false → m.unsafeSource d.instr = none →
      (∀ t, exec d.instr n = .next t → t.held = false → step s = .next (t.charge c)) ∧
      (∀ t, exec d.instr n = .next t → t.held = true → step s = t.tryIssue post) ∧
      (∀ x, exec d.instr n = .fault x → step s = .fault x) ∧
      n.opd = d.opd ∧ n.ilen = d.n ∧ n.istall = d.stall ∧
      (m.me.chksb = false → n = { m with ilen := d.n, istall := d.stall, opd := d.opd, imid := m.midCycles d.instr }))) ∧
  (∀ (t : State) (c : CtxId), t.charge c = { t with sides := (t.charge c).sides, pods := (t.charge c).pods } ∧
    (kindOf c = .firmware → ((t.charge c).side c.unit c.side).credit = (t.side c.unit c.side).credit - 1) ∧
    (kindOf c = .user → ((t.charge c).side c.unit c.side).lastUser = some c.slot) ∧
    (kindOf c = .keep → ((t.charge c).pod c.unit).lastKeep = some c.slot)) ∧
  (∀ (m u : State) (va off : Nat), m.me.pdid = 0 → (m.die (dieOf m.cur)).pgEn = false → m.me.views = [] → m.region va = .home off →
    off < 192 * 2 ^ 30 → m.attr va ≠ 3 → (∀ l, m.hitLoc m.req 4 va = some l → l = ⟨.dram, off⟩) →
    m.claim false va ⟨.dram, off⟩ = .ok u →
    m.fetchHalf va = .ok (u, BitVec.ofNat 16 ((u.byteAt .dram off).toNat + 256 * (u.byteAt .dram (off + 1)).toNat)))

/-- No step refuses, and a step stops only where both switch dies are lost, which R380 does not describe. -/
def Obligations.StepAnswers : Prop :=  ∀ s : State, (∃ t, step s = .next t) ∨
    (step s = .fault .noSwitchDie ∧ ∃ d r, s.events = ⟨.switchDieLost, .sdie d⟩ :: r ∧ (s.sd d).lost = false ∧ (s.sd (!d)).lost = true)

/-- Every step keeps every byte store (R16, R234) in its canonical form, which is the model's own (log entry 1): stores that
read alike are equal. -/
def Obligations.CanonicalMemoryKept : Prop := ∀ s t : State, s.memWf → step s = .next t → t.memWf

/-- The state right after reset: the values that R74, R87, R102, R247, R343, R62, R386, R409 and R33 give for package reset;
every store in its canonical form; and boot as what happens first. The switch cycle count, the power state and `MGMTEV` at 0,
and the bytes of empty stores, are the model's choice (log entries 1 and 2). -/
def Obligations.ResetValues : Prop :=  let s := State.reset
  s.memWf ∧ s.events = [⟨.packageReset, .none⟩] ∧ s.sdcyc = 0 ∧
  (∀ k, (s.core k).lpart = 2 ∧ (s.core k).share = 8 ∧ (s.core k).lsplit = 4 ∧ (s.core k).spawnlim = 64 ∧ (s.core k).migq = 16 ∧
    (s.core k).tagsel = 0 ∧ (s.core k).tagbase = 0 ∧ (s.core k).msgtrap = 0 ∧ (s.core k).migovf = 0 ∧ (s.core k).fwspill = 0) ∧
  (∀ d, (s.die d).dcyc = 0 ∧ (s.die d).agelim = 0x00100000 ∧ (s.die d).pgEn = false ∧ (s.die d).fb = [] ∧ (s.die d).power = 0) ∧
  (∀ q, (s.queue q).state = .disabled) ∧ s.engine.ageStep = 0x4000 ∧ s.engine.glim = 0x00100000 ∧
  (∀ d, (s.sd d).lns = 0x9C40 ∧ (s.sd d).eps = 8 ∧ (s.sd d).quiet = 0x10000 ∧ (s.sd d).interval = 0x01000000 ∧ (s.sd d).keep = 4 ∧
    (s.sd d).tmo = 0x00100000 ∧ (s.sd d).hostEn = false ∧ (s.sd d).err = false) ∧
  s.mgmt.pwrlim = 1500 ∧ s.mgmt.mgmtev = 0 ∧ s.mgmt.savetab = 0
end

