-- ==== Sys2Proof/Laws/Lease.lean ====
section
/-! SUPPORT. What making an access ready can do (R369 to R375): it changes only what coherence keeps, said once for each operation. -/

namespace Sys2Proof.Machine

theorem OnlyLines.refl (s : State) : OnlyLines s s := rfl

theorem OnlyLines.trans {s t u : State} (h : OnlyLines s t) (k : OnlyLines t u) : OnlyLines s u := by
  unfold OnlyLines at *
  rw [k, h]

/-- A step that changes only what coherence keeps, made for each entry of a list. -/
theorem OnlyLines.foldl {α : Type} {f : State → α → State} (h : ∀ t a, OnlyLines t (f t a)) (l : List α) (s : State) :
    OnlyLines s (l.foldl f s) := by
  induction l generalizing s with
  | nil => exact .refl s
  | cons a r ih => exact (h s a).trans (ih (f s a))

/-- What is left of a state by a change of what coherence keeps. -/
theorem OnlyLines.st {s t : State} (h : OnlyLines s t) :
    t.st = s.st ∧ t.me = s.me ∧ t.others = s.others ∧ t.cur = s.cur ∧ t.free = s.free ∧ t.cores = s.cores ∧ t.sides = s.sides := by
  rw [h]
  exact ⟨rfl, rfl, rfl, rfl, rfl, rfl, rfl⟩

theorem agentLines_only (s : State) (a : Nat) (p : Nat → Bool) (f : Holders → Holders) : OnlyLines s (s.agentLines a p f) := by
  unfold State.agentLines
  split <;> rfl

theorem agentTex_only (s : State) (a : Nat) (p : Nat → Bool) : OnlyLines s (s.agentTex a p) := by
  unfold State.agentTex
  split <;> rfl

theorem agentDrop_only (s : State) (a : Nat) (p : Nat → Bool) : OnlyLines s (s.agentDrop a p) := by
  unfold State.agentDrop
  split <;> rfl

theorem dropLease_only (s : State) (a line : Nat) : OnlyLines s (s.dropLease a line) := by
  unfold State.dropLease
  split
  · exact .refl s
  · exact ((agentDrop_only s a _).trans (agentTex_only _ a _)).trans rfl

theorem shareLease_only (s : State) (a line : Nat) : OnlyLines s (s.shareLease a line) := by
  unfold State.shareLease
  split
  · exact .refl s
  · exact (agentLines_only s a _ _).trans rfl

theorem giveUp_only (s : State) (a line : Nat) (own : Bool) : OnlyLines s (s.giveUp a line own) := by
  unfold State.giveUp
  split
  · exact dropLease_only s a line
  · split
    · exact (dropLease_only s a line).trans rfl
    · exact (shareLease_only s a line).trans rfl

theorem recall_only (s : State) (e : DirEntry) (a : Nat) (own : Bool) : OnlyLines s (s.recall e a own) := by
  refine OnlyLines.foldl (fun t b => ?_) _ s
  split
  · exact .refl t
  · split
    · rfl
    · exact giveUp_only t b _ own

theorem grantLease_only (s : State) (a line lg : Nat) (own : Bool) (left : Nat) : OnlyLines s (s.grantLease a line lg own left) := by
  unfold State.grantLease
  split <;> rfl

theorem setEntry_only (s : State) (e : DirEntry) : OnlyLines s (s.setEntry e) := rfl

theorem putDir_only (s : State) (e : DirEntry) : OnlyLines s (s.putDir e) := rfl

theorem grant_only (s : State) (e : DirEntry) (r : CohReq) : OnlyLines s (s.grant e r) :=
  (setEntry_only s _).trans (grantLease_only _ _ _ _ _ _)

theorem makeRoom_only (s : State) (sd : Bool) (line n : Nat) : OnlyLines s (s.makeRoom sd line n).1 := by
  unfold State.makeRoom
  simp only []
  split
  · exact .refl s
  · split
    · exact .refl s
    · split
      · exact (recall_only s _ _ _).trans rfl
      · exact recall_only s _ _ _

theorem makeRooms_only (s : State) (sd : Bool) (line n : Nat) : OnlyLines s (s.makeRooms sd line n).1 := by
  induction n generalizing s with
  | zero => exact .refl s
  | succ k ih =>
    unfold State.makeRooms
    simp only []
    split
    · exact (makeRoom_only s sd line k).trans (ih _)
    · exact makeRoom_only s sd line k

theorem splitAt_only (s : State) (line a : Nat) (own : Bool) : OnlyLines s (s.splitAt line a own).1 := by
  unfold State.splitAt
  split
  · exact .refl s
  · simp only []
    split
    · exact makeRooms_only s _ _ _
    · exact (makeRooms_only s _ _ _).trans rfl

theorem waitReq_only (s : State) (r : CohReq) : OnlyLines s (s.waitReq r) := rfl

theorem serveReq_only (s : State) (r : CohReq) : OnlyLines s (s.serveReq r) := by
  unfold State.serveReq
  simp only []
  split
  · exact waitReq_only s r
  · split
    · split
      · exact (makeRoom_only s _ r.line 0).trans (grant_only _ _ r)
      · exact (makeRoom_only s _ r.line 0).trans (waitReq_only _ r)
    · split
      · exact grant_only s _ r
      · have h : ∀ e f : DirEntry, OnlyLines s (((s.splitAt r.line r.agent (r.want == .write)).1.putDir e).recall f r.agent
            (r.want == .write)) :=
          fun e f => ((splitAt_only s _ _ _).trans (putDir_only _ e)).trans (recall_only _ f _ _)
        split
        · exact (splitAt_only s _ _ _).trans (waitReq_only _ r)
        · split
          · split
            · exact (h _ _).trans (waitReq_only _ r)
            · exact (h _ _).trans (grant_only _ _ r)
          · exact (h _ _).trans (waitReq_only _ r)

theorem cohRequest_only (s : State) (a line : Nat) (want : Want) : OnlyLines s (s.cohRequest a line want) := by
  unfold State.cohRequest
  simp only []
  split
  · split
    · exact .refl s
    · split
      · exact waitReq_only s _
      · exact serveReq_only s _
  · split
    · exact grantLease_only s _ _ _ _ _
    · exact .refl s

theorem acquireHost_only (s : State) (line : Nat) (own : Bool) : OnlyLines s (s.acquireHost line own) := by
  unfold State.acquireHost
  split <;> rfl

theorem obtain_only (s : State) (d line : Nat) (own : Bool) : OnlyLines s (s.obtain d line own).1 := by
  unfold State.obtain
  split
  · exact OnlyLines.trans (t := s.useLease d line) rfl (acquireHost_only _ _ _)
  · exact (cohRequest_only s _ _ _).trans (acquireHost_only _ _ _)

theorem hostWait_only {s u : State} {l : Loc} (h : s.hostWait l = some u) : OnlyLines s u := by
  unfold State.hostWait at h
  split at h
  · cases h
  · split at h
    · cases h
    · split at h <;> cases h <;> rfl

theorem wroteBack_only (s : State) (d : Nat) (line : Option Nat) : OnlyLines s (s.wroteBack d line) := by
  unfold State.wroteBack
  split <;> rfl

theorem setLine_only (s : State) (d line : Nat) (c : CacheLine) : OnlyLines s (s.setLine d line c) := by
  have h : ∀ x, OnlyLines s (s.setDie d x) := fun _ => rfl
  unfold State.setLine
  simp only []
  split <;> exact (h _).trans (wroteBack_only _ _ _)

theorem setHolders_only (s : State) (d line : Nat) (h : Holders) : OnlyLines s (s.setHolders d line h) := by
  unfold State.setHolders
  split
  · exact setLine_only s _ _ _
  · exact .refl s

theorem leavePool_only (s : State) (d line k : Nat) : OnlyLines s (s.leavePool d line k) := setHolders_only s _ _ _

theorem fitPart_only (s : State) (d k : Nat) : OnlyLines s (s.fitPart d k) := by
  unfold State.fitPart
  simp only []
  split
  · exact .refl s
  · split
    · exact leavePool_only s _ _ _
    · exact .refl s

theorem evict_only (s : State) (d line k : Nat) : OnlyLines s (s.evict d line k) := by
  unfold State.evict
  simp only []
  split
  · split
    · exact (setHolders_only s _ _ _).trans (fitPart_only _ _ _)
    · exact setHolders_only s _ _ _
  · exact .refl s

theorem fitTexels_only (s : State) (d k : Nat) : OnlyLines s (s.fitTexels d k) := by
  unfold State.fitTexels
  simp only []
  split <;> rfl

theorem fitLines_only (s : State) (d line k : Nat) : OnlyLines s (s.fitLines d line k) := by
  unfold State.fitLines
  simp only []
  split
  · exact .refl s
  · split
    · split
      · exact evict_only s _ _ _
      · exact leavePool_only s _ _ _
    · exact .refl s

theorem fitCache_only (s : State) (d line : Nat) (a : InAgent) : OnlyLines s (s.fitCache d line a) := by
  unfold State.fitCache
  split
  · exact (fitLines_only s _ _ _).trans (fitTexels_only _ _ _)
  · exact .refl s

theorem loadedLine_only (s : State) (d line : Nat) (l : Loc) (a : InAgent) (x : Bool) : OnlyLines s (s.loadedLine d line l a x) := by
  unfold State.loadedLine
  simp only []
  split
  · exact setLine_only s d line _
  · exact (setLine_only s d line _).trans (fitCache_only _ d line a)

theorem storedLine_only (s : State) (d line : Nat) (l : Loc) (a : InAgent) : OnlyLines s (s.storedLine d line l a) := by
  unfold State.storedLine
  split
  · exact setLine_only s d line _
  · exact (setLine_only s d line _).trans (fitCache_only _ d line a)

/-- An access that is ready has changed only what coherence keeps. -/
theorem claimFor_only {s t : State} {d va : Nat} {a : InAgent} {own : Bool} {l : Loc} (h : s.claimFor d a own va l = .ok t) :
    OnlyLines s t := by
  unfold State.claimFor at h
  simp only [] at h
  have hr : ∀ {v w : State}, (match (if own then v.hostWait l else none) with
      | some u => Except.error u
      | none => Except.ok v) = (Except.ok w : Except State State) → v = w := by
    intro v w hv
    split at hv
    · cases hv
    · exact Except.ok.inj hv
  split at h
  · rw [hr h]; exact .refl t
  · next e b _ =>
    have ho := obtain_only s e (va / 128) own
    split at h
    · cases h
    · split at h
      · cases h
      · next heq =>
        have := hr heq
        subst this
        cases h
        split
        · exact ho.trans (storedLine_only _ _ _ _ _)
        · exact ho.trans (loadedLine_only _ _ _ _ _ _)

theorem claim_only {s t : State} {own : Bool} {va : Nat} {l : Loc} (h : s.claim own va l = .ok t) : OnlyLines s t := by
  unfold State.claim at h
  split at h
  · next heq => cases h; exact claimFor_only heq
  · cases h

theorem claimEngine_only {s t : State} {d : Nat} {own : Bool} {va : Nat} {l : Loc} (h : s.claimEngine d own va l = .ok t) :
    OnlyLines s t := by
  unfold State.claimEngine at h
  split at h
  · split at h
    · cases h
    · cases h; exact .refl s
  · next e _ _ =>
    have ho := obtain_only s e (va / 128) own
    simp only [] at h
    split at h
    · cases h
    · split at h
      · cases h
      · cases h
        split <;> exact ho.trans (setHolders_only _ _ _ _)

theorem takeHome_only (s : State) (line : Nat) (own : Bool) : OnlyLines s (s.takeHome line own).1 := by
  unfold State.takeHome
  split
  · refine OnlyLines.foldl (fun t d => ?_) _ s
    split
    · exact dropLease_only t _ _
    · exact shareLease_only t _ _
  · simp only []
    split
    · exact .refl s
    · split
      · exact splitAt_only s _ _ _
      · exact (splitAt_only s _ _ _).trans (recall_only _ _ _ _)

theorem claimHome_only {s t : State} {own : Bool} {va : Nat} {l : Loc} (h : s.claimHome own va l = .ok t) : OnlyLines s t := by
  unfold State.claimHome at h
  split at h
  · cases h; exact .refl s
  · cases h; exact .refl s
  · simp only [] at h
    split at h
    · cases h
    · split at h
      · cases h
      · cases h; exact takeHome_only s _ _

end Sys2Proof.Machine
end

