-- ==== Sys2Proof/Laws/Memory.lean ====
section
/-! SUPPORT. The laws of the byte stores: reading after writing, and the canonical form that every memory operation keeps. -/

namespace Sys2Proof.Machine

/-! ## The canonical form -/

theorem Memory.wfFrom_mono {m : Memory} {lo lo2 : Nat} (h : lo2 ≤ lo) (w : m.wfFrom lo = true) : m.wfFrom lo2 = true := by
  cases m with
  | nil => rfl
  | cons c r =>
    obtain ⟨a, v⟩ := c
    simp only [Memory.wfFrom, Bool.and_eq_true, decide_eq_true_eq] at w ⊢
    exact ⟨⟨by omega, w.1.2⟩, w.2⟩

theorem Memory.wfFrom_wf {m : Memory} {lo : Nat} (w : m.wfFrom lo = true) : m.wf = true := Memory.wfFrom_mono (Nat.zero_le _) w

/-- Nothing is listed below the bound of a canonical list. -/
theorem Memory.read_below {m : Memory} {lo a : Nat} (w : m.wfFrom lo = true) (h : a < lo) : m.read a = 0 := by
  cases m with
  | nil => rfl
  | cons c r =>
    obtain ⟨k, v⟩ := c
    simp only [Memory.wfFrom, Bool.and_eq_true, decide_eq_true_eq] at w
    simp only [Memory.read]
    rw [if_neg (by omega), if_pos (by omega)]

theorem Memory.wfFrom_cons {lo a : Nat} {v : Byte} {r : Memory} :
    Memory.wfFrom lo ((a, v) :: r) = true ↔ lo ≤ a ∧ v ≠ 0 ∧ Memory.wfFrom (a + 1) r = true := by
  simp only [Memory.wfFrom, Bool.and_eq_true, decide_eq_true_eq, bne_iff_ne, ne_eq, and_assoc]

theorem Memory.write_wfFrom {m : Memory} {lo a : Nat} {v : Byte} (w : m.wfFrom lo = true) (h : lo ≤ a) :
    (m.write a v).wfFrom lo = true := by
  induction m generalizing lo with
  | nil =>
    simp only [Memory.write]
    split
    · rfl
    · next hv => exact Memory.wfFrom_cons.2 ⟨h, hv, rfl⟩
  | cons c r ih =>
    obtain ⟨k, u⟩ := c
    have w1 := Memory.wfFrom_cons.1 w
    simp only [Memory.write]
    split
    · next hk =>
      subst hk
      split
      · exact Memory.wfFrom_mono (by omega) w1.2.2
      · next hv => exact Memory.wfFrom_cons.2 ⟨h, hv, w1.2.2⟩
    · split
      · split
        · exact w
        · next hk hv => exact Memory.wfFrom_cons.2 ⟨h, hv, Memory.wfFrom_cons.2 ⟨by omega, w1.2⟩⟩
      · exact Memory.wfFrom_cons.2 ⟨w1.1, w1.2.1, ih w1.2.2 (by omega)⟩

/-- A write keeps the canonical form. -/
theorem Memory.write_wf {m : Memory} {a : Nat} {v : Byte} (w : m.wf = true) : (m.write a v).wf = true :=
  Memory.write_wfFrom w (Nat.zero_le _)

theorem Memory.writeN_wf {m : Memory} {a : Nat} {l : List Byte} (w : m.wf = true) : (m.writeN a l).wf = true := by
  induction l generalizing m a with
  | nil => exact w
  | cons v r ih => exact ih (Memory.write_wf w)

theorem Memory.filter_wfFrom {m : Memory} {lo : Nat} (p : Host.Cell → Bool) (w : m.wfFrom lo = true) :
    Memory.wfFrom lo (m.filter p) = true := by
  induction m generalizing lo with
  | nil => rfl
  | cons c r ih =>
    obtain ⟨k, u⟩ := c
    simp only [Memory.wfFrom, Bool.and_eq_true, decide_eq_true_eq] at w
    simp only [List.filter]
    split
    · simp only [Memory.wfFrom, Bool.and_eq_true, decide_eq_true_eq]
      exact ⟨w.1, ih w.2⟩
    · exact Memory.wfFrom_mono (by omega) (ih w.2)

/-- Clearing a range keeps the canonical form. -/
theorem Memory.clear_wf {m : Memory} {lo hi : Nat} (w : m.wf = true) : (m.clear lo hi).wf = true := Memory.filter_wfFrom _ w

/-! ## Reading after writing -/

theorem Memory.read_write_from {m : Memory} {lo a b : Nat} {v : Byte} (w : m.wfFrom lo = true) :
    (m.write a v).read b = if b = a then v else m.read b := by
  induction m generalizing lo with
  | nil =>
    simp only [Memory.write, Memory.read]
    split
    · next hv => subst hv; simp [Memory.read]
    · simp only [Memory.read]
      split
      · next h => simp [h.symm]
      · next h =>
        rw [if_neg (show ¬b = a from fun e => h e.symm)]
        split <;> rfl
  | cons c r ih =>
    obtain ⟨k, u⟩ := c
    simp only [Memory.wfFrom, Bool.and_eq_true, decide_eq_true_eq] at w
    simp only [Memory.write]
    by_cases hk : k = a
    · subst hk
      rw [if_pos rfl]
      by_cases hv : v = 0
      · subst hv
        rw [if_pos rfl]
        by_cases hb : b = k
        · subst hb
          rw [if_pos rfl, Memory.read_below w.2 (by omega)]
        · rw [if_neg hb]
          simp only [Memory.read]
          rw [if_neg (fun e => hb e.symm)]
          split
          · next h => exact Memory.read_below w.2 (by omega)
          · rfl
      · rw [if_neg hv]
        simp only [Memory.read]
        by_cases hb : b = k
        · subst hb; simp
        · rw [if_neg (show ¬k = b from fun e => hb e.symm), if_neg hb, if_neg (show ¬k = b from fun e => hb e.symm)]
    · rw [if_neg hk]
      by_cases ha : a < k
      · rw [if_pos ha]
        by_cases hv : v = 0
        · subst hv
          rw [if_pos rfl]
          by_cases hb : b = a
          · subst hb
            rw [if_pos rfl]
            simp only [Memory.read]
            rw [if_neg hk, if_pos ha]
          · rw [if_neg hb]
        · rw [if_neg hv]
          by_cases hb : b = a
          · subst hb; simp [Memory.read]
          · rw [if_neg hb]
            simp only [Memory.read]
            rw [if_neg (fun e => hb e.symm)]
            by_cases h1 : b < a
            · rw [if_pos h1, if_neg (by omega), if_pos (by omega)]
            · rw [if_neg h1]
      · rw [if_neg ha]
        simp only [Memory.read]
        by_cases hb : k = b
        · subst hb
          rw [if_pos rfl, if_neg hk, if_pos rfl]
        · rw [if_neg hb, if_neg hb]
          by_cases h1 : b < k
          · rw [if_pos h1, if_pos h1, if_neg (by omega)]
          · rw [if_neg h1, if_neg h1, ih w.2]

/-- A byte reads as it was last written, and every other byte as before. -/
theorem Memory.read_write {m : Memory} {a b : Nat} {v : Byte} (w : m.wf = true) :
    (m.write a v).read b = if b = a then v else m.read b := Memory.read_write_from w

/-- A byte outside a run that is written reads as before. -/
theorem Memory.read_writeN_out {m : Memory} {a b : Nat} {l : List Byte} (w : m.wf = true) (h : b < a ∨ a + l.length ≤ b) :
    (m.writeN a l).read b = m.read b := by
  induction l generalizing m a with
  | nil => rfl
  | cons v r ih =>
    simp only [List.length_cons] at h
    rw [Memory.writeN, ih (Memory.write_wf w) (by omega), Memory.read_write w, if_neg (by omega)]

/-- A byte of a run that is written reads as it was written. -/
theorem Memory.read_writeN_in {m : Memory} {a k : Nat} {l : List Byte} (w : m.wf = true) (h : k < l.length) :
    (m.writeN a l).read (a + k) = l[k] := by
  induction l generalizing m a k with
  | nil => simp at h
  | cons v r ih =>
    cases k with
    | zero => rw [Memory.writeN, Nat.add_zero, Memory.read_writeN_out (Memory.write_wf w) (by omega), Memory.read_write w]; simp
    | succ j =>
      rw [Memory.writeN, show a + (j + 1) = a + 1 + j by omega, ih (Memory.write_wf w) (by simpa using h)]
      rfl

/-! ## Numbers as bytes (R16) -/

@[simp] theorem length_toBytes (n v : Nat) : (toBytes n v).length = n := by
  induction n generalizing v with
  | zero => rfl
  | succ k ih => simp [toBytes, ih]

@[simp] theorem length_readN (m : Memory) (a n : Nat) : (m.readN a n).length = n := by
  induction n generalizing a with
  | zero => rfl
  | succ k ih => simp [Memory.readN, ih]

/-! ## The stores -/

@[simp] theorem Stores.put_of (st : Stores) (sp : Space) (m : Memory) : (st.put sp m).of sp = m := by cases sp <;> rfl

theorem Stores.put_of_ne {st : Stores} {sp sp2 : Space} {m : Memory} (h : sp2 ≠ sp) : (st.put sp m).of sp2 = st.of sp2 := by
  cases sp <;> cases sp2 <;> first | rfl | exact absurd rfl h

@[simp] theorem Stores.put_podScratch (st : Stores) (sp : Space) (m : Memory) : (st.put sp m).podScratch = st.podScratch := by
  cases sp <;> rfl

theorem Stores.of_wf {st : Stores} {sp : Space} (w : st.wf = true) : (st.of sp).wf = true := by
  simp only [Stores.wf, Bool.and_eq_true] at w
  cases sp <;> simp [Stores.of, w]

theorem Stores.put_wf {st : Stores} {sp : Space} {m : Memory} (w : st.wf = true) (h : m.wf = true) : (st.put sp m).wf = true := by
  simp only [Stores.wf, Bool.and_eq_true] at w ⊢
  cases sp <;> simp [Stores.put, w, h]

/-- Writing bytes at a location keeps the canonical form of every store. -/
theorem Stores.set_wf {st : Stores} {l : Loc} {bs : List Byte} (w : st.wf = true) : (st.set l bs).wf = true :=
  Stores.put_wf w (Memory.writeN_wf (Stores.of_wf w))

/-- What a write of bytes at a location does to every byte of every store. -/
theorem Stores.set_of {st : Stores} {l : Loc} {bs : List Byte} (sp : Space) :
    (st.set l bs).of sp = if sp = l.sp then (st.of l.sp).writeN l.a bs else st.of sp := by
  unfold Stores.set
  split
  · next h => subst h; simp
  · next h => exact Stores.put_of_ne h

end Sys2Proof.Machine
end

