-- ==== Sys2Proof/Laws/Operands.lean ====
section
/-! SUPPORT. The `x` registers, and what completing, parking and stopping leave: each said once. -/

namespace Sys2Proof.Machine

/-! ## Registers (R80, R81, R96) -/

/-- A register other than the one written keeps its value. -/
theorem xGet_xSet_ne (x : Vector Word 32) (d r : XReg) (v : Word) (h : r ≠ d) : xGet (xSet x d v) r = xGet x r := by
  unfold xGet xSet
  split
  · rfl
  · have e : d.toNat ≠ r.toNat := fun e => h (BitVec.eq_of_toNat_eq e.symm)
    simp [e]

/-- The register written holds the value; `x0` keeps its own. -/
theorem xGet_xSet_eq (x : Vector Word 32) (d : XReg) (v : Word) : xGet (xSet x d v) d = if d = 0 then xGet x 0 else v := by
  unfold xGet xSet
  split
  · next h => subst h; rfl
  · simp

/-- A register without a pending producer reads as it holds. -/
theorem rx_of_safe {s : State} {r : XReg} (h : hazardOf s.me.haz r = none) (h0 : r ≠ 0) : s.rx r = xGet s.me.x r := by
  unfold State.rx
  rw [if_neg h0, h]

/-- No producer of a register is pending once it has been taken off the scoreboard. -/
theorem hazardOf_del (l : List Hazard) (r : XReg) : hazardOf (hazardDel l r) r = none := by
  simp [hazardOf, hazardDel, List.find?_eq_none]

/-! ## Completing an instruction -/

/-- Completing an instruction changes the program counter, the scoreboard and `MISSACK` only. -/
theorem onlyPc_goto (s : State) (p : VAddr) : OnlyPc s (s.goto p) := rfl

theorem sameBytes_goto (s : State) (p : VAddr) : SameBytes s (s.goto p) := ⟨fun _ _ => rfl, fun _ => rfl⟩

theorem nextChain_finish (s : State) : NextChain s s.finish := rfl

theorem sameBytes_refl (s : State) : SameBytes s s := ⟨fun _ _ => rfl, fun _ => rfl⟩

theorem sameBytes_trans {s t u : State} (h : SameBytes s t) (k : SameBytes t u) : SameBytes s u :=
  ⟨fun sp a => (k.1 sp a).trans (h.1 sp a), fun a => (k.2 a).trans (h.2 a)⟩

/-- A state with the same stores has the same bytes. -/
theorem sameBytes_of_st {s t : State} (h : t.st = s.st) : SameBytes s t := by
  refine ⟨fun sp a => ?_, fun a => ?_⟩ <;> simp [State.byteAt, h]

/-- An instruction that writes one interlocked or `SIMPLE` result and completes. -/
theorem setsX_wx (s : State) (d : XReg) (v : Word) : SetsX s (s.wx d v).finish d v := by
  refine ⟨?_, ?_, ⟨?_, ?_⟩, ?_⟩
  · simp [HoldsX, State.wx, State.finish, State.goto, State.withMe, xGet_xSet_eq]
  · simp [NextChain, State.wx, State.finish, State.goto, State.withMe, State.nextPc]
  · intro r hr
    simp only [List.mem_singleton] at hr
    simp [State.wx, State.finish, State.goto, State.withMe, xGet_xSet_ne _ _ _ _ hr]
  · simp [State.wx, State.finish, State.goto, State.withMe]
  · exact ⟨fun _ _ => rfl, fun _ => rfl⟩

/-- An instruction that writes one result of a latency class and completes. -/
theorem setsX_wxLat (s : State) (d : XReg) (v : Word) (n : Nat) : SetsX s (s.wxLat d v n).finish d v := by
  unfold State.wxLat
  split
  · next h =>
    subst h
    refine ⟨?_, ?_, ⟨?_, ?_⟩, ?_⟩
    · simp [HoldsX, State.finish, State.goto, State.withMe]
    · simp [NextChain, State.finish, State.goto, State.withMe, State.nextPc]
    · intro r hr; rfl
    · simp [State.finish, State.goto, State.withMe]
    · exact ⟨fun _ _ => rfl, fun _ => rfl⟩
  · refine ⟨?_, ?_, ⟨?_, ?_⟩, ?_⟩
    · simp [HoldsX, State.finish, State.goto, State.withMe, xGet_xSet_eq]
    · simp [NextChain, State.finish, State.goto, State.withMe, State.nextPc]
    · intro r hr
      simp only [List.mem_singleton] at hr
      simp [State.finish, State.goto, State.withMe, xGet_xSet_ne _ _ _ _ hr]
    · simp [State.finish, State.goto, State.withMe]
    · exact ⟨fun _ _ => rfl, fun _ => rfl⟩

/-- Completion of an instruction with one interlocked result. -/
theorem answers_wx {s : State} {i : Instr} {d : XReg} {v w : Word} (h : exec i s = .next (s.wx d v).finish) (e : v = w) :
    Answers i s (fun t => SetsX s t d w) := ⟨_, h, e ▸ setsX_wx s d v⟩

/-- Completion of an instruction with one result of a latency class. -/
theorem answers_wxLat {s : State} {i : Instr} {d : XReg} {v w : Word} {n : Nat} (h : exec i s = .next (s.wxLat d v n).finish)
    (e : v = w) : Answers i s (fun t => SetsX s t d w) := ⟨_, h, e ▸ setsX_wxLat s d v n⟩

/-! ## Stops -/

/-- A part of a meaning ends in the state it leaves, or in the stop taken. -/
theorem act_next (s : State) (r : Except Stop State) : act s r = .next (match r with | .ok t => t | .error e => s.stop e) := by
  cases r <;> rfl

/-- Every meaning that is a part with stops answers a next state. -/
theorem act_answers (s : State) (r : Except Stop State) : ∃ t, act s r = .next t := ⟨_, act_next s r⟩

/-- Raising a management event changes `MGMTEV` and what the host sees only. -/
theorem raiseMgmt_frame (s : State) (n : Nat) :
    (s.raiseMgmt n).me = s.me ∧ (s.raiseMgmt n).cur = s.cur ∧ (s.raiseMgmt n).others = s.others ∧ (s.raiseMgmt n).st = s.st ∧
    (s.raiseMgmt n).dies = s.dies ∧ (s.raiseMgmt n).events = s.events := by
  unfold State.raiseMgmt
  split <;> exact ⟨rfl, rfl, rfl, rfl, rfl, rfl⟩

/-- Offering a record changes its die's buffer, `MGMTEV` and what the host sees only. -/
theorem offerRecord_frame (s : State) (d : Nat) (r : FaultRec) :
    s.offerRecord d r = { s with dies := (s.offerRecord d r).dies, mgmt := (s.offerRecord d r).mgmt, hostOut := (s.offerRecord d r).hostOut } := by
  unfold State.offerRecord State.raiseMgmt
  simp only []
  split
  · rfl
  · split <;> rfl

/-- Taking a trap or fault, without a freeze: the context, the record offered, `MGMTEV` and what the host sees. -/
theorem takeFault_frame (s : State) (code : BitVec 8) (info : BitVec 16) (fa : Word) :
    (s.takeFault code info fa false).me = s.me.faulted code info fa false ∧ (s.takeFault code info fa false).cur = s.cur ∧
    (s.takeFault code info fa false).others = s.others ∧ (s.takeFault code info fa false).st = s.st ∧
    (s.takeFault code info fa false).dies = ((s.withMe (s.me.faulted code info fa false)).offerRecord (dieOf s.cur)
      (s.recordOf code info fa)).dies := by
  have ho := offerRecord_frame (s.withMe (s.me.faulted code info fa false)) (dieOf s.cur) (s.recordOf code info fa)
  unfold State.takeFault
  generalize (s.withMe (s.me.faulted code info fa false)).offerRecord (dieOf s.cur) (s.recordOf code info fa) = o at ho ⊢
  have h0 : o.me = s.me.faulted code info fa false ∧ o.cur = s.cur ∧ o.others = s.others ∧ o.st = s.st := by
    rw [ho]
    exact ⟨rfl, rfl, rfl, rfl⟩
  cases isFw s.cur
  · exact ⟨h0.1, h0.2.1, h0.2.2.1, h0.2.2.2, rfl⟩
  · obtain ⟨h1, h2, h3, h4, h5, -⟩ := raiseMgmt_frame o 1
    exact ⟨h1.trans h0.1, h2.trans h0.2.1, h3.trans h0.2.2.1, h4.trans h0.2.2.2, h5⟩

/-- A stop of a context whose last record has been accepted is taken. -/
theorem stop_of_accepted {s : State} (e : Stop) (h : s.recordHeld s.cur = false) : s.stop e = s.takeStop e := by
  simp [State.stop, h]

/-- A trap or fault as the statements say it, where no record of the context is held. -/
theorem tookFault_stop {s : State} (code : BitVec 8) (info : BitVec 16) (fa : Word) (hr : s.recordHeld s.cur = false) :
    TookFault s (s.stop (.trap code info fa)) code info fa := by
  obtain ⟨h, hc, -, -, -⟩ := takeFault_frame s code info fa
  rw [stop_of_accepted _ hr]
  simp only [TookFault, State.takeStop, h, hc, Ctx.faulted, and_self]

end Sys2Proof.Machine
end

