-- ==== Sys2Proof/Laws/State.lean ====
section
/-! SUPPORT. What the named updates of a state leave in each field, and the laws of the tables that it holds. -/

namespace Sys2Proof.Machine

/-! ## Tables -/

@[simp] theorem SMap.get_set_eq {α : Type} (m : SMap α) (d : α) (k : Nat) (v : α) : (m.set k v).get d k = v := by
  induction m with
  | nil => simp [SMap.set, SMap.get]
  | cons e r ih =>
    obtain ⟨j, w⟩ := e
    simp only [SMap.set]
    split
    · simp [SMap.get]
    · next h =>
      split
      · simp [SMap.get]
      · rw [SMap.get, if_neg h]
        exact ih

theorem SMap.get_set_ne {α : Type} (m : SMap α) (d : α) {k n : Nat} (v : α) (h : n ≠ k) : (m.set k v).get d n = m.get d n := by
  induction m with
  | nil => simp [SMap.set, SMap.get, h.symm]
  | cons e r ih =>
    obtain ⟨j, w⟩ := e
    simp only [SMap.set]
    split
    · next hj =>
      subst hj
      simp [SMap.get, h.symm]
    · split
      · simp [SMap.get, h.symm]
      · simp only [SMap.get]
        split
        · rfl
        · exact ih

/-! ## Contexts -/

theorem ctxFind_put_eq (l : List (CtxId × Ctx)) (c : CtxId) (x : Ctx) : ctxFind (ctxPut l c x) c = some x := by
  induction l with
  | nil => simp [ctxPut, ctxFind]
  | cons e r ih =>
    obtain ⟨k, y⟩ := e
    simp only [ctxPut]
    split
    · simp [ctxFind]
    · next h =>
      rw [ctxFind, if_neg h]
      exact ih

theorem ctxFind_put_ne (l : List (CtxId × Ctx)) {c e : CtxId} (x : Ctx) (h : e ≠ c) : ctxFind (ctxPut l c x) e = ctxFind l e := by
  induction l with
  | nil => simp [ctxPut, ctxFind, h.symm]
  | cons p r ih =>
    obtain ⟨k, y⟩ := p
    simp only [ctxPut]
    split
    · next hk =>
      subst hk
      simp [ctxFind, h.symm]
    · simp only [ctxFind]
      split
      · rfl
      · exact ih

/-- A context that has been set is what it was set to. -/
@[simp] theorem State.ctx_setCtx_eq (s : State) (c : CtxId) (x : Ctx) : (s.setCtx c x).ctx c = x := by
  unfold State.setCtx State.ctx
  split
  · simp
  · simp [ctxFind_put_eq]

/-- Every other context is as it was. -/
theorem State.ctx_setCtx_ne (s : State) {c e : CtxId} (x : Ctx) (h : e ≠ c) : (s.setCtx c x).ctx e = s.ctx e := by
  unfold State.setCtx State.ctx
  split
  · next hc =>
    subst hc
    simp [h]
  · split
    · rfl
    · simp [ctxFind_put_ne _ _ h]

/-! ## Units -/

@[simp] theorem State.core_setCore (s : State) (k : Nat) (c : Core) : (s.setCore k c).core k = c := by simp [State.core, State.setCore]
@[simp] theorem State.die_setDie (s : State) (k : Nat) (d : Die) : (s.setDie k d).die k = d := by simp [State.die, State.setDie]
@[simp] theorem State.pod_setPod (s : State) (k : Nat) (p : Pod) : (s.setPod k p).pod k = p := by simp [State.pod, State.setPod]
@[simp] theorem State.side_setSide (s : State) (k : Nat) (b : Bool) (x : Side) : (s.setSide k b x).side k b = x := by
  simp [State.side, State.setSide]
@[simp] theorem State.domain_setDomain (s : State) (k : Nat) (d : Domain) : (s.setDomain k d).domain k = d := by
  simp [State.domain, State.setDomain]
@[simp] theorem State.queue_setQueue (s : State) (k : Nat) (q : Queue) : (s.setQueue k q).queue k = q := by
  simp [State.queue, State.setQueue]
@[simp] theorem State.sd_setSd (s : State) (b : Bool) (x : SwitchDie) : (s.setSd b x).sd b = x := by cases b <;> rfl

/-! ## Fields of a state after each named update -/

@[simp] theorem State.withMe_cur (s : State) (x : Ctx) : (s.withMe x).cur = s.cur := rfl
@[simp] theorem State.withMe_others (s : State) (x : Ctx) : (s.withMe x).others = s.others := rfl
@[simp] theorem State.withMe_ilen (s : State) (x : Ctx) : (s.withMe x).ilen = s.ilen := rfl
@[simp] theorem State.withMe_istall (s : State) (x : Ctx) : (s.withMe x).istall = s.istall := rfl
@[simp] theorem State.withMe_imid (s : State) (x : Ctx) : (s.withMe x).imid = s.imid := rfl
@[simp] theorem State.withMe_held (s : State) (x : Ctx) : (s.withMe x).held = s.held := rfl
@[simp] theorem State.withMe_free (s : State) (x : Ctx) : (s.withMe x).free = s.free := rfl
@[simp] theorem State.withMe_opd (s : State) (x : Ctx) : (s.withMe x).opd = s.opd := rfl
@[simp] theorem State.withMe_events (s : State) (x : Ctx) : (s.withMe x).events = s.events := rfl
@[simp] theorem State.withMe_todo (s : State) (x : Ctx) : (s.withMe x).todo = s.todo := rfl
@[simp] theorem State.withMe_st (s : State) (x : Ctx) : (s.withMe x).st = s.st := rfl
@[simp] theorem State.withMe_sides (s : State) (x : Ctx) : (s.withMe x).sides = s.sides := rfl
@[simp] theorem State.withMe_cores (s : State) (x : Ctx) : (s.withMe x).cores = s.cores := rfl
@[simp] theorem State.withMe_dies (s : State) (x : Ctx) : (s.withMe x).dies = s.dies := rfl
@[simp] theorem State.withMe_pods (s : State) (x : Ctx) : (s.withMe x).pods = s.pods := rfl
@[simp] theorem State.withMe_pkg (s : State) (x : Ctx) : (s.withMe x).pkg = s.pkg := rfl
@[simp] theorem State.withMe_domains (s : State) (x : Ctx) : (s.withMe x).domains = s.domains := rfl
@[simp] theorem State.withMe_queues (s : State) (x : Ctx) : (s.withMe x).queues = s.queues := rfl
@[simp] theorem State.withMe_packets (s : State) (x : Ctx) : (s.withMe x).packets = s.packets := rfl
@[simp] theorem State.withMe_saved (s : State) (x : Ctx) : (s.withMe x).saved = s.saved := rfl
@[simp] theorem State.withMe_preempts (s : State) (x : Ctx) : (s.withMe x).preempts = s.preempts := rfl
@[simp] theorem State.withMe_kills (s : State) (x : Ctx) : (s.withMe x).kills = s.kills := rfl
@[simp] theorem State.withMe_engine (s : State) (x : Ctx) : (s.withMe x).engine = s.engine := rfl
@[simp] theorem State.withMe_cycle (s : State) (x : Ctx) : (s.withMe x).cycle = s.cycle := rfl
@[simp] theorem State.withMe_empties (s : State) (x : Ctx) : (s.withMe x).empties = s.empties := rfl
@[simp] theorem State.withMe_takes (s : State) (x : Ctx) : (s.withMe x).takes = s.takes := rfl
@[simp] theorem State.withMe_bv (s : State) (x : Ctx) : (s.withMe x).bv = s.bv := rfl
@[simp] theorem State.withMe_sets (s : State) (x : Ctx) : (s.withMe x).sets = s.sets := rfl
@[simp] theorem State.withMe_collectives (s : State) (x : Ctx) : (s.withMe x).collectives = s.collectives := rfl
@[simp] theorem State.withMe_mixtrap (s : State) (x : Ctx) : (s.withMe x).mixtrap = s.mixtrap := rfl
@[simp] theorem State.withMe_strong (s : State) (x : Ctx) : (s.withMe x).strong = s.strong := rfl
@[simp] theorem State.withMe_strongWrites (s : State) (x : Ctx) : (s.withMe x).strongWrites = s.strongWrites := rfl
@[simp] theorem State.withMe_dir (s : State) (x : Ctx) : (s.withMe x).dir = s.dir := rfl
@[simp] theorem State.withMe_hostHeld (s : State) (x : Ctx) : (s.withMe x).hostHeld = s.hostHeld := rfl
@[simp] theorem State.withMe_hostCopies (s : State) (x : Ctx) : (s.withMe x).hostCopies = s.hostCopies := rfl
@[simp] theorem State.withMe_hostPend (s : State) (x : Ctx) : (s.withMe x).hostPend = s.hostPend := rfl
@[simp] theorem State.withMe_cohWait (s : State) (x : Ctx) : (s.withMe x).cohWait = s.cohWait := rfl
@[simp] theorem State.withMe_ckptOwed (s : State) (x : Ctx) : (s.withMe x).ckptOwed = s.ckptOwed := rfl
@[simp] theorem State.withMe_ckptSince (s : State) (x : Ctx) : (s.withMe x).ckptSince = s.ckptSince := rfl
@[simp] theorem State.withMe_hostWrites (s : State) (x : Ctx) : (s.withMe x).hostWrites = s.hostWrites := rfl
@[simp] theorem State.withMe_leases (s : State) (x : Ctx) : (s.withMe x).leases = s.leases := rfl
@[simp] theorem State.withMe_sd0 (s : State) (x : Ctx) : (s.withMe x).sd0 = s.sd0 := rfl
@[simp] theorem State.withMe_sd1 (s : State) (x : Ctx) : (s.withMe x).sd1 = s.sd1 := rfl
@[simp] theorem State.withMe_peers (s : State) (x : Ctx) : (s.withMe x).peers = s.peers := rfl
@[simp] theorem State.withMe_peerMap (s : State) (x : Ctx) : (s.withMe x).peerMap = s.peerMap := rfl
@[simp] theorem State.withMe_mgmt (s : State) (x : Ctx) : (s.withMe x).mgmt = s.mgmt := rfl
@[simp] theorem State.withMe_link (s : State) (x : Ctx) : (s.withMe x).link = s.link := rfl
@[simp] theorem State.withMe_hostOut (s : State) (x : Ctx) : (s.withMe x).hostOut = s.hostOut := rfl

@[simp] theorem State.setCore_cur (s : State) (k : Nat) (c : Core) : (s.setCore k c).cur = s.cur := rfl
@[simp] theorem State.setCore_me (s : State) (k : Nat) (c : Core) : (s.setCore k c).me = s.me := rfl
@[simp] theorem State.setCore_others (s : State) (k : Nat) (c : Core) : (s.setCore k c).others = s.others := rfl
@[simp] theorem State.setCore_ilen (s : State) (k : Nat) (c : Core) : (s.setCore k c).ilen = s.ilen := rfl
@[simp] theorem State.setCore_istall (s : State) (k : Nat) (c : Core) : (s.setCore k c).istall = s.istall := rfl
@[simp] theorem State.setCore_imid (s : State) (k : Nat) (c : Core) : (s.setCore k c).imid = s.imid := rfl
@[simp] theorem State.setCore_held (s : State) (k : Nat) (c : Core) : (s.setCore k c).held = s.held := rfl
@[simp] theorem State.setCore_free (s : State) (k : Nat) (c : Core) : (s.setCore k c).free = s.free := rfl
@[simp] theorem State.setCore_opd (s : State) (k : Nat) (c : Core) : (s.setCore k c).opd = s.opd := rfl
@[simp] theorem State.setCore_events (s : State) (k : Nat) (c : Core) : (s.setCore k c).events = s.events := rfl
@[simp] theorem State.setCore_todo (s : State) (k : Nat) (c : Core) : (s.setCore k c).todo = s.todo := rfl
@[simp] theorem State.setCore_st (s : State) (k : Nat) (c : Core) : (s.setCore k c).st = s.st := rfl
@[simp] theorem State.setCore_sides (s : State) (k : Nat) (c : Core) : (s.setCore k c).sides = s.sides := rfl
@[simp] theorem State.setCore_dies (s : State) (k : Nat) (c : Core) : (s.setCore k c).dies = s.dies := rfl
@[simp] theorem State.setCore_pods (s : State) (k : Nat) (c : Core) : (s.setCore k c).pods = s.pods := rfl
@[simp] theorem State.setCore_pkg (s : State) (k : Nat) (c : Core) : (s.setCore k c).pkg = s.pkg := rfl
@[simp] theorem State.setCore_domains (s : State) (k : Nat) (c : Core) : (s.setCore k c).domains = s.domains := rfl
@[simp] theorem State.setCore_queues (s : State) (k : Nat) (c : Core) : (s.setCore k c).queues = s.queues := rfl
@[simp] theorem State.setCore_packets (s : State) (k : Nat) (c : Core) : (s.setCore k c).packets = s.packets := rfl
@[simp] theorem State.setCore_saved (s : State) (k : Nat) (c : Core) : (s.setCore k c).saved = s.saved := rfl
@[simp] theorem State.setCore_preempts (s : State) (k : Nat) (c : Core) : (s.setCore k c).preempts = s.preempts := rfl
@[simp] theorem State.setCore_kills (s : State) (k : Nat) (c : Core) : (s.setCore k c).kills = s.kills := rfl
@[simp] theorem State.setCore_engine (s : State) (k : Nat) (c : Core) : (s.setCore k c).engine = s.engine := rfl
@[simp] theorem State.setCore_cycle (s : State) (k : Nat) (c : Core) : (s.setCore k c).cycle = s.cycle := rfl
@[simp] theorem State.setCore_empties (s : State) (k : Nat) (c : Core) : (s.setCore k c).empties = s.empties := rfl
@[simp] theorem State.setCore_takes (s : State) (k : Nat) (c : Core) : (s.setCore k c).takes = s.takes := rfl
@[simp] theorem State.setCore_bv (s : State) (k : Nat) (c : Core) : (s.setCore k c).bv = s.bv := rfl
@[simp] theorem State.setCore_sets (s : State) (k : Nat) (c : Core) : (s.setCore k c).sets = s.sets := rfl
@[simp] theorem State.setCore_collectives (s : State) (k : Nat) (c : Core) : (s.setCore k c).collectives = s.collectives := rfl
@[simp] theorem State.setCore_mixtrap (s : State) (k : Nat) (c : Core) : (s.setCore k c).mixtrap = s.mixtrap := rfl
@[simp] theorem State.setCore_strong (s : State) (k : Nat) (c : Core) : (s.setCore k c).strong = s.strong := rfl
@[simp] theorem State.setCore_strongWrites (s : State) (k : Nat) (c : Core) : (s.setCore k c).strongWrites = s.strongWrites := rfl
@[simp] theorem State.setCore_dir (s : State) (k : Nat) (c : Core) : (s.setCore k c).dir = s.dir := rfl
@[simp] theorem State.setCore_hostHeld (s : State) (k : Nat) (c : Core) : (s.setCore k c).hostHeld = s.hostHeld := rfl
@[simp] theorem State.setCore_hostCopies (s : State) (k : Nat) (c : Core) : (s.setCore k c).hostCopies = s.hostCopies := rfl
@[simp] theorem State.setCore_hostPend (s : State) (k : Nat) (c : Core) : (s.setCore k c).hostPend = s.hostPend := rfl
@[simp] theorem State.setCore_cohWait (s : State) (k : Nat) (c : Core) : (s.setCore k c).cohWait = s.cohWait := rfl
@[simp] theorem State.setCore_ckptOwed (s : State) (k : Nat) (c : Core) : (s.setCore k c).ckptOwed = s.ckptOwed := rfl
@[simp] theorem State.setCore_ckptSince (s : State) (k : Nat) (c : Core) : (s.setCore k c).ckptSince = s.ckptSince := rfl
@[simp] theorem State.setCore_hostWrites (s : State) (k : Nat) (c : Core) : (s.setCore k c).hostWrites = s.hostWrites := rfl
@[simp] theorem State.setCore_leases (s : State) (k : Nat) (c : Core) : (s.setCore k c).leases = s.leases := rfl
@[simp] theorem State.setCore_sd0 (s : State) (k : Nat) (c : Core) : (s.setCore k c).sd0 = s.sd0 := rfl
@[simp] theorem State.setCore_sd1 (s : State) (k : Nat) (c : Core) : (s.setCore k c).sd1 = s.sd1 := rfl
@[simp] theorem State.setCore_peers (s : State) (k : Nat) (c : Core) : (s.setCore k c).peers = s.peers := rfl
@[simp] theorem State.setCore_peerMap (s : State) (k : Nat) (c : Core) : (s.setCore k c).peerMap = s.peerMap := rfl
@[simp] theorem State.setCore_mgmt (s : State) (k : Nat) (c : Core) : (s.setCore k c).mgmt = s.mgmt := rfl
@[simp] theorem State.setCore_link (s : State) (k : Nat) (c : Core) : (s.setCore k c).link = s.link := rfl
@[simp] theorem State.setCore_hostOut (s : State) (k : Nat) (c : Core) : (s.setCore k c).hostOut = s.hostOut := rfl

@[simp] theorem State.setDie_cur (s : State) (k : Nat) (d : Die) : (s.setDie k d).cur = s.cur := rfl
@[simp] theorem State.setDie_me (s : State) (k : Nat) (d : Die) : (s.setDie k d).me = s.me := rfl
@[simp] theorem State.setDie_others (s : State) (k : Nat) (d : Die) : (s.setDie k d).others = s.others := rfl
@[simp] theorem State.setDie_ilen (s : State) (k : Nat) (d : Die) : (s.setDie k d).ilen = s.ilen := rfl
@[simp] theorem State.setDie_istall (s : State) (k : Nat) (d : Die) : (s.setDie k d).istall = s.istall := rfl
@[simp] theorem State.setDie_imid (s : State) (k : Nat) (d : Die) : (s.setDie k d).imid = s.imid := rfl
@[simp] theorem State.setDie_held (s : State) (k : Nat) (d : Die) : (s.setDie k d).held = s.held := rfl
@[simp] theorem State.setDie_free (s : State) (k : Nat) (d : Die) : (s.setDie k d).free = s.free := rfl
@[simp] theorem State.setDie_opd (s : State) (k : Nat) (d : Die) : (s.setDie k d).opd = s.opd := rfl
@[simp] theorem State.setDie_events (s : State) (k : Nat) (d : Die) : (s.setDie k d).events = s.events := rfl
@[simp] theorem State.setDie_todo (s : State) (k : Nat) (d : Die) : (s.setDie k d).todo = s.todo := rfl
@[simp] theorem State.setDie_st (s : State) (k : Nat) (d : Die) : (s.setDie k d).st = s.st := rfl
@[simp] theorem State.setDie_sides (s : State) (k : Nat) (d : Die) : (s.setDie k d).sides = s.sides := rfl
@[simp] theorem State.setDie_cores (s : State) (k : Nat) (d : Die) : (s.setDie k d).cores = s.cores := rfl
@[simp] theorem State.setDie_pods (s : State) (k : Nat) (d : Die) : (s.setDie k d).pods = s.pods := rfl
@[simp] theorem State.setDie_pkg (s : State) (k : Nat) (d : Die) : (s.setDie k d).pkg = s.pkg := rfl
@[simp] theorem State.setDie_domains (s : State) (k : Nat) (d : Die) : (s.setDie k d).domains = s.domains := rfl
@[simp] theorem State.setDie_queues (s : State) (k : Nat) (d : Die) : (s.setDie k d).queues = s.queues := rfl
@[simp] theorem State.setDie_packets (s : State) (k : Nat) (d : Die) : (s.setDie k d).packets = s.packets := rfl
@[simp] theorem State.setDie_saved (s : State) (k : Nat) (d : Die) : (s.setDie k d).saved = s.saved := rfl
@[simp] theorem State.setDie_preempts (s : State) (k : Nat) (d : Die) : (s.setDie k d).preempts = s.preempts := rfl
@[simp] theorem State.setDie_kills (s : State) (k : Nat) (d : Die) : (s.setDie k d).kills = s.kills := rfl
@[simp] theorem State.setDie_engine (s : State) (k : Nat) (d : Die) : (s.setDie k d).engine = s.engine := rfl
@[simp] theorem State.setDie_cycle (s : State) (k : Nat) (d : Die) : (s.setDie k d).cycle = s.cycle := rfl
@[simp] theorem State.setDie_empties (s : State) (k : Nat) (d : Die) : (s.setDie k d).empties = s.empties := rfl
@[simp] theorem State.setDie_takes (s : State) (k : Nat) (d : Die) : (s.setDie k d).takes = s.takes := rfl
@[simp] theorem State.setDie_bv (s : State) (k : Nat) (d : Die) : (s.setDie k d).bv = s.bv := rfl
@[simp] theorem State.setDie_sets (s : State) (k : Nat) (d : Die) : (s.setDie k d).sets = s.sets := rfl
@[simp] theorem State.setDie_collectives (s : State) (k : Nat) (d : Die) : (s.setDie k d).collectives = s.collectives := rfl
@[simp] theorem State.setDie_mixtrap (s : State) (k : Nat) (d : Die) : (s.setDie k d).mixtrap = s.mixtrap := rfl
@[simp] theorem State.setDie_strong (s : State) (k : Nat) (d : Die) : (s.setDie k d).strong = s.strong := rfl
@[simp] theorem State.setDie_strongWrites (s : State) (k : Nat) (d : Die) : (s.setDie k d).strongWrites = s.strongWrites := rfl
@[simp] theorem State.setDie_dir (s : State) (k : Nat) (d : Die) : (s.setDie k d).dir = s.dir := rfl
@[simp] theorem State.setDie_hostHeld (s : State) (k : Nat) (d : Die) : (s.setDie k d).hostHeld = s.hostHeld := rfl
@[simp] theorem State.setDie_hostCopies (s : State) (k : Nat) (d : Die) : (s.setDie k d).hostCopies = s.hostCopies := rfl
@[simp] theorem State.setDie_hostPend (s : State) (k : Nat) (d : Die) : (s.setDie k d).hostPend = s.hostPend := rfl
@[simp] theorem State.setDie_cohWait (s : State) (k : Nat) (d : Die) : (s.setDie k d).cohWait = s.cohWait := rfl
@[simp] theorem State.setDie_ckptOwed (s : State) (k : Nat) (d : Die) : (s.setDie k d).ckptOwed = s.ckptOwed := rfl
@[simp] theorem State.setDie_ckptSince (s : State) (k : Nat) (d : Die) : (s.setDie k d).ckptSince = s.ckptSince := rfl
@[simp] theorem State.setDie_hostWrites (s : State) (k : Nat) (d : Die) : (s.setDie k d).hostWrites = s.hostWrites := rfl
@[simp] theorem State.setDie_leases (s : State) (k : Nat) (d : Die) : (s.setDie k d).leases = s.leases := rfl
@[simp] theorem State.setDie_sd0 (s : State) (k : Nat) (d : Die) : (s.setDie k d).sd0 = s.sd0 := rfl
@[simp] theorem State.setDie_sd1 (s : State) (k : Nat) (d : Die) : (s.setDie k d).sd1 = s.sd1 := rfl
@[simp] theorem State.setDie_peers (s : State) (k : Nat) (d : Die) : (s.setDie k d).peers = s.peers := rfl
@[simp] theorem State.setDie_peerMap (s : State) (k : Nat) (d : Die) : (s.setDie k d).peerMap = s.peerMap := rfl
@[simp] theorem State.setDie_mgmt (s : State) (k : Nat) (d : Die) : (s.setDie k d).mgmt = s.mgmt := rfl
@[simp] theorem State.setDie_link (s : State) (k : Nat) (d : Die) : (s.setDie k d).link = s.link := rfl
@[simp] theorem State.setDie_hostOut (s : State) (k : Nat) (d : Die) : (s.setDie k d).hostOut = s.hostOut := rfl

@[simp] theorem State.setPod_cur (s : State) (k : Nat) (p : Pod) : (s.setPod k p).cur = s.cur := rfl
@[simp] theorem State.setPod_me (s : State) (k : Nat) (p : Pod) : (s.setPod k p).me = s.me := rfl
@[simp] theorem State.setPod_others (s : State) (k : Nat) (p : Pod) : (s.setPod k p).others = s.others := rfl
@[simp] theorem State.setPod_ilen (s : State) (k : Nat) (p : Pod) : (s.setPod k p).ilen = s.ilen := rfl
@[simp] theorem State.setPod_istall (s : State) (k : Nat) (p : Pod) : (s.setPod k p).istall = s.istall := rfl
@[simp] theorem State.setPod_imid (s : State) (k : Nat) (p : Pod) : (s.setPod k p).imid = s.imid := rfl
@[simp] theorem State.setPod_held (s : State) (k : Nat) (p : Pod) : (s.setPod k p).held = s.held := rfl
@[simp] theorem State.setPod_free (s : State) (k : Nat) (p : Pod) : (s.setPod k p).free = s.free := rfl
@[simp] theorem State.setPod_opd (s : State) (k : Nat) (p : Pod) : (s.setPod k p).opd = s.opd := rfl
@[simp] theorem State.setPod_events (s : State) (k : Nat) (p : Pod) : (s.setPod k p).events = s.events := rfl
@[simp] theorem State.setPod_todo (s : State) (k : Nat) (p : Pod) : (s.setPod k p).todo = s.todo := rfl
@[simp] theorem State.setPod_st (s : State) (k : Nat) (p : Pod) : (s.setPod k p).st = s.st := rfl
@[simp] theorem State.setPod_sides (s : State) (k : Nat) (p : Pod) : (s.setPod k p).sides = s.sides := rfl
@[simp] theorem State.setPod_cores (s : State) (k : Nat) (p : Pod) : (s.setPod k p).cores = s.cores := rfl
@[simp] theorem State.setPod_dies (s : State) (k : Nat) (p : Pod) : (s.setPod k p).dies = s.dies := rfl
@[simp] theorem State.setPod_pkg (s : State) (k : Nat) (p : Pod) : (s.setPod k p).pkg = s.pkg := rfl
@[simp] theorem State.setPod_domains (s : State) (k : Nat) (p : Pod) : (s.setPod k p).domains = s.domains := rfl
@[simp] theorem State.setPod_queues (s : State) (k : Nat) (p : Pod) : (s.setPod k p).queues = s.queues := rfl
@[simp] theorem State.setPod_packets (s : State) (k : Nat) (p : Pod) : (s.setPod k p).packets = s.packets := rfl
@[simp] theorem State.setPod_saved (s : State) (k : Nat) (p : Pod) : (s.setPod k p).saved = s.saved := rfl
@[simp] theorem State.setPod_preempts (s : State) (k : Nat) (p : Pod) : (s.setPod k p).preempts = s.preempts := rfl
@[simp] theorem State.setPod_kills (s : State) (k : Nat) (p : Pod) : (s.setPod k p).kills = s.kills := rfl
@[simp] theorem State.setPod_engine (s : State) (k : Nat) (p : Pod) : (s.setPod k p).engine = s.engine := rfl
@[simp] theorem State.setPod_cycle (s : State) (k : Nat) (p : Pod) : (s.setPod k p).cycle = s.cycle := rfl
@[simp] theorem State.setPod_empties (s : State) (k : Nat) (p : Pod) : (s.setPod k p).empties = s.empties := rfl
@[simp] theorem State.setPod_takes (s : State) (k : Nat) (p : Pod) : (s.setPod k p).takes = s.takes := rfl
@[simp] theorem State.setPod_bv (s : State) (k : Nat) (p : Pod) : (s.setPod k p).bv = s.bv := rfl
@[simp] theorem State.setPod_sets (s : State) (k : Nat) (p : Pod) : (s.setPod k p).sets = s.sets := rfl
@[simp] theorem State.setPod_collectives (s : State) (k : Nat) (p : Pod) : (s.setPod k p).collectives = s.collectives := rfl
@[simp] theorem State.setPod_mixtrap (s : State) (k : Nat) (p : Pod) : (s.setPod k p).mixtrap = s.mixtrap := rfl
@[simp] theorem State.setPod_strong (s : State) (k : Nat) (p : Pod) : (s.setPod k p).strong = s.strong := rfl
@[simp] theorem State.setPod_strongWrites (s : State) (k : Nat) (p : Pod) : (s.setPod k p).strongWrites = s.strongWrites := rfl
@[simp] theorem State.setPod_dir (s : State) (k : Nat) (p : Pod) : (s.setPod k p).dir = s.dir := rfl
@[simp] theorem State.setPod_hostHeld (s : State) (k : Nat) (p : Pod) : (s.setPod k p).hostHeld = s.hostHeld := rfl
@[simp] theorem State.setPod_hostCopies (s : State) (k : Nat) (p : Pod) : (s.setPod k p).hostCopies = s.hostCopies := rfl
@[simp] theorem State.setPod_hostPend (s : State) (k : Nat) (p : Pod) : (s.setPod k p).hostPend = s.hostPend := rfl
@[simp] theorem State.setPod_cohWait (s : State) (k : Nat) (p : Pod) : (s.setPod k p).cohWait = s.cohWait := rfl
@[simp] theorem State.setPod_ckptOwed (s : State) (k : Nat) (p : Pod) : (s.setPod k p).ckptOwed = s.ckptOwed := rfl
@[simp] theorem State.setPod_ckptSince (s : State) (k : Nat) (p : Pod) : (s.setPod k p).ckptSince = s.ckptSince := rfl
@[simp] theorem State.setPod_hostWrites (s : State) (k : Nat) (p : Pod) : (s.setPod k p).hostWrites = s.hostWrites := rfl
@[simp] theorem State.setPod_leases (s : State) (k : Nat) (p : Pod) : (s.setPod k p).leases = s.leases := rfl
@[simp] theorem State.setPod_sd0 (s : State) (k : Nat) (p : Pod) : (s.setPod k p).sd0 = s.sd0 := rfl
@[simp] theorem State.setPod_sd1 (s : State) (k : Nat) (p : Pod) : (s.setPod k p).sd1 = s.sd1 := rfl
@[simp] theorem State.setPod_peers (s : State) (k : Nat) (p : Pod) : (s.setPod k p).peers = s.peers := rfl
@[simp] theorem State.setPod_peerMap (s : State) (k : Nat) (p : Pod) : (s.setPod k p).peerMap = s.peerMap := rfl
@[simp] theorem State.setPod_mgmt (s : State) (k : Nat) (p : Pod) : (s.setPod k p).mgmt = s.mgmt := rfl
@[simp] theorem State.setPod_link (s : State) (k : Nat) (p : Pod) : (s.setPod k p).link = s.link := rfl
@[simp] theorem State.setPod_hostOut (s : State) (k : Nat) (p : Pod) : (s.setPod k p).hostOut = s.hostOut := rfl

@[simp] theorem State.setSide_cur (s : State) (k : Nat) (b : Bool) (x : Side) : (s.setSide k b x).cur = s.cur := rfl
@[simp] theorem State.setSide_me (s : State) (k : Nat) (b : Bool) (x : Side) : (s.setSide k b x).me = s.me := rfl
@[simp] theorem State.setSide_others (s : State) (k : Nat) (b : Bool) (x : Side) : (s.setSide k b x).others = s.others := rfl
@[simp] theorem State.setSide_ilen (s : State) (k : Nat) (b : Bool) (x : Side) : (s.setSide k b x).ilen = s.ilen := rfl
@[simp] theorem State.setSide_istall (s : State) (k : Nat) (b : Bool) (x : Side) : (s.setSide k b x).istall = s.istall := rfl
@[simp] theorem State.setSide_imid (s : State) (k : Nat) (b : Bool) (x : Side) : (s.setSide k b x).imid = s.imid := rfl
@[simp] theorem State.setSide_held (s : State) (k : Nat) (b : Bool) (x : Side) : (s.setSide k b x).held = s.held := rfl
@[simp] theorem State.setSide_free (s : State) (k : Nat) (b : Bool) (x : Side) : (s.setSide k b x).free = s.free := rfl
@[simp] theorem State.setSide_opd (s : State) (k : Nat) (b : Bool) (x : Side) : (s.setSide k b x).opd = s.opd := rfl
@[simp] theorem State.setSide_events (s : State) (k : Nat) (b : Bool) (x : Side) : (s.setSide k b x).events = s.events := rfl
@[simp] theorem State.setSide_todo (s : State) (k : Nat) (b : Bool) (x : Side) : (s.setSide k b x).todo = s.todo := rfl
@[simp] theorem State.setSide_st (s : State) (k : Nat) (b : Bool) (x : Side) : (s.setSide k b x).st = s.st := rfl
@[simp] theorem State.setSide_cores (s : State) (k : Nat) (b : Bool) (x : Side) : (s.setSide k b x).cores = s.cores := rfl
@[simp] theorem State.setSide_dies (s : State) (k : Nat) (b : Bool) (x : Side) : (s.setSide k b x).dies = s.dies := rfl
@[simp] theorem State.setSide_pods (s : State) (k : Nat) (b : Bool) (x : Side) : (s.setSide k b x).pods = s.pods := rfl
@[simp] theorem State.setSide_pkg (s : State) (k : Nat) (b : Bool) (x : Side) : (s.setSide k b x).pkg = s.pkg := rfl
@[simp] theorem State.setSide_domains (s : State) (k : Nat) (b : Bool) (x : Side) : (s.setSide k b x).domains = s.domains := rfl
@[simp] theorem State.setSide_queues (s : State) (k : Nat) (b : Bool) (x : Side) : (s.setSide k b x).queues = s.queues := rfl
@[simp] theorem State.setSide_packets (s : State) (k : Nat) (b : Bool) (x : Side) : (s.setSide k b x).packets = s.packets := rfl
@[simp] theorem State.setSide_saved (s : State) (k : Nat) (b : Bool) (x : Side) : (s.setSide k b x).saved = s.saved := rfl
@[simp] theorem State.setSide_preempts (s : State) (k : Nat) (b : Bool) (x : Side) : (s.setSide k b x).preempts = s.preempts := rfl
@[simp] theorem State.setSide_kills (s : State) (k : Nat) (b : Bool) (x : Side) : (s.setSide k b x).kills = s.kills := rfl
@[simp] theorem State.setSide_engine (s : State) (k : Nat) (b : Bool) (x : Side) : (s.setSide k b x).engine = s.engine := rfl
@[simp] theorem State.setSide_cycle (s : State) (k : Nat) (b : Bool) (x : Side) : (s.setSide k b x).cycle = s.cycle := rfl
@[simp] theorem State.setSide_empties (s : State) (k : Nat) (b : Bool) (x : Side) : (s.setSide k b x).empties = s.empties := rfl
@[simp] theorem State.setSide_takes (s : State) (k : Nat) (b : Bool) (x : Side) : (s.setSide k b x).takes = s.takes := rfl
@[simp] theorem State.setSide_bv (s : State) (k : Nat) (b : Bool) (x : Side) : (s.setSide k b x).bv = s.bv := rfl
@[simp] theorem State.setSide_sets (s : State) (k : Nat) (b : Bool) (x : Side) : (s.setSide k b x).sets = s.sets := rfl
@[simp] theorem State.setSide_collectives (s : State) (k : Nat) (b : Bool) (x : Side) : (s.setSide k b x).collectives = s.collectives := rfl
@[simp] theorem State.setSide_mixtrap (s : State) (k : Nat) (b : Bool) (x : Side) : (s.setSide k b x).mixtrap = s.mixtrap := rfl
@[simp] theorem State.setSide_strong (s : State) (k : Nat) (b : Bool) (x : Side) : (s.setSide k b x).strong = s.strong := rfl
@[simp] theorem State.setSide_strongWrites (s : State) (k : Nat) (b : Bool) (x : Side) : (s.setSide k b x).strongWrites = s.strongWrites := rfl
@[simp] theorem State.setSide_dir (s : State) (k : Nat) (b : Bool) (x : Side) : (s.setSide k b x).dir = s.dir := rfl
@[simp] theorem State.setSide_hostHeld (s : State) (k : Nat) (b : Bool) (x : Side) : (s.setSide k b x).hostHeld = s.hostHeld := rfl
@[simp] theorem State.setSide_hostCopies (s : State) (k : Nat) (b : Bool) (x : Side) : (s.setSide k b x).hostCopies = s.hostCopies := rfl
@[simp] theorem State.setSide_hostPend (s : State) (k : Nat) (b : Bool) (x : Side) : (s.setSide k b x).hostPend = s.hostPend := rfl
@[simp] theorem State.setSide_cohWait (s : State) (k : Nat) (b : Bool) (x : Side) : (s.setSide k b x).cohWait = s.cohWait := rfl
@[simp] theorem State.setSide_ckptOwed (s : State) (k : Nat) (b : Bool) (x : Side) : (s.setSide k b x).ckptOwed = s.ckptOwed := rfl
@[simp] theorem State.setSide_ckptSince (s : State) (k : Nat) (b : Bool) (x : Side) : (s.setSide k b x).ckptSince = s.ckptSince := rfl
@[simp] theorem State.setSide_hostWrites (s : State) (k : Nat) (b : Bool) (x : Side) : (s.setSide k b x).hostWrites = s.hostWrites := rfl
@[simp] theorem State.setSide_leases (s : State) (k : Nat) (b : Bool) (x : Side) : (s.setSide k b x).leases = s.leases := rfl
@[simp] theorem State.setSide_sd0 (s : State) (k : Nat) (b : Bool) (x : Side) : (s.setSide k b x).sd0 = s.sd0 := rfl
@[simp] theorem State.setSide_sd1 (s : State) (k : Nat) (b : Bool) (x : Side) : (s.setSide k b x).sd1 = s.sd1 := rfl
@[simp] theorem State.setSide_peers (s : State) (k : Nat) (b : Bool) (x : Side) : (s.setSide k b x).peers = s.peers := rfl
@[simp] theorem State.setSide_peerMap (s : State) (k : Nat) (b : Bool) (x : Side) : (s.setSide k b x).peerMap = s.peerMap := rfl
@[simp] theorem State.setSide_mgmt (s : State) (k : Nat) (b : Bool) (x : Side) : (s.setSide k b x).mgmt = s.mgmt := rfl
@[simp] theorem State.setSide_link (s : State) (k : Nat) (b : Bool) (x : Side) : (s.setSide k b x).link = s.link := rfl
@[simp] theorem State.setSide_hostOut (s : State) (k : Nat) (b : Bool) (x : Side) : (s.setSide k b x).hostOut = s.hostOut := rfl

@[simp] theorem State.setDomain_cur (s : State) (k : Nat) (d : Domain) : (s.setDomain k d).cur = s.cur := rfl
@[simp] theorem State.setDomain_me (s : State) (k : Nat) (d : Domain) : (s.setDomain k d).me = s.me := rfl
@[simp] theorem State.setDomain_others (s : State) (k : Nat) (d : Domain) : (s.setDomain k d).others = s.others := rfl
@[simp] theorem State.setDomain_ilen (s : State) (k : Nat) (d : Domain) : (s.setDomain k d).ilen = s.ilen := rfl
@[simp] theorem State.setDomain_istall (s : State) (k : Nat) (d : Domain) : (s.setDomain k d).istall = s.istall := rfl
@[simp] theorem State.setDomain_imid (s : State) (k : Nat) (d : Domain) : (s.setDomain k d).imid = s.imid := rfl
@[simp] theorem State.setDomain_held (s : State) (k : Nat) (d : Domain) : (s.setDomain k d).held = s.held := rfl
@[simp] theorem State.setDomain_free (s : State) (k : Nat) (d : Domain) : (s.setDomain k d).free = s.free := rfl
@[simp] theorem State.setDomain_opd (s : State) (k : Nat) (d : Domain) : (s.setDomain k d).opd = s.opd := rfl
@[simp] theorem State.setDomain_events (s : State) (k : Nat) (d : Domain) : (s.setDomain k d).events = s.events := rfl
@[simp] theorem State.setDomain_todo (s : State) (k : Nat) (d : Domain) : (s.setDomain k d).todo = s.todo := rfl
@[simp] theorem State.setDomain_st (s : State) (k : Nat) (d : Domain) : (s.setDomain k d).st = s.st := rfl
@[simp] theorem State.setDomain_sides (s : State) (k : Nat) (d : Domain) : (s.setDomain k d).sides = s.sides := rfl
@[simp] theorem State.setDomain_cores (s : State) (k : Nat) (d : Domain) : (s.setDomain k d).cores = s.cores := rfl
@[simp] theorem State.setDomain_dies (s : State) (k : Nat) (d : Domain) : (s.setDomain k d).dies = s.dies := rfl
@[simp] theorem State.setDomain_pods (s : State) (k : Nat) (d : Domain) : (s.setDomain k d).pods = s.pods := rfl
@[simp] theorem State.setDomain_pkg (s : State) (k : Nat) (d : Domain) : (s.setDomain k d).pkg = s.pkg := rfl
@[simp] theorem State.setDomain_queues (s : State) (k : Nat) (d : Domain) : (s.setDomain k d).queues = s.queues := rfl
@[simp] theorem State.setDomain_packets (s : State) (k : Nat) (d : Domain) : (s.setDomain k d).packets = s.packets := rfl
@[simp] theorem State.setDomain_saved (s : State) (k : Nat) (d : Domain) : (s.setDomain k d).saved = s.saved := rfl
@[simp] theorem State.setDomain_preempts (s : State) (k : Nat) (d : Domain) : (s.setDomain k d).preempts = s.preempts := rfl
@[simp] theorem State.setDomain_kills (s : State) (k : Nat) (d : Domain) : (s.setDomain k d).kills = s.kills := rfl
@[simp] theorem State.setDomain_engine (s : State) (k : Nat) (d : Domain) : (s.setDomain k d).engine = s.engine := rfl
@[simp] theorem State.setDomain_cycle (s : State) (k : Nat) (d : Domain) : (s.setDomain k d).cycle = s.cycle := rfl
@[simp] theorem State.setDomain_empties (s : State) (k : Nat) (d : Domain) : (s.setDomain k d).empties = s.empties := rfl
@[simp] theorem State.setDomain_takes (s : State) (k : Nat) (d : Domain) : (s.setDomain k d).takes = s.takes := rfl
@[simp] theorem State.setDomain_bv (s : State) (k : Nat) (d : Domain) : (s.setDomain k d).bv = s.bv := rfl
@[simp] theorem State.setDomain_sets (s : State) (k : Nat) (d : Domain) : (s.setDomain k d).sets = s.sets := rfl
@[simp] theorem State.setDomain_collectives (s : State) (k : Nat) (d : Domain) : (s.setDomain k d).collectives = s.collectives := rfl
@[simp] theorem State.setDomain_mixtrap (s : State) (k : Nat) (d : Domain) : (s.setDomain k d).mixtrap = s.mixtrap := rfl
@[simp] theorem State.setDomain_strong (s : State) (k : Nat) (d : Domain) : (s.setDomain k d).strong = s.strong := rfl
@[simp] theorem State.setDomain_strongWrites (s : State) (k : Nat) (d : Domain) : (s.setDomain k d).strongWrites = s.strongWrites := rfl
@[simp] theorem State.setDomain_dir (s : State) (k : Nat) (d : Domain) : (s.setDomain k d).dir = s.dir := rfl
@[simp] theorem State.setDomain_hostHeld (s : State) (k : Nat) (d : Domain) : (s.setDomain k d).hostHeld = s.hostHeld := rfl
@[simp] theorem State.setDomain_hostCopies (s : State) (k : Nat) (d : Domain) : (s.setDomain k d).hostCopies = s.hostCopies := rfl
@[simp] theorem State.setDomain_hostPend (s : State) (k : Nat) (d : Domain) : (s.setDomain k d).hostPend = s.hostPend := rfl
@[simp] theorem State.setDomain_cohWait (s : State) (k : Nat) (d : Domain) : (s.setDomain k d).cohWait = s.cohWait := rfl
@[simp] theorem State.setDomain_ckptOwed (s : State) (k : Nat) (d : Domain) : (s.setDomain k d).ckptOwed = s.ckptOwed := rfl
@[simp] theorem State.setDomain_ckptSince (s : State) (k : Nat) (d : Domain) : (s.setDomain k d).ckptSince = s.ckptSince := rfl
@[simp] theorem State.setDomain_hostWrites (s : State) (k : Nat) (d : Domain) : (s.setDomain k d).hostWrites = s.hostWrites := rfl
@[simp] theorem State.setDomain_leases (s : State) (k : Nat) (d : Domain) : (s.setDomain k d).leases = s.leases := rfl
@[simp] theorem State.setDomain_sd0 (s : State) (k : Nat) (d : Domain) : (s.setDomain k d).sd0 = s.sd0 := rfl
@[simp] theorem State.setDomain_sd1 (s : State) (k : Nat) (d : Domain) : (s.setDomain k d).sd1 = s.sd1 := rfl
@[simp] theorem State.setDomain_peers (s : State) (k : Nat) (d : Domain) : (s.setDomain k d).peers = s.peers := rfl
@[simp] theorem State.setDomain_peerMap (s : State) (k : Nat) (d : Domain) : (s.setDomain k d).peerMap = s.peerMap := rfl
@[simp] theorem State.setDomain_mgmt (s : State) (k : Nat) (d : Domain) : (s.setDomain k d).mgmt = s.mgmt := rfl
@[simp] theorem State.setDomain_link (s : State) (k : Nat) (d : Domain) : (s.setDomain k d).link = s.link := rfl
@[simp] theorem State.setDomain_hostOut (s : State) (k : Nat) (d : Domain) : (s.setDomain k d).hostOut = s.hostOut := rfl

@[simp] theorem State.setQueue_cur (s : State) (k : Nat) (q : Queue) : (s.setQueue k q).cur = s.cur := rfl
@[simp] theorem State.setQueue_me (s : State) (k : Nat) (q : Queue) : (s.setQueue k q).me = s.me := rfl
@[simp] theorem State.setQueue_others (s : State) (k : Nat) (q : Queue) : (s.setQueue k q).others = s.others := rfl
@[simp] theorem State.setQueue_ilen (s : State) (k : Nat) (q : Queue) : (s.setQueue k q).ilen = s.ilen := rfl
@[simp] theorem State.setQueue_istall (s : State) (k : Nat) (q : Queue) : (s.setQueue k q).istall = s.istall := rfl
@[simp] theorem State.setQueue_imid (s : State) (k : Nat) (q : Queue) : (s.setQueue k q).imid = s.imid := rfl
@[simp] theorem State.setQueue_held (s : State) (k : Nat) (q : Queue) : (s.setQueue k q).held = s.held := rfl
@[simp] theorem State.setQueue_free (s : State) (k : Nat) (q : Queue) : (s.setQueue k q).free = s.free := rfl
@[simp] theorem State.setQueue_opd (s : State) (k : Nat) (q : Queue) : (s.setQueue k q).opd = s.opd := rfl
@[simp] theorem State.setQueue_events (s : State) (k : Nat) (q : Queue) : (s.setQueue k q).events = s.events := rfl
@[simp] theorem State.setQueue_todo (s : State) (k : Nat) (q : Queue) : (s.setQueue k q).todo = s.todo := rfl
@[simp] theorem State.setQueue_st (s : State) (k : Nat) (q : Queue) : (s.setQueue k q).st = s.st := rfl
@[simp] theorem State.setQueue_sides (s : State) (k : Nat) (q : Queue) : (s.setQueue k q).sides = s.sides := rfl
@[simp] theorem State.setQueue_cores (s : State) (k : Nat) (q : Queue) : (s.setQueue k q).cores = s.cores := rfl
@[simp] theorem State.setQueue_dies (s : State) (k : Nat) (q : Queue) : (s.setQueue k q).dies = s.dies := rfl
@[simp] theorem State.setQueue_pods (s : State) (k : Nat) (q : Queue) : (s.setQueue k q).pods = s.pods := rfl
@[simp] theorem State.setQueue_pkg (s : State) (k : Nat) (q : Queue) : (s.setQueue k q).pkg = s.pkg := rfl
@[simp] theorem State.setQueue_domains (s : State) (k : Nat) (q : Queue) : (s.setQueue k q).domains = s.domains := rfl
@[simp] theorem State.setQueue_packets (s : State) (k : Nat) (q : Queue) : (s.setQueue k q).packets = s.packets := rfl
@[simp] theorem State.setQueue_saved (s : State) (k : Nat) (q : Queue) : (s.setQueue k q).saved = s.saved := rfl
@[simp] theorem State.setQueue_preempts (s : State) (k : Nat) (q : Queue) : (s.setQueue k q).preempts = s.preempts := rfl
@[simp] theorem State.setQueue_kills (s : State) (k : Nat) (q : Queue) : (s.setQueue k q).kills = s.kills := rfl
@[simp] theorem State.setQueue_engine (s : State) (k : Nat) (q : Queue) : (s.setQueue k q).engine = s.engine := rfl
@[simp] theorem State.setQueue_cycle (s : State) (k : Nat) (q : Queue) : (s.setQueue k q).cycle = s.cycle := rfl
@[simp] theorem State.setQueue_empties (s : State) (k : Nat) (q : Queue) : (s.setQueue k q).empties = s.empties := rfl
@[simp] theorem State.setQueue_takes (s : State) (k : Nat) (q : Queue) : (s.setQueue k q).takes = s.takes := rfl
@[simp] theorem State.setQueue_bv (s : State) (k : Nat) (q : Queue) : (s.setQueue k q).bv = s.bv := rfl
@[simp] theorem State.setQueue_sets (s : State) (k : Nat) (q : Queue) : (s.setQueue k q).sets = s.sets := rfl
@[simp] theorem State.setQueue_collectives (s : State) (k : Nat) (q : Queue) : (s.setQueue k q).collectives = s.collectives := rfl
@[simp] theorem State.setQueue_mixtrap (s : State) (k : Nat) (q : Queue) : (s.setQueue k q).mixtrap = s.mixtrap := rfl
@[simp] theorem State.setQueue_strong (s : State) (k : Nat) (q : Queue) : (s.setQueue k q).strong = s.strong := rfl
@[simp] theorem State.setQueue_strongWrites (s : State) (k : Nat) (q : Queue) : (s.setQueue k q).strongWrites = s.strongWrites := rfl
@[simp] theorem State.setQueue_dir (s : State) (k : Nat) (q : Queue) : (s.setQueue k q).dir = s.dir := rfl
@[simp] theorem State.setQueue_hostHeld (s : State) (k : Nat) (q : Queue) : (s.setQueue k q).hostHeld = s.hostHeld := rfl
@[simp] theorem State.setQueue_hostCopies (s : State) (k : Nat) (q : Queue) : (s.setQueue k q).hostCopies = s.hostCopies := rfl
@[simp] theorem State.setQueue_hostPend (s : State) (k : Nat) (q : Queue) : (s.setQueue k q).hostPend = s.hostPend := rfl
@[simp] theorem State.setQueue_cohWait (s : State) (k : Nat) (q : Queue) : (s.setQueue k q).cohWait = s.cohWait := rfl
@[simp] theorem State.setQueue_ckptOwed (s : State) (k : Nat) (q : Queue) : (s.setQueue k q).ckptOwed = s.ckptOwed := rfl
@[simp] theorem State.setQueue_ckptSince (s : State) (k : Nat) (q : Queue) : (s.setQueue k q).ckptSince = s.ckptSince := rfl
@[simp] theorem State.setQueue_hostWrites (s : State) (k : Nat) (q : Queue) : (s.setQueue k q).hostWrites = s.hostWrites := rfl
@[simp] theorem State.setQueue_leases (s : State) (k : Nat) (q : Queue) : (s.setQueue k q).leases = s.leases := rfl
@[simp] theorem State.setQueue_sd0 (s : State) (k : Nat) (q : Queue) : (s.setQueue k q).sd0 = s.sd0 := rfl
@[simp] theorem State.setQueue_sd1 (s : State) (k : Nat) (q : Queue) : (s.setQueue k q).sd1 = s.sd1 := rfl
@[simp] theorem State.setQueue_peers (s : State) (k : Nat) (q : Queue) : (s.setQueue k q).peers = s.peers := rfl
@[simp] theorem State.setQueue_peerMap (s : State) (k : Nat) (q : Queue) : (s.setQueue k q).peerMap = s.peerMap := rfl
@[simp] theorem State.setQueue_mgmt (s : State) (k : Nat) (q : Queue) : (s.setQueue k q).mgmt = s.mgmt := rfl
@[simp] theorem State.setQueue_link (s : State) (k : Nat) (q : Queue) : (s.setQueue k q).link = s.link := rfl
@[simp] theorem State.setQueue_hostOut (s : State) (k : Nat) (q : Queue) : (s.setQueue k q).hostOut = s.hostOut := rfl

@[simp] theorem State.push_cur (s : State) (i : Instr) (o : Operand) : (s.push i o).cur = s.cur := rfl
@[simp] theorem State.push_me (s : State) (i : Instr) (o : Operand) : (s.push i o).me = s.me := rfl
@[simp] theorem State.push_others (s : State) (i : Instr) (o : Operand) : (s.push i o).others = s.others := rfl
@[simp] theorem State.push_ilen (s : State) (i : Instr) (o : Operand) : (s.push i o).ilen = s.ilen := rfl
@[simp] theorem State.push_istall (s : State) (i : Instr) (o : Operand) : (s.push i o).istall = s.istall := rfl
@[simp] theorem State.push_imid (s : State) (i : Instr) (o : Operand) : (s.push i o).imid = s.imid := rfl
@[simp] theorem State.push_held (s : State) (i : Instr) (o : Operand) : (s.push i o).held = s.held := rfl
@[simp] theorem State.push_free (s : State) (i : Instr) (o : Operand) : (s.push i o).free = s.free := rfl
@[simp] theorem State.push_opd (s : State) (i : Instr) (o : Operand) : (s.push i o).opd = s.opd := rfl
@[simp] theorem State.push_todo (s : State) (i : Instr) (o : Operand) : (s.push i o).todo = s.todo := rfl
@[simp] theorem State.push_st (s : State) (i : Instr) (o : Operand) : (s.push i o).st = s.st := rfl
@[simp] theorem State.push_sides (s : State) (i : Instr) (o : Operand) : (s.push i o).sides = s.sides := rfl
@[simp] theorem State.push_cores (s : State) (i : Instr) (o : Operand) : (s.push i o).cores = s.cores := rfl
@[simp] theorem State.push_dies (s : State) (i : Instr) (o : Operand) : (s.push i o).dies = s.dies := rfl
@[simp] theorem State.push_pods (s : State) (i : Instr) (o : Operand) : (s.push i o).pods = s.pods := rfl
@[simp] theorem State.push_pkg (s : State) (i : Instr) (o : Operand) : (s.push i o).pkg = s.pkg := rfl
@[simp] theorem State.push_domains (s : State) (i : Instr) (o : Operand) : (s.push i o).domains = s.domains := rfl
@[simp] theorem State.push_queues (s : State) (i : Instr) (o : Operand) : (s.push i o).queues = s.queues := rfl
@[simp] theorem State.push_packets (s : State) (i : Instr) (o : Operand) : (s.push i o).packets = s.packets := rfl
@[simp] theorem State.push_saved (s : State) (i : Instr) (o : Operand) : (s.push i o).saved = s.saved := rfl
@[simp] theorem State.push_preempts (s : State) (i : Instr) (o : Operand) : (s.push i o).preempts = s.preempts := rfl
@[simp] theorem State.push_kills (s : State) (i : Instr) (o : Operand) : (s.push i o).kills = s.kills := rfl
@[simp] theorem State.push_engine (s : State) (i : Instr) (o : Operand) : (s.push i o).engine = s.engine := rfl
@[simp] theorem State.push_cycle (s : State) (i : Instr) (o : Operand) : (s.push i o).cycle = s.cycle := rfl
@[simp] theorem State.push_empties (s : State) (i : Instr) (o : Operand) : (s.push i o).empties = s.empties := rfl
@[simp] theorem State.push_takes (s : State) (i : Instr) (o : Operand) : (s.push i o).takes = s.takes := rfl
@[simp] theorem State.push_bv (s : State) (i : Instr) (o : Operand) : (s.push i o).bv = s.bv := rfl
@[simp] theorem State.push_sets (s : State) (i : Instr) (o : Operand) : (s.push i o).sets = s.sets := rfl
@[simp] theorem State.push_collectives (s : State) (i : Instr) (o : Operand) : (s.push i o).collectives = s.collectives := rfl
@[simp] theorem State.push_mixtrap (s : State) (i : Instr) (o : Operand) : (s.push i o).mixtrap = s.mixtrap := rfl
@[simp] theorem State.push_strong (s : State) (i : Instr) (o : Operand) : (s.push i o).strong = s.strong := rfl
@[simp] theorem State.push_strongWrites (s : State) (i : Instr) (o : Operand) : (s.push i o).strongWrites = s.strongWrites := rfl
@[simp] theorem State.push_dir (s : State) (i : Instr) (o : Operand) : (s.push i o).dir = s.dir := rfl
@[simp] theorem State.push_hostHeld (s : State) (i : Instr) (o : Operand) : (s.push i o).hostHeld = s.hostHeld := rfl
@[simp] theorem State.push_hostCopies (s : State) (i : Instr) (o : Operand) : (s.push i o).hostCopies = s.hostCopies := rfl
@[simp] theorem State.push_hostPend (s : State) (i : Instr) (o : Operand) : (s.push i o).hostPend = s.hostPend := rfl
@[simp] theorem State.push_cohWait (s : State) (i : Instr) (o : Operand) : (s.push i o).cohWait = s.cohWait := rfl
@[simp] theorem State.push_ckptOwed (s : State) (i : Instr) (o : Operand) : (s.push i o).ckptOwed = s.ckptOwed := rfl
@[simp] theorem State.push_ckptSince (s : State) (i : Instr) (o : Operand) : (s.push i o).ckptSince = s.ckptSince := rfl
@[simp] theorem State.push_hostWrites (s : State) (i : Instr) (o : Operand) : (s.push i o).hostWrites = s.hostWrites := rfl
@[simp] theorem State.push_leases (s : State) (i : Instr) (o : Operand) : (s.push i o).leases = s.leases := rfl
@[simp] theorem State.push_sd0 (s : State) (i : Instr) (o : Operand) : (s.push i o).sd0 = s.sd0 := rfl
@[simp] theorem State.push_sd1 (s : State) (i : Instr) (o : Operand) : (s.push i o).sd1 = s.sd1 := rfl
@[simp] theorem State.push_peers (s : State) (i : Instr) (o : Operand) : (s.push i o).peers = s.peers := rfl
@[simp] theorem State.push_peerMap (s : State) (i : Instr) (o : Operand) : (s.push i o).peerMap = s.peerMap := rfl
@[simp] theorem State.push_mgmt (s : State) (i : Instr) (o : Operand) : (s.push i o).mgmt = s.mgmt := rfl
@[simp] theorem State.push_link (s : State) (i : Instr) (o : Operand) : (s.push i o).link = s.link := rfl
@[simp] theorem State.push_hostOut (s : State) (i : Instr) (o : Operand) : (s.push i o).hostOut = s.hostOut := rfl

@[simp] theorem State.goto_cur (s : State) (p : VAddr) : (s.goto p).cur = s.cur := rfl
@[simp] theorem State.goto_others (s : State) (p : VAddr) : (s.goto p).others = s.others := rfl
@[simp] theorem State.goto_ilen (s : State) (p : VAddr) : (s.goto p).ilen = s.ilen := rfl
@[simp] theorem State.goto_istall (s : State) (p : VAddr) : (s.goto p).istall = s.istall := rfl
@[simp] theorem State.goto_imid (s : State) (p : VAddr) : (s.goto p).imid = s.imid := rfl
@[simp] theorem State.goto_held (s : State) (p : VAddr) : (s.goto p).held = s.held := rfl
@[simp] theorem State.goto_free (s : State) (p : VAddr) : (s.goto p).free = s.free := rfl
@[simp] theorem State.goto_opd (s : State) (p : VAddr) : (s.goto p).opd = s.opd := rfl
@[simp] theorem State.goto_events (s : State) (p : VAddr) : (s.goto p).events = s.events := rfl
@[simp] theorem State.goto_todo (s : State) (p : VAddr) : (s.goto p).todo = s.todo := rfl
@[simp] theorem State.goto_st (s : State) (p : VAddr) : (s.goto p).st = s.st := rfl
@[simp] theorem State.goto_sides (s : State) (p : VAddr) : (s.goto p).sides = s.sides := rfl
@[simp] theorem State.goto_cores (s : State) (p : VAddr) : (s.goto p).cores = s.cores := rfl
@[simp] theorem State.goto_dies (s : State) (p : VAddr) : (s.goto p).dies = s.dies := rfl
@[simp] theorem State.goto_pods (s : State) (p : VAddr) : (s.goto p).pods = s.pods := rfl
@[simp] theorem State.goto_pkg (s : State) (p : VAddr) : (s.goto p).pkg = s.pkg := rfl
@[simp] theorem State.goto_domains (s : State) (p : VAddr) : (s.goto p).domains = s.domains := rfl
@[simp] theorem State.goto_queues (s : State) (p : VAddr) : (s.goto p).queues = s.queues := rfl
@[simp] theorem State.goto_packets (s : State) (p : VAddr) : (s.goto p).packets = s.packets := rfl
@[simp] theorem State.goto_saved (s : State) (p : VAddr) : (s.goto p).saved = s.saved := rfl
@[simp] theorem State.goto_preempts (s : State) (p : VAddr) : (s.goto p).preempts = s.preempts := rfl
@[simp] theorem State.goto_kills (s : State) (p : VAddr) : (s.goto p).kills = s.kills := rfl
@[simp] theorem State.goto_engine (s : State) (p : VAddr) : (s.goto p).engine = s.engine := rfl
@[simp] theorem State.goto_cycle (s : State) (p : VAddr) : (s.goto p).cycle = s.cycle := rfl
@[simp] theorem State.goto_empties (s : State) (p : VAddr) : (s.goto p).empties = s.empties := rfl
@[simp] theorem State.goto_takes (s : State) (p : VAddr) : (s.goto p).takes = s.takes := rfl
@[simp] theorem State.goto_bv (s : State) (p : VAddr) : (s.goto p).bv = s.bv := rfl
@[simp] theorem State.goto_sets (s : State) (p : VAddr) : (s.goto p).sets = s.sets := rfl
@[simp] theorem State.goto_collectives (s : State) (p : VAddr) : (s.goto p).collectives = s.collectives := rfl
@[simp] theorem State.goto_mixtrap (s : State) (p : VAddr) : (s.goto p).mixtrap = s.mixtrap := rfl
@[simp] theorem State.goto_strong (s : State) (p : VAddr) : (s.goto p).strong = s.strong := rfl
@[simp] theorem State.goto_strongWrites (s : State) (p : VAddr) : (s.goto p).strongWrites = s.strongWrites := rfl
@[simp] theorem State.goto_dir (s : State) (p : VAddr) : (s.goto p).dir = s.dir := rfl
@[simp] theorem State.goto_hostHeld (s : State) (p : VAddr) : (s.goto p).hostHeld = s.hostHeld := rfl
@[simp] theorem State.goto_hostCopies (s : State) (p : VAddr) : (s.goto p).hostCopies = s.hostCopies := rfl
@[simp] theorem State.goto_hostPend (s : State) (p : VAddr) : (s.goto p).hostPend = s.hostPend := rfl
@[simp] theorem State.goto_cohWait (s : State) (p : VAddr) : (s.goto p).cohWait = s.cohWait := rfl
@[simp] theorem State.goto_ckptOwed (s : State) (p : VAddr) : (s.goto p).ckptOwed = s.ckptOwed := rfl
@[simp] theorem State.goto_ckptSince (s : State) (p : VAddr) : (s.goto p).ckptSince = s.ckptSince := rfl
@[simp] theorem State.goto_hostWrites (s : State) (p : VAddr) : (s.goto p).hostWrites = s.hostWrites := rfl
@[simp] theorem State.goto_leases (s : State) (p : VAddr) : (s.goto p).leases = s.leases := rfl
@[simp] theorem State.goto_sd0 (s : State) (p : VAddr) : (s.goto p).sd0 = s.sd0 := rfl
@[simp] theorem State.goto_sd1 (s : State) (p : VAddr) : (s.goto p).sd1 = s.sd1 := rfl
@[simp] theorem State.goto_peers (s : State) (p : VAddr) : (s.goto p).peers = s.peers := rfl
@[simp] theorem State.goto_peerMap (s : State) (p : VAddr) : (s.goto p).peerMap = s.peerMap := rfl
@[simp] theorem State.goto_mgmt (s : State) (p : VAddr) : (s.goto p).mgmt = s.mgmt := rfl
@[simp] theorem State.goto_link (s : State) (p : VAddr) : (s.goto p).link = s.link := rfl
@[simp] theorem State.goto_hostOut (s : State) (p : VAddr) : (s.goto p).hostOut = s.hostOut := rfl

@[simp] theorem State.finish_cur (s : State) : (s.finish).cur = s.cur := rfl
@[simp] theorem State.finish_others (s : State) : (s.finish).others = s.others := rfl
@[simp] theorem State.finish_ilen (s : State) : (s.finish).ilen = s.ilen := rfl
@[simp] theorem State.finish_istall (s : State) : (s.finish).istall = s.istall := rfl
@[simp] theorem State.finish_imid (s : State) : (s.finish).imid = s.imid := rfl
@[simp] theorem State.finish_held (s : State) : (s.finish).held = s.held := rfl
@[simp] theorem State.finish_free (s : State) : (s.finish).free = s.free := rfl
@[simp] theorem State.finish_opd (s : State) : (s.finish).opd = s.opd := rfl
@[simp] theorem State.finish_events (s : State) : (s.finish).events = s.events := rfl
@[simp] theorem State.finish_todo (s : State) : (s.finish).todo = s.todo := rfl
@[simp] theorem State.finish_st (s : State) : (s.finish).st = s.st := rfl
@[simp] theorem State.finish_sides (s : State) : (s.finish).sides = s.sides := rfl
@[simp] theorem State.finish_cores (s : State) : (s.finish).cores = s.cores := rfl
@[simp] theorem State.finish_dies (s : State) : (s.finish).dies = s.dies := rfl
@[simp] theorem State.finish_pods (s : State) : (s.finish).pods = s.pods := rfl
@[simp] theorem State.finish_pkg (s : State) : (s.finish).pkg = s.pkg := rfl
@[simp] theorem State.finish_domains (s : State) : (s.finish).domains = s.domains := rfl
@[simp] theorem State.finish_queues (s : State) : (s.finish).queues = s.queues := rfl
@[simp] theorem State.finish_packets (s : State) : (s.finish).packets = s.packets := rfl
@[simp] theorem State.finish_saved (s : State) : (s.finish).saved = s.saved := rfl
@[simp] theorem State.finish_preempts (s : State) : (s.finish).preempts = s.preempts := rfl
@[simp] theorem State.finish_kills (s : State) : (s.finish).kills = s.kills := rfl
@[simp] theorem State.finish_engine (s : State) : (s.finish).engine = s.engine := rfl
@[simp] theorem State.finish_cycle (s : State) : (s.finish).cycle = s.cycle := rfl
@[simp] theorem State.finish_empties (s : State) : (s.finish).empties = s.empties := rfl
@[simp] theorem State.finish_takes (s : State) : (s.finish).takes = s.takes := rfl
@[simp] theorem State.finish_bv (s : State) : (s.finish).bv = s.bv := rfl
@[simp] theorem State.finish_sets (s : State) : (s.finish).sets = s.sets := rfl
@[simp] theorem State.finish_collectives (s : State) : (s.finish).collectives = s.collectives := rfl
@[simp] theorem State.finish_mixtrap (s : State) : (s.finish).mixtrap = s.mixtrap := rfl
@[simp] theorem State.finish_strong (s : State) : (s.finish).strong = s.strong := rfl
@[simp] theorem State.finish_strongWrites (s : State) : (s.finish).strongWrites = s.strongWrites := rfl
@[simp] theorem State.finish_dir (s : State) : (s.finish).dir = s.dir := rfl
@[simp] theorem State.finish_hostHeld (s : State) : (s.finish).hostHeld = s.hostHeld := rfl
@[simp] theorem State.finish_hostCopies (s : State) : (s.finish).hostCopies = s.hostCopies := rfl
@[simp] theorem State.finish_hostPend (s : State) : (s.finish).hostPend = s.hostPend := rfl
@[simp] theorem State.finish_cohWait (s : State) : (s.finish).cohWait = s.cohWait := rfl
@[simp] theorem State.finish_ckptOwed (s : State) : (s.finish).ckptOwed = s.ckptOwed := rfl
@[simp] theorem State.finish_ckptSince (s : State) : (s.finish).ckptSince = s.ckptSince := rfl
@[simp] theorem State.finish_hostWrites (s : State) : (s.finish).hostWrites = s.hostWrites := rfl
@[simp] theorem State.finish_leases (s : State) : (s.finish).leases = s.leases := rfl
@[simp] theorem State.finish_sd0 (s : State) : (s.finish).sd0 = s.sd0 := rfl
@[simp] theorem State.finish_sd1 (s : State) : (s.finish).sd1 = s.sd1 := rfl
@[simp] theorem State.finish_peers (s : State) : (s.finish).peers = s.peers := rfl
@[simp] theorem State.finish_peerMap (s : State) : (s.finish).peerMap = s.peerMap := rfl
@[simp] theorem State.finish_mgmt (s : State) : (s.finish).mgmt = s.mgmt := rfl
@[simp] theorem State.finish_link (s : State) : (s.finish).link = s.link := rfl
@[simp] theorem State.finish_hostOut (s : State) : (s.finish).hostOut = s.hostOut := rfl

@[simp] theorem State.park_cur (s : State) (w : Wait) : (s.park w).cur = s.cur := rfl
@[simp] theorem State.park_others (s : State) (w : Wait) : (s.park w).others = s.others := rfl
@[simp] theorem State.park_ilen (s : State) (w : Wait) : (s.park w).ilen = s.ilen := rfl
@[simp] theorem State.park_istall (s : State) (w : Wait) : (s.park w).istall = s.istall := rfl
@[simp] theorem State.park_imid (s : State) (w : Wait) : (s.park w).imid = s.imid := rfl
@[simp] theorem State.park_held (s : State) (w : Wait) : (s.park w).held = s.held := rfl
@[simp] theorem State.park_free (s : State) (w : Wait) : (s.park w).free = s.free := rfl
@[simp] theorem State.park_opd (s : State) (w : Wait) : (s.park w).opd = s.opd := rfl
@[simp] theorem State.park_events (s : State) (w : Wait) : (s.park w).events = s.events := rfl
@[simp] theorem State.park_todo (s : State) (w : Wait) : (s.park w).todo = s.todo := rfl
@[simp] theorem State.park_st (s : State) (w : Wait) : (s.park w).st = s.st := rfl
@[simp] theorem State.park_sides (s : State) (w : Wait) : (s.park w).sides = s.sides := rfl
@[simp] theorem State.park_cores (s : State) (w : Wait) : (s.park w).cores = s.cores := rfl
@[simp] theorem State.park_dies (s : State) (w : Wait) : (s.park w).dies = s.dies := rfl
@[simp] theorem State.park_pods (s : State) (w : Wait) : (s.park w).pods = s.pods := rfl
@[simp] theorem State.park_pkg (s : State) (w : Wait) : (s.park w).pkg = s.pkg := rfl
@[simp] theorem State.park_domains (s : State) (w : Wait) : (s.park w).domains = s.domains := rfl
@[simp] theorem State.park_queues (s : State) (w : Wait) : (s.park w).queues = s.queues := rfl
@[simp] theorem State.park_packets (s : State) (w : Wait) : (s.park w).packets = s.packets := rfl
@[simp] theorem State.park_saved (s : State) (w : Wait) : (s.park w).saved = s.saved := rfl
@[simp] theorem State.park_preempts (s : State) (w : Wait) : (s.park w).preempts = s.preempts := rfl
@[simp] theorem State.park_kills (s : State) (w : Wait) : (s.park w).kills = s.kills := rfl
@[simp] theorem State.park_engine (s : State) (w : Wait) : (s.park w).engine = s.engine := rfl
@[simp] theorem State.park_cycle (s : State) (w : Wait) : (s.park w).cycle = s.cycle := rfl
@[simp] theorem State.park_empties (s : State) (w : Wait) : (s.park w).empties = s.empties := rfl
@[simp] theorem State.park_takes (s : State) (w : Wait) : (s.park w).takes = s.takes := rfl
@[simp] theorem State.park_bv (s : State) (w : Wait) : (s.park w).bv = s.bv := rfl
@[simp] theorem State.park_sets (s : State) (w : Wait) : (s.park w).sets = s.sets := rfl
@[simp] theorem State.park_collectives (s : State) (w : Wait) : (s.park w).collectives = s.collectives := rfl
@[simp] theorem State.park_mixtrap (s : State) (w : Wait) : (s.park w).mixtrap = s.mixtrap := rfl
@[simp] theorem State.park_strong (s : State) (w : Wait) : (s.park w).strong = s.strong := rfl
@[simp] theorem State.park_strongWrites (s : State) (w : Wait) : (s.park w).strongWrites = s.strongWrites := rfl
@[simp] theorem State.park_dir (s : State) (w : Wait) : (s.park w).dir = s.dir := rfl
@[simp] theorem State.park_hostHeld (s : State) (w : Wait) : (s.park w).hostHeld = s.hostHeld := rfl
@[simp] theorem State.park_hostCopies (s : State) (w : Wait) : (s.park w).hostCopies = s.hostCopies := rfl
@[simp] theorem State.park_hostPend (s : State) (w : Wait) : (s.park w).hostPend = s.hostPend := rfl
@[simp] theorem State.park_cohWait (s : State) (w : Wait) : (s.park w).cohWait = s.cohWait := rfl
@[simp] theorem State.park_ckptOwed (s : State) (w : Wait) : (s.park w).ckptOwed = s.ckptOwed := rfl
@[simp] theorem State.park_ckptSince (s : State) (w : Wait) : (s.park w).ckptSince = s.ckptSince := rfl
@[simp] theorem State.park_hostWrites (s : State) (w : Wait) : (s.park w).hostWrites = s.hostWrites := rfl
@[simp] theorem State.park_leases (s : State) (w : Wait) : (s.park w).leases = s.leases := rfl
@[simp] theorem State.park_sd0 (s : State) (w : Wait) : (s.park w).sd0 = s.sd0 := rfl
@[simp] theorem State.park_sd1 (s : State) (w : Wait) : (s.park w).sd1 = s.sd1 := rfl
@[simp] theorem State.park_peers (s : State) (w : Wait) : (s.park w).peers = s.peers := rfl
@[simp] theorem State.park_peerMap (s : State) (w : Wait) : (s.park w).peerMap = s.peerMap := rfl
@[simp] theorem State.park_mgmt (s : State) (w : Wait) : (s.park w).mgmt = s.mgmt := rfl
@[simp] theorem State.park_link (s : State) (w : Wait) : (s.park w).link = s.link := rfl
@[simp] theorem State.park_hostOut (s : State) (w : Wait) : (s.park w).hostOut = s.hostOut := rfl

@[simp] theorem State.wx_cur (s : State) (r : XReg) (v : Word) : (s.wx r v).cur = s.cur := rfl
@[simp] theorem State.wx_others (s : State) (r : XReg) (v : Word) : (s.wx r v).others = s.others := rfl
@[simp] theorem State.wx_ilen (s : State) (r : XReg) (v : Word) : (s.wx r v).ilen = s.ilen := rfl
@[simp] theorem State.wx_istall (s : State) (r : XReg) (v : Word) : (s.wx r v).istall = s.istall := rfl
@[simp] theorem State.wx_imid (s : State) (r : XReg) (v : Word) : (s.wx r v).imid = s.imid := rfl
@[simp] theorem State.wx_held (s : State) (r : XReg) (v : Word) : (s.wx r v).held = s.held := rfl
@[simp] theorem State.wx_free (s : State) (r : XReg) (v : Word) : (s.wx r v).free = s.free := rfl
@[simp] theorem State.wx_opd (s : State) (r : XReg) (v : Word) : (s.wx r v).opd = s.opd := rfl
@[simp] theorem State.wx_events (s : State) (r : XReg) (v : Word) : (s.wx r v).events = s.events := rfl
@[simp] theorem State.wx_todo (s : State) (r : XReg) (v : Word) : (s.wx r v).todo = s.todo := rfl
@[simp] theorem State.wx_st (s : State) (r : XReg) (v : Word) : (s.wx r v).st = s.st := rfl
@[simp] theorem State.wx_sides (s : State) (r : XReg) (v : Word) : (s.wx r v).sides = s.sides := rfl
@[simp] theorem State.wx_cores (s : State) (r : XReg) (v : Word) : (s.wx r v).cores = s.cores := rfl
@[simp] theorem State.wx_dies (s : State) (r : XReg) (v : Word) : (s.wx r v).dies = s.dies := rfl
@[simp] theorem State.wx_pods (s : State) (r : XReg) (v : Word) : (s.wx r v).pods = s.pods := rfl
@[simp] theorem State.wx_pkg (s : State) (r : XReg) (v : Word) : (s.wx r v).pkg = s.pkg := rfl
@[simp] theorem State.wx_domains (s : State) (r : XReg) (v : Word) : (s.wx r v).domains = s.domains := rfl
@[simp] theorem State.wx_queues (s : State) (r : XReg) (v : Word) : (s.wx r v).queues = s.queues := rfl
@[simp] theorem State.wx_packets (s : State) (r : XReg) (v : Word) : (s.wx r v).packets = s.packets := rfl
@[simp] theorem State.wx_saved (s : State) (r : XReg) (v : Word) : (s.wx r v).saved = s.saved := rfl
@[simp] theorem State.wx_preempts (s : State) (r : XReg) (v : Word) : (s.wx r v).preempts = s.preempts := rfl
@[simp] theorem State.wx_kills (s : State) (r : XReg) (v : Word) : (s.wx r v).kills = s.kills := rfl
@[simp] theorem State.wx_engine (s : State) (r : XReg) (v : Word) : (s.wx r v).engine = s.engine := rfl
@[simp] theorem State.wx_cycle (s : State) (r : XReg) (v : Word) : (s.wx r v).cycle = s.cycle := rfl
@[simp] theorem State.wx_empties (s : State) (r : XReg) (v : Word) : (s.wx r v).empties = s.empties := rfl
@[simp] theorem State.wx_takes (s : State) (r : XReg) (v : Word) : (s.wx r v).takes = s.takes := rfl
@[simp] theorem State.wx_bv (s : State) (r : XReg) (v : Word) : (s.wx r v).bv = s.bv := rfl
@[simp] theorem State.wx_sets (s : State) (r : XReg) (v : Word) : (s.wx r v).sets = s.sets := rfl
@[simp] theorem State.wx_collectives (s : State) (r : XReg) (v : Word) : (s.wx r v).collectives = s.collectives := rfl
@[simp] theorem State.wx_mixtrap (s : State) (r : XReg) (v : Word) : (s.wx r v).mixtrap = s.mixtrap := rfl
@[simp] theorem State.wx_strong (s : State) (r : XReg) (v : Word) : (s.wx r v).strong = s.strong := rfl
@[simp] theorem State.wx_strongWrites (s : State) (r : XReg) (v : Word) : (s.wx r v).strongWrites = s.strongWrites := rfl
@[simp] theorem State.wx_dir (s : State) (r : XReg) (v : Word) : (s.wx r v).dir = s.dir := rfl
@[simp] theorem State.wx_hostHeld (s : State) (r : XReg) (v : Word) : (s.wx r v).hostHeld = s.hostHeld := rfl
@[simp] theorem State.wx_hostCopies (s : State) (r : XReg) (v : Word) : (s.wx r v).hostCopies = s.hostCopies := rfl
@[simp] theorem State.wx_hostPend (s : State) (r : XReg) (v : Word) : (s.wx r v).hostPend = s.hostPend := rfl
@[simp] theorem State.wx_cohWait (s : State) (r : XReg) (v : Word) : (s.wx r v).cohWait = s.cohWait := rfl
@[simp] theorem State.wx_ckptOwed (s : State) (r : XReg) (v : Word) : (s.wx r v).ckptOwed = s.ckptOwed := rfl
@[simp] theorem State.wx_ckptSince (s : State) (r : XReg) (v : Word) : (s.wx r v).ckptSince = s.ckptSince := rfl
@[simp] theorem State.wx_hostWrites (s : State) (r : XReg) (v : Word) : (s.wx r v).hostWrites = s.hostWrites := rfl
@[simp] theorem State.wx_leases (s : State) (r : XReg) (v : Word) : (s.wx r v).leases = s.leases := rfl
@[simp] theorem State.wx_sd0 (s : State) (r : XReg) (v : Word) : (s.wx r v).sd0 = s.sd0 := rfl
@[simp] theorem State.wx_sd1 (s : State) (r : XReg) (v : Word) : (s.wx r v).sd1 = s.sd1 := rfl
@[simp] theorem State.wx_peers (s : State) (r : XReg) (v : Word) : (s.wx r v).peers = s.peers := rfl
@[simp] theorem State.wx_peerMap (s : State) (r : XReg) (v : Word) : (s.wx r v).peerMap = s.peerMap := rfl
@[simp] theorem State.wx_mgmt (s : State) (r : XReg) (v : Word) : (s.wx r v).mgmt = s.mgmt := rfl
@[simp] theorem State.wx_link (s : State) (r : XReg) (v : Word) : (s.wx r v).link = s.link := rfl
@[simp] theorem State.wx_hostOut (s : State) (r : XReg) (v : Word) : (s.wx r v).hostOut = s.hostOut := rfl

@[simp] theorem State.wxLat_cur (s : State) (r : XReg) (v : Word) (n : Nat) : (s.wxLat r v n).cur = s.cur := by unfold State.wxLat; split <;> rfl
@[simp] theorem State.wxLat_others (s : State) (r : XReg) (v : Word) (n : Nat) : (s.wxLat r v n).others = s.others := by unfold State.wxLat; split <;> rfl
@[simp] theorem State.wxLat_ilen (s : State) (r : XReg) (v : Word) (n : Nat) : (s.wxLat r v n).ilen = s.ilen := by unfold State.wxLat; split <;> rfl
@[simp] theorem State.wxLat_istall (s : State) (r : XReg) (v : Word) (n : Nat) : (s.wxLat r v n).istall = s.istall := by unfold State.wxLat; split <;> rfl
@[simp] theorem State.wxLat_imid (s : State) (r : XReg) (v : Word) (n : Nat) : (s.wxLat r v n).imid = s.imid := by unfold State.wxLat; split <;> rfl
@[simp] theorem State.wxLat_held (s : State) (r : XReg) (v : Word) (n : Nat) : (s.wxLat r v n).held = s.held := by unfold State.wxLat; split <;> rfl
@[simp] theorem State.wxLat_free (s : State) (r : XReg) (v : Word) (n : Nat) : (s.wxLat r v n).free = s.free := by unfold State.wxLat; split <;> rfl
@[simp] theorem State.wxLat_opd (s : State) (r : XReg) (v : Word) (n : Nat) : (s.wxLat r v n).opd = s.opd := by unfold State.wxLat; split <;> rfl
@[simp] theorem State.wxLat_events (s : State) (r : XReg) (v : Word) (n : Nat) : (s.wxLat r v n).events = s.events := by unfold State.wxLat; split <;> rfl
@[simp] theorem State.wxLat_todo (s : State) (r : XReg) (v : Word) (n : Nat) : (s.wxLat r v n).todo = s.todo := by unfold State.wxLat; split <;> rfl
@[simp] theorem State.wxLat_st (s : State) (r : XReg) (v : Word) (n : Nat) : (s.wxLat r v n).st = s.st := by unfold State.wxLat; split <;> rfl
@[simp] theorem State.wxLat_sides (s : State) (r : XReg) (v : Word) (n : Nat) : (s.wxLat r v n).sides = s.sides := by unfold State.wxLat; split <;> rfl
@[simp] theorem State.wxLat_cores (s : State) (r : XReg) (v : Word) (n : Nat) : (s.wxLat r v n).cores = s.cores := by unfold State.wxLat; split <;> rfl
@[simp] theorem State.wxLat_dies (s : State) (r : XReg) (v : Word) (n : Nat) : (s.wxLat r v n).dies = s.dies := by unfold State.wxLat; split <;> rfl
@[simp] theorem State.wxLat_pods (s : State) (r : XReg) (v : Word) (n : Nat) : (s.wxLat r v n).pods = s.pods := by unfold State.wxLat; split <;> rfl
@[simp] theorem State.wxLat_pkg (s : State) (r : XReg) (v : Word) (n : Nat) : (s.wxLat r v n).pkg = s.pkg := by unfold State.wxLat; split <;> rfl
@[simp] theorem State.wxLat_domains (s : State) (r : XReg) (v : Word) (n : Nat) : (s.wxLat r v n).domains = s.domains := by unfold State.wxLat; split <;> rfl
@[simp] theorem State.wxLat_queues (s : State) (r : XReg) (v : Word) (n : Nat) : (s.wxLat r v n).queues = s.queues := by unfold State.wxLat; split <;> rfl
@[simp] theorem State.wxLat_packets (s : State) (r : XReg) (v : Word) (n : Nat) : (s.wxLat r v n).packets = s.packets := by unfold State.wxLat; split <;> rfl
@[simp] theorem State.wxLat_saved (s : State) (r : XReg) (v : Word) (n : Nat) : (s.wxLat r v n).saved = s.saved := by unfold State.wxLat; split <;> rfl
@[simp] theorem State.wxLat_preempts (s : State) (r : XReg) (v : Word) (n : Nat) : (s.wxLat r v n).preempts = s.preempts := by unfold State.wxLat; split <;> rfl
@[simp] theorem State.wxLat_kills (s : State) (r : XReg) (v : Word) (n : Nat) : (s.wxLat r v n).kills = s.kills := by unfold State.wxLat; split <;> rfl
@[simp] theorem State.wxLat_engine (s : State) (r : XReg) (v : Word) (n : Nat) : (s.wxLat r v n).engine = s.engine := by unfold State.wxLat; split <;> rfl
@[simp] theorem State.wxLat_cycle (s : State) (r : XReg) (v : Word) (n : Nat) : (s.wxLat r v n).cycle = s.cycle := by unfold State.wxLat; split <;> rfl
@[simp] theorem State.wxLat_empties (s : State) (r : XReg) (v : Word) (n : Nat) : (s.wxLat r v n).empties = s.empties := by unfold State.wxLat; split <;> rfl
@[simp] theorem State.wxLat_takes (s : State) (r : XReg) (v : Word) (n : Nat) : (s.wxLat r v n).takes = s.takes := by unfold State.wxLat; split <;> rfl
@[simp] theorem State.wxLat_bv (s : State) (r : XReg) (v : Word) (n : Nat) : (s.wxLat r v n).bv = s.bv := by unfold State.wxLat; split <;> rfl
@[simp] theorem State.wxLat_sets (s : State) (r : XReg) (v : Word) (n : Nat) : (s.wxLat r v n).sets = s.sets := by unfold State.wxLat; split <;> rfl
@[simp] theorem State.wxLat_collectives (s : State) (r : XReg) (v : Word) (n : Nat) : (s.wxLat r v n).collectives = s.collectives := by unfold State.wxLat; split <;> rfl
@[simp] theorem State.wxLat_mixtrap (s : State) (r : XReg) (v : Word) (n : Nat) : (s.wxLat r v n).mixtrap = s.mixtrap := by unfold State.wxLat; split <;> rfl
@[simp] theorem State.wxLat_strong (s : State) (r : XReg) (v : Word) (n : Nat) : (s.wxLat r v n).strong = s.strong := by unfold State.wxLat; split <;> rfl
@[simp] theorem State.wxLat_strongWrites (s : State) (r : XReg) (v : Word) (n : Nat) : (s.wxLat r v n).strongWrites = s.strongWrites := by unfold State.wxLat; split <;> rfl
@[simp] theorem State.wxLat_dir (s : State) (r : XReg) (v : Word) (n : Nat) : (s.wxLat r v n).dir = s.dir := by unfold State.wxLat; split <;> rfl
@[simp] theorem State.wxLat_hostHeld (s : State) (r : XReg) (v : Word) (n : Nat) : (s.wxLat r v n).hostHeld = s.hostHeld := by unfold State.wxLat; split <;> rfl
@[simp] theorem State.wxLat_hostCopies (s : State) (r : XReg) (v : Word) (n : Nat) : (s.wxLat r v n).hostCopies = s.hostCopies := by unfold State.wxLat; split <;> rfl
@[simp] theorem State.wxLat_hostPend (s : State) (r : XReg) (v : Word) (n : Nat) : (s.wxLat r v n).hostPend = s.hostPend := by unfold State.wxLat; split <;> rfl
@[simp] theorem State.wxLat_cohWait (s : State) (r : XReg) (v : Word) (n : Nat) : (s.wxLat r v n).cohWait = s.cohWait := by unfold State.wxLat; split <;> rfl
@[simp] theorem State.wxLat_ckptOwed (s : State) (r : XReg) (v : Word) (n : Nat) : (s.wxLat r v n).ckptOwed = s.ckptOwed := by unfold State.wxLat; split <;> rfl
@[simp] theorem State.wxLat_ckptSince (s : State) (r : XReg) (v : Word) (n : Nat) : (s.wxLat r v n).ckptSince = s.ckptSince := by unfold State.wxLat; split <;> rfl
@[simp] theorem State.wxLat_hostWrites (s : State) (r : XReg) (v : Word) (n : Nat) : (s.wxLat r v n).hostWrites = s.hostWrites := by unfold State.wxLat; split <;> rfl
@[simp] theorem State.wxLat_leases (s : State) (r : XReg) (v : Word) (n : Nat) : (s.wxLat r v n).leases = s.leases := by unfold State.wxLat; split <;> rfl
@[simp] theorem State.wxLat_sd0 (s : State) (r : XReg) (v : Word) (n : Nat) : (s.wxLat r v n).sd0 = s.sd0 := by unfold State.wxLat; split <;> rfl
@[simp] theorem State.wxLat_sd1 (s : State) (r : XReg) (v : Word) (n : Nat) : (s.wxLat r v n).sd1 = s.sd1 := by unfold State.wxLat; split <;> rfl
@[simp] theorem State.wxLat_peers (s : State) (r : XReg) (v : Word) (n : Nat) : (s.wxLat r v n).peers = s.peers := by unfold State.wxLat; split <;> rfl
@[simp] theorem State.wxLat_peerMap (s : State) (r : XReg) (v : Word) (n : Nat) : (s.wxLat r v n).peerMap = s.peerMap := by unfold State.wxLat; split <;> rfl
@[simp] theorem State.wxLat_mgmt (s : State) (r : XReg) (v : Word) (n : Nat) : (s.wxLat r v n).mgmt = s.mgmt := by unfold State.wxLat; split <;> rfl
@[simp] theorem State.wxLat_link (s : State) (r : XReg) (v : Word) (n : Nat) : (s.wxLat r v n).link = s.link := by unfold State.wxLat; split <;> rfl
@[simp] theorem State.wxLat_hostOut (s : State) (r : XReg) (v : Word) (n : Nat) : (s.wxLat r v n).hostOut = s.hostOut := by unfold State.wxLat; split <;> rfl

@[simp] theorem State.setCtx_cur (s : State) (c : CtxId) (x : Ctx) : (s.setCtx c x).cur = s.cur := by unfold State.setCtx; split <;> rfl
@[simp] theorem State.setCtx_ilen (s : State) (c : CtxId) (x : Ctx) : (s.setCtx c x).ilen = s.ilen := by unfold State.setCtx; split <;> rfl
@[simp] theorem State.setCtx_istall (s : State) (c : CtxId) (x : Ctx) : (s.setCtx c x).istall = s.istall := by unfold State.setCtx; split <;> rfl
@[simp] theorem State.setCtx_imid (s : State) (c : CtxId) (x : Ctx) : (s.setCtx c x).imid = s.imid := by unfold State.setCtx; split <;> rfl
@[simp] theorem State.setCtx_held (s : State) (c : CtxId) (x : Ctx) : (s.setCtx c x).held = s.held := by unfold State.setCtx; split <;> rfl
@[simp] theorem State.setCtx_free (s : State) (c : CtxId) (x : Ctx) : (s.setCtx c x).free = s.free := by unfold State.setCtx; split <;> rfl
@[simp] theorem State.setCtx_opd (s : State) (c : CtxId) (x : Ctx) : (s.setCtx c x).opd = s.opd := by unfold State.setCtx; split <;> rfl
@[simp] theorem State.setCtx_events (s : State) (c : CtxId) (x : Ctx) : (s.setCtx c x).events = s.events := by unfold State.setCtx; split <;> rfl
@[simp] theorem State.setCtx_todo (s : State) (c : CtxId) (x : Ctx) : (s.setCtx c x).todo = s.todo := by unfold State.setCtx; split <;> rfl
@[simp] theorem State.setCtx_st (s : State) (c : CtxId) (x : Ctx) : (s.setCtx c x).st = s.st := by unfold State.setCtx; split <;> rfl
@[simp] theorem State.setCtx_sides (s : State) (c : CtxId) (x : Ctx) : (s.setCtx c x).sides = s.sides := by unfold State.setCtx; split <;> rfl
@[simp] theorem State.setCtx_cores (s : State) (c : CtxId) (x : Ctx) : (s.setCtx c x).cores = s.cores := by unfold State.setCtx; split <;> rfl
@[simp] theorem State.setCtx_dies (s : State) (c : CtxId) (x : Ctx) : (s.setCtx c x).dies = s.dies := by unfold State.setCtx; split <;> rfl
@[simp] theorem State.setCtx_pods (s : State) (c : CtxId) (x : Ctx) : (s.setCtx c x).pods = s.pods := by unfold State.setCtx; split <;> rfl
@[simp] theorem State.setCtx_pkg (s : State) (c : CtxId) (x : Ctx) : (s.setCtx c x).pkg = s.pkg := by unfold State.setCtx; split <;> rfl
@[simp] theorem State.setCtx_domains (s : State) (c : CtxId) (x : Ctx) : (s.setCtx c x).domains = s.domains := by unfold State.setCtx; split <;> rfl
@[simp] theorem State.setCtx_queues (s : State) (c : CtxId) (x : Ctx) : (s.setCtx c x).queues = s.queues := by unfold State.setCtx; split <;> rfl
@[simp] theorem State.setCtx_packets (s : State) (c : CtxId) (x : Ctx) : (s.setCtx c x).packets = s.packets := by unfold State.setCtx; split <;> rfl
@[simp] theorem State.setCtx_saved (s : State) (c : CtxId) (x : Ctx) : (s.setCtx c x).saved = s.saved := by unfold State.setCtx; split <;> rfl
@[simp] theorem State.setCtx_preempts (s : State) (c : CtxId) (x : Ctx) : (s.setCtx c x).preempts = s.preempts := by unfold State.setCtx; split <;> rfl
@[simp] theorem State.setCtx_kills (s : State) (c : CtxId) (x : Ctx) : (s.setCtx c x).kills = s.kills := by unfold State.setCtx; split <;> rfl
@[simp] theorem State.setCtx_engine (s : State) (c : CtxId) (x : Ctx) : (s.setCtx c x).engine = s.engine := by unfold State.setCtx; split <;> rfl
@[simp] theorem State.setCtx_cycle (s : State) (c : CtxId) (x : Ctx) : (s.setCtx c x).cycle = s.cycle := by unfold State.setCtx; split <;> rfl
@[simp] theorem State.setCtx_empties (s : State) (c : CtxId) (x : Ctx) : (s.setCtx c x).empties = s.empties := by unfold State.setCtx; split <;> rfl
@[simp] theorem State.setCtx_takes (s : State) (c : CtxId) (x : Ctx) : (s.setCtx c x).takes = s.takes := by unfold State.setCtx; split <;> rfl
@[simp] theorem State.setCtx_bv (s : State) (c : CtxId) (x : Ctx) : (s.setCtx c x).bv = s.bv := by unfold State.setCtx; split <;> rfl
@[simp] theorem State.setCtx_sets (s : State) (c : CtxId) (x : Ctx) : (s.setCtx c x).sets = s.sets := by unfold State.setCtx; split <;> rfl
@[simp] theorem State.setCtx_collectives (s : State) (c : CtxId) (x : Ctx) : (s.setCtx c x).collectives = s.collectives := by unfold State.setCtx; split <;> rfl
@[simp] theorem State.setCtx_mixtrap (s : State) (c : CtxId) (x : Ctx) : (s.setCtx c x).mixtrap = s.mixtrap := by unfold State.setCtx; split <;> rfl
@[simp] theorem State.setCtx_strong (s : State) (c : CtxId) (x : Ctx) : (s.setCtx c x).strong = s.strong := by unfold State.setCtx; split <;> rfl
@[simp] theorem State.setCtx_strongWrites (s : State) (c : CtxId) (x : Ctx) : (s.setCtx c x).strongWrites = s.strongWrites := by unfold State.setCtx; split <;> rfl
@[simp] theorem State.setCtx_dir (s : State) (c : CtxId) (x : Ctx) : (s.setCtx c x).dir = s.dir := by unfold State.setCtx; split <;> rfl
@[simp] theorem State.setCtx_hostHeld (s : State) (c : CtxId) (x : Ctx) : (s.setCtx c x).hostHeld = s.hostHeld := by unfold State.setCtx; split <;> rfl
@[simp] theorem State.setCtx_hostCopies (s : State) (c : CtxId) (x : Ctx) : (s.setCtx c x).hostCopies = s.hostCopies := by unfold State.setCtx; split <;> rfl
@[simp] theorem State.setCtx_hostPend (s : State) (c : CtxId) (x : Ctx) : (s.setCtx c x).hostPend = s.hostPend := by unfold State.setCtx; split <;> rfl
@[simp] theorem State.setCtx_cohWait (s : State) (c : CtxId) (x : Ctx) : (s.setCtx c x).cohWait = s.cohWait := by unfold State.setCtx; split <;> rfl
@[simp] theorem State.setCtx_ckptOwed (s : State) (c : CtxId) (x : Ctx) : (s.setCtx c x).ckptOwed = s.ckptOwed := by unfold State.setCtx; split <;> rfl
@[simp] theorem State.setCtx_ckptSince (s : State) (c : CtxId) (x : Ctx) : (s.setCtx c x).ckptSince = s.ckptSince := by unfold State.setCtx; split <;> rfl
@[simp] theorem State.setCtx_hostWrites (s : State) (c : CtxId) (x : Ctx) : (s.setCtx c x).hostWrites = s.hostWrites := by unfold State.setCtx; split <;> rfl
@[simp] theorem State.setCtx_leases (s : State) (c : CtxId) (x : Ctx) : (s.setCtx c x).leases = s.leases := by unfold State.setCtx; split <;> rfl
@[simp] theorem State.setCtx_sd0 (s : State) (c : CtxId) (x : Ctx) : (s.setCtx c x).sd0 = s.sd0 := by unfold State.setCtx; split <;> rfl
@[simp] theorem State.setCtx_sd1 (s : State) (c : CtxId) (x : Ctx) : (s.setCtx c x).sd1 = s.sd1 := by unfold State.setCtx; split <;> rfl
@[simp] theorem State.setCtx_peers (s : State) (c : CtxId) (x : Ctx) : (s.setCtx c x).peers = s.peers := by unfold State.setCtx; split <;> rfl
@[simp] theorem State.setCtx_peerMap (s : State) (c : CtxId) (x : Ctx) : (s.setCtx c x).peerMap = s.peerMap := by unfold State.setCtx; split <;> rfl
@[simp] theorem State.setCtx_mgmt (s : State) (c : CtxId) (x : Ctx) : (s.setCtx c x).mgmt = s.mgmt := by unfold State.setCtx; split <;> rfl
@[simp] theorem State.setCtx_link (s : State) (c : CtxId) (x : Ctx) : (s.setCtx c x).link = s.link := by unfold State.setCtx; split <;> rfl
@[simp] theorem State.setCtx_hostOut (s : State) (c : CtxId) (x : Ctx) : (s.setCtx c x).hostOut = s.hostOut := by unfold State.setCtx; split <;> rfl

@[simp] theorem State.setSd_cur (s : State) (b : Bool) (x : SwitchDie) : (s.setSd b x).cur = s.cur := by cases b <;> rfl
@[simp] theorem State.setSd_me (s : State) (b : Bool) (x : SwitchDie) : (s.setSd b x).me = s.me := by cases b <;> rfl
@[simp] theorem State.setSd_others (s : State) (b : Bool) (x : SwitchDie) : (s.setSd b x).others = s.others := by cases b <;> rfl
@[simp] theorem State.setSd_ilen (s : State) (b : Bool) (x : SwitchDie) : (s.setSd b x).ilen = s.ilen := by cases b <;> rfl
@[simp] theorem State.setSd_istall (s : State) (b : Bool) (x : SwitchDie) : (s.setSd b x).istall = s.istall := by cases b <;> rfl
@[simp] theorem State.setSd_imid (s : State) (b : Bool) (x : SwitchDie) : (s.setSd b x).imid = s.imid := by cases b <;> rfl
@[simp] theorem State.setSd_held (s : State) (b : Bool) (x : SwitchDie) : (s.setSd b x).held = s.held := by cases b <;> rfl
@[simp] theorem State.setSd_free (s : State) (b : Bool) (x : SwitchDie) : (s.setSd b x).free = s.free := by cases b <;> rfl
@[simp] theorem State.setSd_opd (s : State) (b : Bool) (x : SwitchDie) : (s.setSd b x).opd = s.opd := by cases b <;> rfl
@[simp] theorem State.setSd_events (s : State) (b : Bool) (x : SwitchDie) : (s.setSd b x).events = s.events := by cases b <;> rfl
@[simp] theorem State.setSd_todo (s : State) (b : Bool) (x : SwitchDie) : (s.setSd b x).todo = s.todo := by cases b <;> rfl
@[simp] theorem State.setSd_st (s : State) (b : Bool) (x : SwitchDie) : (s.setSd b x).st = s.st := by cases b <;> rfl
@[simp] theorem State.setSd_sides (s : State) (b : Bool) (x : SwitchDie) : (s.setSd b x).sides = s.sides := by cases b <;> rfl
@[simp] theorem State.setSd_cores (s : State) (b : Bool) (x : SwitchDie) : (s.setSd b x).cores = s.cores := by cases b <;> rfl
@[simp] theorem State.setSd_dies (s : State) (b : Bool) (x : SwitchDie) : (s.setSd b x).dies = s.dies := by cases b <;> rfl
@[simp] theorem State.setSd_pods (s : State) (b : Bool) (x : SwitchDie) : (s.setSd b x).pods = s.pods := by cases b <;> rfl
@[simp] theorem State.setSd_pkg (s : State) (b : Bool) (x : SwitchDie) : (s.setSd b x).pkg = s.pkg := by cases b <;> rfl
@[simp] theorem State.setSd_domains (s : State) (b : Bool) (x : SwitchDie) : (s.setSd b x).domains = s.domains := by cases b <;> rfl
@[simp] theorem State.setSd_queues (s : State) (b : Bool) (x : SwitchDie) : (s.setSd b x).queues = s.queues := by cases b <;> rfl
@[simp] theorem State.setSd_packets (s : State) (b : Bool) (x : SwitchDie) : (s.setSd b x).packets = s.packets := by cases b <;> rfl
@[simp] theorem State.setSd_saved (s : State) (b : Bool) (x : SwitchDie) : (s.setSd b x).saved = s.saved := by cases b <;> rfl
@[simp] theorem State.setSd_preempts (s : State) (b : Bool) (x : SwitchDie) : (s.setSd b x).preempts = s.preempts := by cases b <;> rfl
@[simp] theorem State.setSd_kills (s : State) (b : Bool) (x : SwitchDie) : (s.setSd b x).kills = s.kills := by cases b <;> rfl
@[simp] theorem State.setSd_engine (s : State) (b : Bool) (x : SwitchDie) : (s.setSd b x).engine = s.engine := by cases b <;> rfl
@[simp] theorem State.setSd_cycle (s : State) (b : Bool) (x : SwitchDie) : (s.setSd b x).cycle = s.cycle := by cases b <;> rfl
@[simp] theorem State.setSd_empties (s : State) (b : Bool) (x : SwitchDie) : (s.setSd b x).empties = s.empties := by cases b <;> rfl
@[simp] theorem State.setSd_takes (s : State) (b : Bool) (x : SwitchDie) : (s.setSd b x).takes = s.takes := by cases b <;> rfl
@[simp] theorem State.setSd_bv (s : State) (b : Bool) (x : SwitchDie) : (s.setSd b x).bv = s.bv := by cases b <;> rfl
@[simp] theorem State.setSd_sets (s : State) (b : Bool) (x : SwitchDie) : (s.setSd b x).sets = s.sets := by cases b <;> rfl
@[simp] theorem State.setSd_collectives (s : State) (b : Bool) (x : SwitchDie) : (s.setSd b x).collectives = s.collectives := by cases b <;> rfl
@[simp] theorem State.setSd_mixtrap (s : State) (b : Bool) (x : SwitchDie) : (s.setSd b x).mixtrap = s.mixtrap := by cases b <;> rfl
@[simp] theorem State.setSd_strong (s : State) (b : Bool) (x : SwitchDie) : (s.setSd b x).strong = s.strong := by cases b <;> rfl
@[simp] theorem State.setSd_strongWrites (s : State) (b : Bool) (x : SwitchDie) : (s.setSd b x).strongWrites = s.strongWrites := by cases b <;> rfl
@[simp] theorem State.setSd_dir (s : State) (b : Bool) (x : SwitchDie) : (s.setSd b x).dir = s.dir := by cases b <;> rfl
@[simp] theorem State.setSd_hostHeld (s : State) (b : Bool) (x : SwitchDie) : (s.setSd b x).hostHeld = s.hostHeld := by cases b <;> rfl
@[simp] theorem State.setSd_hostCopies (s : State) (b : Bool) (x : SwitchDie) : (s.setSd b x).hostCopies = s.hostCopies := by cases b <;> rfl
@[simp] theorem State.setSd_hostPend (s : State) (b : Bool) (x : SwitchDie) : (s.setSd b x).hostPend = s.hostPend := by cases b <;> rfl
@[simp] theorem State.setSd_cohWait (s : State) (b : Bool) (x : SwitchDie) : (s.setSd b x).cohWait = s.cohWait := by cases b <;> rfl
@[simp] theorem State.setSd_ckptOwed (s : State) (b : Bool) (x : SwitchDie) : (s.setSd b x).ckptOwed = s.ckptOwed := by cases b <;> rfl
@[simp] theorem State.setSd_ckptSince (s : State) (b : Bool) (x : SwitchDie) : (s.setSd b x).ckptSince = s.ckptSince := by cases b <;> rfl
@[simp] theorem State.setSd_hostWrites (s : State) (b : Bool) (x : SwitchDie) : (s.setSd b x).hostWrites = s.hostWrites := by cases b <;> rfl
@[simp] theorem State.setSd_leases (s : State) (b : Bool) (x : SwitchDie) : (s.setSd b x).leases = s.leases := by cases b <;> rfl
@[simp] theorem State.setSd_peers (s : State) (b : Bool) (x : SwitchDie) : (s.setSd b x).peers = s.peers := by cases b <;> rfl
@[simp] theorem State.setSd_peerMap (s : State) (b : Bool) (x : SwitchDie) : (s.setSd b x).peerMap = s.peerMap := by cases b <;> rfl
@[simp] theorem State.setSd_mgmt (s : State) (b : Bool) (x : SwitchDie) : (s.setSd b x).mgmt = s.mgmt := by cases b <;> rfl
@[simp] theorem State.setSd_link (s : State) (b : Bool) (x : SwitchDie) : (s.setSd b x).link = s.link := by cases b <;> rfl
@[simp] theorem State.setSd_hostOut (s : State) (b : Bool) (x : SwitchDie) : (s.setSd b x).hostOut = s.hostOut := by cases b <;> rfl

/-- The executing context after it is replaced. -/
@[simp] theorem State.withMe_me (s : State) (x : Ctx) : (s.withMe x).me = x := rfl
@[simp] theorem State.push_events (s : State) (i : Instr) (o : Operand) : (s.push i o).events = s.events ++ [⟨i, o⟩] := rfl
@[simp] theorem State.finish_me_pc (s : State) : s.finish.me.pc = s.nextPc := rfl
@[simp] theorem State.finish_me_x (s : State) : s.finish.me.x = s.me.x := rfl
@[simp] theorem State.finish_me_vec (s : State) : s.finish.me.vec = s.me.vec := rfl
@[simp] theorem State.finish_me_flags (s : State) : s.finish.me.flags = s.me.flags := rfl
@[simp] theorem State.finish_me_rs (s : State) : s.finish.me.rs = s.me.rs := rfl
@[simp] theorem State.park_me_st (s : State) (w : Wait) : (s.park w).me.st = .wait := rfl
@[simp] theorem State.park_me_wait (s : State) (w : Wait) : (s.park w).me.wait = some w := rfl
@[simp] theorem State.wx_me_pc (s : State) (r : XReg) (v : Word) : (s.wx r v).me.pc = s.me.pc := rfl
@[simp] theorem State.wx_me_x (s : State) (r : XReg) (v : Word) : (s.wx r v).me.x = xSet s.me.x r v := rfl

end Sys2Proof.Machine
end

