-- ==== Sys2Proof/Laws/Ops.lean ====
section
/-! SUPPORT. What each shared operation can do, said once: confirming an access, reading and writing memory, raising a vector. -/

namespace Sys2Proof.Machine

/-! ## Confirming an access -/

/-- Filling a PLB changes the cores only. -/
theorem fillPlb_frame (s : State) (r : Req) (seg : Nat) : s.fillPlb r seg = { s with cores := (s.fillPlb r seg).cores } := by
  unfold State.fillPlb
  split
  · rfl
  · split
    · rfl
    · split <;> rfl

/-- Filling a TLB changes the dies only. -/
theorem fillTlb_frame (s : State) (r : Req) (off pa : Nat) : s.fillTlb r off pa = { s with dies := (s.fillTlb r off pa).dies } := by
  unfold State.fillTlb
  split <;> rfl

/-- An access that is confirmed changes PLBs and TLBs only. -/
theorem locate_frame {s t : State} {r : Req} {need : BitVec 5} {va : Nat} {l : Loc} (h : s.locate r need va = .ok (t, l)) :
    t = { s with cores := t.cores, dies := t.dies } := by
  have hp := fillPlb_frame s r (segOf va)
  simp only [State.locate] at h
  split at h
  · cases h
  · cases h
  · cases h
  · split at h <;> cases h
    rfl
  · repeat' split at h
    all_goals cases h
    · rw [hp]
    · rw [fillTlb_frame, hp]
  all_goals
    repeat' split at h
    all_goals cases h
    all_goals rw [hp]

/-- An access that is confirmed changes no byte and no register. -/
theorem locate_st {s t : State} {r : Req} {need : BitVec 5} {va : Nat} {l : Loc} (h : s.locate r need va = .ok (t, l)) :
    t.st = s.st ∧ t.me = s.me ∧ t.others = s.others ∧ t.cur = s.cur := by
  rw [locate_frame h]
  exact ⟨rfl, rfl, rfl, rfl⟩

/-! ## Bytes written -/

/-- Bytes written leave their location as `Stores.set` says, and no texture group formed from them. -/
@[simp] theorem putBytes_st (s : State) (l : Loc) (bs : List Byte) : (s.putBytes l bs).st = s.st.set l bs := rfl

theorem putBytes_frame (s : State) (l : Loc) (bs : List Byte) :
    s.putBytes l bs = { s with dies := (s.putBytes l bs).dies, st := (s.putBytes l bs).st } := rfl

/-! ## Stores of bytes -/

/-- Noting a line in the undo log changes no byte. -/
theorem undoNote_of (s : State) (line : Nat) (sp : Space) :
    (s.undoNote line).st.of sp = s.st.of sp ∧ (s.undoNote line).st.podScratch = s.st.podScratch := by
  unfold State.undoNote
  simp only []
  split
  · cases sp <;> exact ⟨rfl, rfl⟩
  · exact ⟨rfl, rfl⟩

theorem undoNote_frame (s : State) (line : Nat) :
    s.undoNote line = { s with sd0 := (s.undoNote line).sd0, sd1 := (s.undoNote line).sd1, st := (s.undoNote line).st } := by
  unfold State.undoNote
  simp only []
  split <;> rfl

/-- Noting lines in the undo log changes no byte. -/
theorem undoLines_of (s : State) (line n : Nat) (sp : Space) :
    (s.undoLines line n).st.of sp = s.st.of sp ∧ (s.undoLines line n).st.podScratch = s.st.podScratch := by
  induction n generalizing s line with
  | zero => exact ⟨rfl, rfl⟩
  | succ k ih =>
    obtain ⟨h1, h2⟩ := undoNote_of s line sp
    obtain ⟨h3, h4⟩ := ih (s.undoNote line) (line + 1)
    exact ⟨h3.trans h1, h4.trans h2⟩

theorem undoLines_frame (s : State) (line n : Nat) :
    s.undoLines line n = { s with sd0 := (s.undoLines line n).sd0, sd1 := (s.undoLines line n).sd1, st := (s.undoLines line n).st } := by
  induction n generalizing s line with
  | zero => rfl
  | succ k ih =>
    rw [State.undoLines, ih, undoNote_frame]

theorem undoLines_wf {s : State} {line n : Nat} (w : s.st.wf = true) : (s.undoLines line n).st.wf = true := by
  have h := fun sp => undoLines_of s line n sp
  simp only [Stores.wf, Bool.and_eq_true] at w ⊢
  have h1 := (h .dram).1
  have h2 := (h .peer).1
  have h3 := (h .host).1
  have h4 := (h .scratch).1
  have h5 := (h .staging).1
  have h6 := (h .dram).2
  simp only [Stores.of] at h1 h2 h3 h4 h5
  rw [h1, h2, h3, h4, h5, h6]
  exact w

/-- Noting the lines of a write in the undo log changes no byte. -/
theorem undoAt_of (s : State) (l : Loc) (n : Nat) (sp : Space) :
    (s.undoAt l n).st.of sp = s.st.of sp ∧ (s.undoAt l n).st.podScratch = s.st.podScratch := by
  obtain ⟨lsp, a⟩ := l
  cases lsp
  case dram => exact undoLines_of s _ _ sp
  all_goals exact ⟨rfl, rfl⟩

theorem undoAt_frame (s : State) (l : Loc) (n : Nat) :
    s.undoAt l n = { s with sd0 := (s.undoAt l n).sd0, sd1 := (s.undoAt l n).sd1, st := (s.undoAt l n).st } := by
  obtain ⟨lsp, a⟩ := l
  cases lsp
  case dram => exact undoLines_frame s _ _
  all_goals rfl

theorem undoAt_wf {s : State} {l : Loc} {n : Nat} (w : s.st.wf = true) : (s.undoAt l n).st.wf = true := by
  obtain ⟨lsp, a⟩ := l
  cases lsp
  case dram => exact undoLines_wf w
  all_goals exact w

/-- A store by a die writes its bytes at their location and no other byte. -/
theorem writeAt_of (s : State) (die va : Nat) (l : Loc) (bs : List Byte) (sp : Space) :
    (s.writeAt die va l bs).st.of sp = (if sp = l.sp then (s.st.of l.sp).writeN l.a bs else s.st.of sp) ∧
    (s.writeAt die va l bs).st.podScratch = s.st.podScratch := by
  have h := fun q => undoAt_of s l bs.length q
  refine ⟨?_, ?_⟩
  · simp only [State.writeAt, putBytes_st, State.noteDirty, Stores.set_of, (h l.sp).1, (h sp).1]
  · simp only [State.writeAt, putBytes_st, State.noteDirty, Stores.set, Stores.put_podScratch, (h sp).2]

theorem writeAt_frame (s : State) (die va : Nat) (l : Loc) (bs : List Byte) :
    s.writeAt die va l bs = { s with sd0 := (s.writeAt die va l bs).sd0, sd1 := (s.writeAt die va l bs).sd1,
                                     leases := (s.writeAt die va l bs).leases, dies := (s.writeAt die va l bs).dies,
                                     st := (s.writeAt die va l bs).st } := by
  simp only [State.writeAt]
  rw [putBytes_frame, State.noteDirty, undoAt_frame]

theorem writeAt_wf {s : State} {die va : Nat} {l : Loc} {bs : List Byte} (w : s.st.wf = true) : (s.writeAt die va l bs).st.wf = true :=
  Stores.set_wf (undoAt_wf w)

/-- A write at a home writes its bytes at their location and no other byte. -/
theorem writeHome_of (s : State) (l : Loc) (bs : List Byte) (sp : Space) :
    (s.writeHome l bs).st.of sp = (if sp = l.sp then (s.st.of l.sp).writeN l.a bs else s.st.of sp) ∧
    (s.writeHome l bs).st.podScratch = s.st.podScratch := by
  have h := fun q => undoAt_of s l bs.length q
  refine ⟨?_, ?_⟩
  · simp only [State.writeHome, putBytes_st, State.forget, Stores.set_of, (h l.sp).1, (h sp).1]
  · simp only [State.writeHome, putBytes_st, State.forget, Stores.set, Stores.put_podScratch, (h sp).2]

theorem writeHome_wf {s : State} {l : Loc} {bs : List Byte} (w : s.st.wf = true) : (s.writeHome l bs).st.wf = true :=
  Stores.set_wf (undoAt_wf w)

theorem writeHome_frame (s : State) (l : Loc) (bs : List Byte) :
    s.writeHome l bs = { s with sd0 := (s.writeHome l bs).sd0, sd1 := (s.writeHome l bs).sd1, leases := (s.writeHome l bs).leases,
                                dies := (s.writeHome l bs).dies, st := (s.writeHome l bs).st } := by
  simp only [State.writeHome]
  rw [putBytes_frame, State.forget, undoAt_frame]

/-! ## Firmware's tables, vectors -/

/-- A wait for the host notes that it has been asked, and changes nothing else. -/
theorem hostWait_frame {s u : State} {l : Loc} (h : s.hostWait l = some u) :
    u = { s with hostHeld := u.hostHeld, hostOut := u.hostOut } := by
  unfold State.hostWait at h
  split at h
  · cases h
  · split at h
    · cases h
    · split at h <;> cases h <;> rfl

/-- A write that the device makes of its own changes bytes, the undo log, leases, texture groups, and what waits for the host. -/
theorem devWrite_frame (s : State) (l : Loc) (bs : List Byte) :
    s.devWrite l bs = { s with sd0 := (s.devWrite l bs).sd0, sd1 := (s.devWrite l bs).sd1, leases := (s.devWrite l bs).leases,
                               dies := (s.devWrite l bs).dies, st := (s.devWrite l bs).st, hostHeld := (s.devWrite l bs).hostHeld,
                               hostOut := (s.devWrite l bs).hostOut, hostWrites := (s.devWrite l bs).hostWrites } := by
  unfold State.devWrite
  split
  · next u h =>
    rw [hostWait_frame h]
  · rw [writeHome_frame]

theorem devWrite_wf {s : State} {l : Loc} {bs : List Byte} (w : s.st.wf = true) : (s.devWrite l bs).st.wf = true := by
  unfold State.devWrite
  split
  · next u h =>
    rw [hostWait_frame h]
    exact w
  · exact writeHome_wf w

theorem fwWrite_frame (s : State) (va n v : Nat) :
    s.fwWrite va n v = { s with sd0 := (s.fwWrite va n v).sd0, sd1 := (s.fwWrite va n v).sd1, leases := (s.fwWrite va n v).leases,
                                dies := (s.fwWrite va n v).dies, st := (s.fwWrite va n v).st, hostHeld := (s.fwWrite va n v).hostHeld,
                                hostOut := (s.fwWrite va n v).hostOut, hostWrites := (s.fwWrite va n v).hostWrites } := by
  unfold State.fwWrite
  split
  · exact devWrite_frame s _ _
  · rfl

theorem fwWrite_wf {s : State} {va n v : Nat} (w : s.st.wf = true) : (s.fwWrite va n v).st.wf = true := by
  unfold State.fwWrite
  split
  · exact devWrite_wf w
  · exact w

/-- Raising a vector changes what a write of its entry does, and what the host sees. -/
theorem raiseVector_frame (s : State) (pdid vec : Nat) :
    s.raiseVector pdid vec = { s with sd0 := (s.raiseVector pdid vec).sd0, sd1 := (s.raiseVector pdid vec).sd1,
                                      leases := (s.raiseVector pdid vec).leases, dies := (s.raiseVector pdid vec).dies,
                                      st := (s.raiseVector pdid vec).st, hostHeld := (s.raiseVector pdid vec).hostHeld,
                                      hostOut := (s.raiseVector pdid vec).hostOut, hostWrites := (s.raiseVector pdid vec).hostWrites } := by
  unfold State.raiseVector
  split
  · rfl
  · simp only []
    split
    · split
      · rfl
      · rw [fwWrite_frame]
    · rfl

theorem raiseVector_wf {s : State} {pdid vec : Nat} (w : s.st.wf = true) : (s.raiseVector pdid vec).st.wf = true := by
  unfold State.raiseVector
  split
  · exact w
  · simp only []
    split
    · split
      · exact w
      · exact fwWrite_wf w
    · exact w

/-! ## Stores of the executing context -/

/-- Noting a write for a context changes no byte. -/
theorem notePath_st (s : State) (c : Option CtxId) (path : Nat) (l : Loc) (old : List Byte) : (s.notePath c path l old).st = s.st := by
  unfold State.notePath State.setCtx
  split
  · rfl
  · split
    · split <;> rfl
    · rfl

theorem viaOwner_st (s : State) (path va : Nat) (v : Word) : (s.viaOwner path va v).st = s.st := by
  unfold State.viaOwner
  split <;> rfl

theorem putOn_of (s : State) (path : Nat) (l : Loc) (va : Nat) (bs : List Byte) (sp : Space) :
    (s.putOn path l va bs).st.of sp = (if sp = l.sp then (s.st.of l.sp).writeN l.a bs else s.st.of sp) ∧
    (s.putOn path l va bs).st.podScratch = s.st.podScratch := by
  simp only [State.putOn]
  split
  · exact writeAt_of s _ va l bs sp
  · rw [notePath_st]
    exact writeAt_of s _ va l bs sp

/-- A store of the executing context that passes its checks writes its bytes at their location and no other byte. -/
theorem storeOn_of {s t : State} {path : Nat} {l : Loc} {va : Nat} {bs : List Byte} (h : s.storeOn path l va bs = .ok t) (sp : Space) :
    t.st.of sp = (if sp = l.sp then (s.st.of l.sp).writeN l.a bs else s.st.of sp) ∧ t.st.podScratch = s.st.podScratch := by
  unfold State.storeOn at h
  split at h
  · cases h
  · split at h
    · cases h
    · next u hu =>
      cases h
      rw [viaOwner_st, ← (claim_only hu).st.1]
      exact putOn_of u path l va bs sp

theorem storeOn_wf {s t : State} {path : Nat} {l : Loc} {va : Nat} {bs : List Byte} (h : s.storeOn path l va bs = .ok t)
    (w : s.st.wf = true) : t.st.wf = true := by
  unfold State.storeOn at h
  split at h
  · cases h
  · split at h
    · cases h
    · next u hu =>
      cases h
      rw [← (claim_only hu).st.1] at w
      rw [viaOwner_st]
      simp only [State.putOn]
      split
      · exact writeAt_wf w
      · rw [notePath_st]
        exact writeAt_wf w

theorem storeAt_of {s t : State} {l : Loc} {va : Nat} {bs : List Byte} (h : s.storeAt l va bs = .ok t) (sp : Space) :
    t.st.of sp = (if sp = l.sp then (s.st.of l.sp).writeN l.a bs else s.st.of sp) ∧ t.st.podScratch = s.st.podScratch :=
  storeOn_of h sp

theorem storeAt_wf {s t : State} {l : Loc} {va : Nat} {bs : List Byte} (h : s.storeAt l va bs = .ok t) (w : s.st.wf = true) :
    t.st.wf = true := storeOn_wf h w

end Sys2Proof.Machine
end

