-- ==== Sys2Proof/Laws/PerInstr.lean ====
section
/-! SUPPORT. What holds of every instruction as syntax, one lemma for each constructor of `Instr`. -/

namespace Sys2Proof

/-- The words of a chain end in its base word. -/
theorem Chain.words_last (c : Chain) : c.words.getLast? = some (c.major ++ (c.rd3 ++ (c.ra3 ++ (c.rb3 ++ c.fn)))) := by
  simp [Chain.words]

/-- A word with a major below 31 in its top five bits is no prefix (R104). -/
theorem Chain.base_lt (c : Chain) (h : c.major.toNat < 31) : (c.major ++ (c.rd3 ++ (c.ra3 ++ (c.rb3 ++ c.fn)))).toNat < 0xF800 := by
  have h1 := c.rd3.isLt
  have h2 := c.ra3.isLt
  have h3 := c.rb3.isLt
  have h4 := c.fn.isLt
  have h5 : (c.rd3 ++ (c.ra3 ++ (c.rb3 ++ c.fn))).toNat < 2 ^ 11 := (c.rd3 ++ (c.ra3 ++ (c.rb3 ++ c.fn))).isLt
  rw [BitVec.toNat_append, Nat.shiftLeft_eq, Nat.mul_comm, ← Nat.two_pow_add_eq_or_of_lt h5]
  omega

namespace Laws.Base

/-- R104: the words of an instruction that has an encoding end in one base word, which is no prefix. -/
def Statement (i : Instr) : Prop := ∀ (o : Operand) (ws : List Half), encode i o = some ws → ∃ b, ws.getLast? = some b ∧ b.toNat < 0xF800

/-- An instruction whose chain has a major below 31 ends in a base word. -/
theorem of_major {i : Instr} (f : Operand → Chain) (hf : ∀ o, chainOf i o = some (f o)) (h : ∀ o, (f o).major.toNat < 31) :
    Statement i := by
  intro o ws hw
  simp only [encode, encodeMarked, hf, Option.map_some, Option.some.injEq] at hw
  subst hw
  exact ⟨_, Chain.words_last _, Chain.base_lt _ (h o)⟩

/-- A step without an encoding has no words. -/
theorem of_none {i : Instr} (hf : ∀ o, chainOf i o = none) : Statement i := by
  intro o ws hw
  simp [encode, encodeMarked, hf] at hw

theorem add (d : XReg) (a : XReg) (b : XReg) : Statement (.add d a b) := of_major _ (fun _ => rfl) (fun _ => Nat.le_of_ble_eq_true rfl)
theorem sub (d : XReg) (a : XReg) (b : XReg) : Statement (.sub d a b) := of_major _ (fun _ => rfl) (fun _ => Nat.le_of_ble_eq_true rfl)
theorem and (d : XReg) (a : XReg) (b : XReg) : Statement (.and d a b) := of_major _ (fun _ => rfl) (fun _ => Nat.le_of_ble_eq_true rfl)
theorem or (d : XReg) (a : XReg) (b : XReg) : Statement (.or d a b) := of_major _ (fun _ => rfl) (fun _ => Nat.le_of_ble_eq_true rfl)
theorem xor (d : XReg) (a : XReg) (b : XReg) : Statement (.xor d a b) := of_major _ (fun _ => rfl) (fun _ => Nat.le_of_ble_eq_true rfl)
theorem slt (d : XReg) (a : XReg) (b : XReg) : Statement (.slt d a b) := of_major _ (fun _ => rfl) (fun _ => Nat.le_of_ble_eq_true rfl)
theorem sltu (d : XReg) (a : XReg) (b : XReg) : Statement (.sltu d a b) := of_major _ (fun _ => rfl) (fun _ => Nat.le_of_ble_eq_true rfl)
theorem seq (d : XReg) (a : XReg) (b : XReg) : Statement (.seq d a b) := of_major _ (fun _ => rfl) (fun _ => Nat.le_of_ble_eq_true rfl)
theorem sll (d : XReg) (a : XReg) (b : XReg) : Statement (.sll d a b) := of_major _ (fun _ => rfl) (fun _ => Nat.le_of_ble_eq_true rfl)
theorem srl (d : XReg) (a : XReg) (b : XReg) : Statement (.srl d a b) := of_major _ (fun _ => rfl) (fun _ => Nat.le_of_ble_eq_true rfl)
theorem sra (d : XReg) (a : XReg) (b : XReg) : Statement (.sra d a b) := of_major _ (fun _ => rfl) (fun _ => Nat.le_of_ble_eq_true rfl)
theorem ror (d : XReg) (a : XReg) (b : XReg) : Statement (.ror d a b) := of_major _ (fun _ => rfl) (fun _ => Nat.le_of_ble_eq_true rfl)
theorem mul (d : XReg) (a : XReg) (b : XReg) : Statement (.mul d a b) := of_major _ (fun _ => rfl) (fun _ => Nat.le_of_ble_eq_true rfl)
theorem mhigh (d : XReg) (a : XReg) (b : XReg) : Statement (.mhigh d a b) := of_major _ (fun _ => rfl) (fun _ => Nat.le_of_ble_eq_true rfl)
theorem mhighu (d : XReg) (a : XReg) (b : XReg) : Statement (.mhighu d a b) := of_major _ (fun _ => rfl) (fun _ => Nat.le_of_ble_eq_true rfl)
theorem mhighx (d : XReg) (a : XReg) (b : XReg) : Statement (.mhighx d a b) := of_major _ (fun _ => rfl) (fun _ => Nat.le_of_ble_eq_true rfl)
theorem div (d : XReg) (a : XReg) (b : XReg) : Statement (.div d a b) := of_major _ (fun _ => rfl) (fun _ => Nat.le_of_ble_eq_true rfl)
theorem divu (d : XReg) (a : XReg) (b : XReg) : Statement (.divu d a b) := of_major _ (fun _ => rfl) (fun _ => Nat.le_of_ble_eq_true rfl)
theorem rem (d : XReg) (a : XReg) (b : XReg) : Statement (.rem d a b) := of_major _ (fun _ => rfl) (fun _ => Nat.le_of_ble_eq_true rfl)
theorem remu (d : XReg) (a : XReg) (b : XReg) : Statement (.remu d a b) := of_major _ (fun _ => rfl) (fun _ => Nat.le_of_ble_eq_true rfl)
theorem clz (d : XReg) (a : XReg) : Statement (.clz d a) := of_major _ (fun _ => rfl) (fun _ => Nat.le_of_ble_eq_true rfl)
theorem ctz (d : XReg) (a : XReg) : Statement (.ctz d a) := of_major _ (fun _ => rfl) (fun _ => Nat.le_of_ble_eq_true rfl)
theorem popc (d : XReg) (a : XReg) : Statement (.popc d a) := of_major _ (fun _ => rfl) (fun _ => Nat.le_of_ble_eq_true rfl)
theorem brev (d : XReg) (a : XReg) : Statement (.brev d a) := of_major _ (fun _ => rfl) (fun _ => Nat.le_of_ble_eq_true rfl)
theorem sextb (d : XReg) (a : XReg) : Statement (.sextb d a) := of_major _ (fun _ => rfl) (fun _ => Nat.le_of_ble_eq_true rfl)
theorem sexth (d : XReg) (a : XReg) : Statement (.sexth d a) := of_major _ (fun _ => rfl) (fun _ => Nat.le_of_ble_eq_true rfl)
theorem sextw (d : XReg) (a : XReg) : Statement (.sextw d a) := of_major _ (fun _ => rfl) (fun _ => Nat.le_of_ble_eq_true rfl)
theorem zextw (d : XReg) (a : XReg) : Statement (.zextw d a) := of_major _ (fun _ => rfl) (fun _ => Nat.le_of_ble_eq_true rfl)
theorem addi (d : XReg) (a : XReg) (imm : Word) : Statement (.addi d a imm) := of_major _ (fun _ => rfl) (fun _ => Nat.le_of_ble_eq_true rfl)
theorem andi (d : XReg) (a : XReg) (imm : Word) : Statement (.andi d a imm) := of_major _ (fun _ => rfl) (fun _ => Nat.le_of_ble_eq_true rfl)
theorem ori (d : XReg) (a : XReg) (imm : Word) : Statement (.ori d a imm) := of_major _ (fun _ => rfl) (fun _ => Nat.le_of_ble_eq_true rfl)
theorem xori (d : XReg) (a : XReg) (imm : Word) : Statement (.xori d a imm) := of_major _ (fun _ => rfl) (fun _ => Nat.le_of_ble_eq_true rfl)
theorem slti (d : XReg) (a : XReg) (imm : Word) : Statement (.slti d a imm) := of_major _ (fun _ => rfl) (fun _ => Nat.le_of_ble_eq_true rfl)
theorem slli (d : XReg) (a : XReg) (n : BitVec 6) : Statement (.slli d a n) := of_major _ (fun _ => rfl) (fun _ => Nat.le_of_ble_eq_true rfl)
theorem srli (d : XReg) (a : XReg) (n : BitVec 6) : Statement (.srli d a n) := of_major _ (fun _ => rfl) (fun _ => Nat.le_of_ble_eq_true rfl)
theorem srai (d : XReg) (a : XReg) (n : BitVec 6) : Statement (.srai d a n) := of_major _ (fun _ => rfl) (fun _ => Nat.le_of_ble_eq_true rfl)
theorem li (d : XReg) (imm : Word) : Statement (.li d imm) := of_major _ (fun _ => rfl) (fun _ => Nat.le_of_ble_eq_true rfl)
theorem lis (d : XReg) (imm : BitVec 16) : Statement (.lis d imm) := of_major _ (fun _ => rfl) (fun _ => Nat.le_of_ble_eq_true rfl)
theorem lea (d : XReg) (a : XReg) (b : XReg) (sc : BitVec 2) : Statement (.lea d a b sc) := of_major _ (fun _ => rfl) (fun _ => Nat.le_of_ble_eq_true rfl)
theorem ld (d : XReg) (a : XReg) (imm : Word) : Statement (.ld d a imm) := of_major _ (fun _ => rfl) (fun _ => Nat.le_of_ble_eq_true rfl)
theorem lw (d : XReg) (a : XReg) (imm : Word) : Statement (.lw d a imm) := of_major _ (fun _ => rfl) (fun _ => Nat.le_of_ble_eq_true rfl)
theorem lwu (d : XReg) (a : XReg) (imm : Word) : Statement (.lwu d a imm) := of_major _ (fun _ => rfl) (fun _ => Nat.le_of_ble_eq_true rfl)
theorem lh (d : XReg) (a : XReg) (imm : Word) : Statement (.lh d a imm) := of_major _ (fun _ => rfl) (fun _ => Nat.le_of_ble_eq_true rfl)
theorem lhu (d : XReg) (a : XReg) (imm : Word) : Statement (.lhu d a imm) := of_major _ (fun _ => rfl) (fun _ => Nat.le_of_ble_eq_true rfl)
theorem lb (d : XReg) (a : XReg) (imm : Word) : Statement (.lb d a imm) := of_major _ (fun _ => rfl) (fun _ => Nat.le_of_ble_eq_true rfl)
theorem lbu (d : XReg) (a : XReg) (imm : Word) : Statement (.lbu d a imm) := of_major _ (fun _ => rfl) (fun _ => Nat.le_of_ble_eq_true rfl)
theorem lq (d : XReg) (a : XReg) (imm : Word) : Statement (.lq d a imm) := of_major _ (fun _ => rfl) (fun _ => Nat.le_of_ble_eq_true rfl)
theorem sd (d : XReg) (a : XReg) (imm : Word) (bj : Bool) : Statement (.sd d a imm bj) := of_major _ (fun _ => rfl) (fun _ => Nat.le_of_ble_eq_true rfl)
theorem sw (d : XReg) (a : XReg) (imm : Word) (bj : Bool) : Statement (.sw d a imm bj) := of_major _ (fun _ => rfl) (fun _ => Nat.le_of_ble_eq_true rfl)
theorem sh (d : XReg) (a : XReg) (imm : Word) (bj : Bool) : Statement (.sh d a imm bj) := of_major _ (fun _ => rfl) (fun _ => Nat.le_of_ble_eq_true rfl)
theorem sb (d : XReg) (a : XReg) (imm : Word) (bj : Bool) : Statement (.sb d a imm bj) := of_major _ (fun _ => rfl) (fun _ => Nat.le_of_ble_eq_true rfl)
theorem sq (d : XReg) (a : XReg) (imm : Word) (bj : Bool) : Statement (.sq d a imm bj) := of_major _ (fun _ => rfl) (fun _ => Nat.le_of_ble_eq_true rfl)
theorem beqz (d : XReg) (imm : Word) : Statement (.beqz d imm) := of_major _ (fun _ => rfl) (fun _ => Nat.le_of_ble_eq_true rfl)
theorem bnez (d : XReg) (imm : Word) : Statement (.bnez d imm) := of_major _ (fun _ => rfl) (fun _ => Nat.le_of_ble_eq_true rfl)
theorem bltz (d : XReg) (imm : Word) : Statement (.bltz d imm) := of_major _ (fun _ => rfl) (fun _ => Nat.le_of_ble_eq_true rfl)
theorem bgez (d : XReg) (imm : Word) : Statement (.bgez d imm) := of_major _ (fun _ => rfl) (fun _ => Nat.le_of_ble_eq_true rfl)
theorem j : Statement (.j) := of_major _ (fun _ => rfl) (fun _ => Nat.le_of_ble_eq_true rfl)
theorem call : Statement (.call) := of_major _ (fun _ => rfl) (fun _ => Nat.le_of_ble_eq_true rfl)
theorem jr (a : XReg) : Statement (.jr a) := of_major _ (fun _ => rfl) (fun _ => Nat.le_of_ble_eq_true rfl)
theorem callr (a : XReg) : Statement (.callr a) := of_major _ (fun _ => rfl) (fun _ => Nat.le_of_ble_eq_true rfl)
theorem ret : Statement (.ret) := of_major _ (fun _ => rfl) (fun _ => Nat.le_of_ble_eq_true rfl)
theorem endFiring : Statement (.endFiring) := of_major _ (fun _ => rfl) (fun _ => Nat.le_of_ble_eq_true rfl)
theorem srd (d : XReg) (n : BitVec 8) : Statement (.srd d n) := of_major _ (fun _ => rfl) (fun _ => Nat.le_of_ble_eq_true rfl)
theorem swr (d : XReg) (n : BitVec 8) : Statement (.swr d n) := of_major _ (fun _ => rfl) (fun _ => Nat.le_of_ble_eq_true rfl)
theorem trap : Statement (.trap) := of_major _ (fun _ => rfl) (fun _ => Nat.le_of_ble_eq_true rfl)
theorem brk : Statement (.brk) := of_major _ (fun _ => rfl) (fun _ => Nat.le_of_ble_eq_true rfl)
theorem vcfg (d : XReg) (a : XReg) (b : XReg) : Statement (.vcfg d a b) := of_major _ (fun _ => rfl) (fun _ => Nat.le_of_ble_eq_true rfl)
theorem vcfgw (a : XReg) : Statement (.vcfgw a) := of_major _ (fun _ => rfl) (fun _ => Nat.le_of_ble_eq_true rfl)
theorem vcfgs (d : XReg) (a : XReg) (b : XReg) : Statement (.vcfgs d a b) := of_major _ (fun _ => rfl) (fun _ => Nat.le_of_ble_eq_true rfl)
theorem vcfgi (d : XReg) (a : XReg) (imm : Word) : Statement (.vcfgi d a imm) := of_major _ (fun _ => rfl) (fun _ => Nat.le_of_ble_eq_true rfl)
theorem vadd (d : VNum) (a : VNum) (b : VSrc) (k : MReg) : Statement (.vadd d a b k) := of_major _ (fun _ => rfl) (fun _ => Nat.le_of_ble_eq_true rfl)
theorem vsub (d : VNum) (a : VNum) (b : VSrc) (k : MReg) : Statement (.vsub d a b k) := of_major _ (fun _ => rfl) (fun _ => Nat.le_of_ble_eq_true rfl)
theorem vmul (d : VNum) (a : VNum) (b : VSrc) (k : MReg) : Statement (.vmul d a b k) := of_major _ (fun _ => rfl) (fun _ => Nat.le_of_ble_eq_true rfl)
theorem vmhigh (d : VNum) (a : VNum) (b : VSrc) (k : MReg) : Statement (.vmhigh d a b k) := of_major _ (fun _ => rfl) (fun _ => Nat.le_of_ble_eq_true rfl)
theorem vand (d : VNum) (a : VNum) (b : VSrc) (k : MReg) : Statement (.vand d a b k) := of_major _ (fun _ => rfl) (fun _ => Nat.le_of_ble_eq_true rfl)
theorem vor (d : VNum) (a : VNum) (b : VSrc) (k : MReg) : Statement (.vor d a b k) := of_major _ (fun _ => rfl) (fun _ => Nat.le_of_ble_eq_true rfl)
theorem vxor (d : VNum) (a : VNum) (b : VSrc) (k : MReg) : Statement (.vxor d a b k) := of_major _ (fun _ => rfl) (fun _ => Nat.le_of_ble_eq_true rfl)
theorem vandn (d : VNum) (a : VNum) (b : VSrc) (k : MReg) : Statement (.vandn d a b k) := of_major _ (fun _ => rfl) (fun _ => Nat.le_of_ble_eq_true rfl)
theorem vsll (d : VNum) (a : VNum) (b : VSrc) (k : MReg) : Statement (.vsll d a b k) := of_major _ (fun _ => rfl) (fun _ => Nat.le_of_ble_eq_true rfl)
theorem vsrl (d : VNum) (a : VNum) (b : VSrc) (k : MReg) : Statement (.vsrl d a b k) := of_major _ (fun _ => rfl) (fun _ => Nat.le_of_ble_eq_true rfl)
theorem vsra (d : VNum) (a : VNum) (b : VSrc) (k : MReg) : Statement (.vsra d a b k) := of_major _ (fun _ => rfl) (fun _ => Nat.le_of_ble_eq_true rfl)
theorem vror (d : VNum) (a : VNum) (b : VSrc) (k : MReg) : Statement (.vror d a b k) := of_major _ (fun _ => rfl) (fun _ => Nat.le_of_ble_eq_true rfl)
theorem vmin (d : VNum) (a : VNum) (b : VSrc) (k : MReg) : Statement (.vmin d a b k) := of_major _ (fun _ => rfl) (fun _ => Nat.le_of_ble_eq_true rfl)
theorem vmax (d : VNum) (a : VNum) (b : VSrc) (k : MReg) : Statement (.vmax d a b k) := of_major _ (fun _ => rfl) (fun _ => Nat.le_of_ble_eq_true rfl)
theorem vminu (d : VNum) (a : VNum) (b : VSrc) (k : MReg) : Statement (.vminu d a b k) := of_major _ (fun _ => rfl) (fun _ => Nat.le_of_ble_eq_true rfl)
theorem vmaxu (d : VNum) (a : VNum) (b : VSrc) (k : MReg) : Statement (.vmaxu d a b k) := of_major _ (fun _ => rfl) (fun _ => Nat.le_of_ble_eq_true rfl)
theorem vsadd (d : VNum) (a : VNum) (b : VSrc) (k : MReg) : Statement (.vsadd d a b k) := of_major _ (fun _ => rfl) (fun _ => Nat.le_of_ble_eq_true rfl)
theorem vssub (d : VNum) (a : VNum) (b : VSrc) (k : MReg) : Statement (.vssub d a b k) := of_major _ (fun _ => rfl) (fun _ => Nat.le_of_ble_eq_true rfl)
theorem vsaddu (d : VNum) (a : VNum) (b : VSrc) (k : MReg) : Statement (.vsaddu d a b k) := of_major _ (fun _ => rfl) (fun _ => Nat.le_of_ble_eq_true rfl)
theorem vssubu (d : VNum) (a : VNum) (b : VSrc) (k : MReg) : Statement (.vssubu d a b k) := of_major _ (fun _ => rfl) (fun _ => Nat.le_of_ble_eq_true rfl)
theorem vdiv (d : VNum) (a : VNum) (b : VSrc) (k : MReg) : Statement (.vdiv d a b k) := of_major _ (fun _ => rfl) (fun _ => Nat.le_of_ble_eq_true rfl)
theorem vdivu (d : VNum) (a : VNum) (b : VSrc) (k : MReg) : Statement (.vdivu d a b k) := of_major _ (fun _ => rfl) (fun _ => Nat.le_of_ble_eq_true rfl)
theorem vrem (d : VNum) (a : VNum) (b : VSrc) (k : MReg) : Statement (.vrem d a b k) := of_major _ (fun _ => rfl) (fun _ => Nat.le_of_ble_eq_true rfl)
theorem vremu (d : VNum) (a : VNum) (b : VSrc) (k : MReg) : Statement (.vremu d a b k) := of_major _ (fun _ => rfl) (fun _ => Nat.le_of_ble_eq_true rfl)
theorem vfadd (d : VNum) (a : VNum) (b : VSrc) (k : MReg) (rm : BitVec 3) : Statement (.vfadd d a b k rm) := of_major _ (fun _ => rfl) (fun _ => Nat.le_of_ble_eq_true rfl)
theorem vfsub (d : VNum) (a : VNum) (b : VSrc) (k : MReg) (rm : BitVec 3) : Statement (.vfsub d a b k rm) := of_major _ (fun _ => rfl) (fun _ => Nat.le_of_ble_eq_true rfl)
theorem vfmul (d : VNum) (a : VNum) (b : VSrc) (k : MReg) (rm : BitVec 3) : Statement (.vfmul d a b k rm) := of_major _ (fun _ => rfl) (fun _ => Nat.le_of_ble_eq_true rfl)
theorem vfdiv (d : VNum) (a : VNum) (b : VSrc) (k : MReg) (rm : BitVec 3) : Statement (.vfdiv d a b k rm) := of_major _ (fun _ => rfl) (fun _ => Nat.le_of_ble_eq_true rfl)
theorem vfmin (d : VNum) (a : VNum) (b : VSrc) (k : MReg) : Statement (.vfmin d a b k) := of_major _ (fun _ => rfl) (fun _ => Nat.le_of_ble_eq_true rfl)
theorem vfmax (d : VNum) (a : VNum) (b : VSrc) (k : MReg) : Statement (.vfmax d a b k) := of_major _ (fun _ => rfl) (fun _ => Nat.le_of_ble_eq_true rfl)
theorem vfsqrt (d : VNum) (a : VNum) (k : MReg) (rm : BitVec 3) : Statement (.vfsqrt d a k rm) := of_major _ (fun _ => rfl) (fun _ => Nat.le_of_ble_eq_true rfl)
theorem vfneg (d : VNum) (a : VNum) (k : MReg) : Statement (.vfneg d a k) := of_major _ (fun _ => rfl) (fun _ => Nat.le_of_ble_eq_true rfl)
theorem vfma (d : VNum) (a : VNum) (b : VSrc) (k : MReg) (rm : BitVec 3) : Statement (.vfma d a b k rm) := of_major _ (fun _ => rfl) (fun _ => Nat.le_of_ble_eq_true rfl)
theorem vfms (d : VNum) (a : VNum) (b : VSrc) (k : MReg) (rm : BitVec 3) : Statement (.vfms d a b k rm) := of_major _ (fun _ => rfl) (fun _ => Nat.le_of_ble_eq_true rfl)
theorem vfnma (d : VNum) (a : VNum) (b : VSrc) (k : MReg) (rm : BitVec 3) : Statement (.vfnma d a b k rm) := of_major _ (fun _ => rfl) (fun _ => Nat.le_of_ble_eq_true rfl)
theorem vfnms (d : VNum) (a : VNum) (b : VSrc) (k : MReg) (rm : BitVec 3) : Statement (.vfnms d a b k rm) := of_major _ (fun _ => rfl) (fun _ => Nat.le_of_ble_eq_true rfl)
theorem vcvtff (d : VNum) (a : VNum) (k : MReg) (rm : BitVec 3) : Statement (.vcvtff d a k rm) := of_major _ (fun _ => rfl) (fun _ => Nat.le_of_ble_eq_true rfl)
theorem vcvtif (d : VNum) (a : VNum) (k : MReg) (rm : BitVec 3) : Statement (.vcvtif d a k rm) := of_major _ (fun _ => rfl) (fun _ => Nat.le_of_ble_eq_true rfl)
theorem vcvtfi (d : VNum) (a : VNum) (k : MReg) (rm : BitVec 3) : Statement (.vcvtfi d a k rm) := of_major _ (fun _ => rfl) (fun _ => Nat.le_of_ble_eq_true rfl)
theorem vcvtii (d : VNum) (a : VNum) (k : MReg) : Statement (.vcvtii d a k) := of_major _ (fun _ => rfl) (fun _ => Nat.le_of_ble_eq_true rfl)
theorem vwadd (d : VNum) (a : VNum) (b : VSrc) (k : MReg) (fp : Bool) (rm : BitVec 3) : Statement (.vwadd d a b k fp rm) := of_major _ (fun _ => rfl) (fun _ => Nat.le_of_ble_eq_true rfl)
theorem vwmul (d : VNum) (a : VNum) (b : VSrc) (k : MReg) (fp : Bool) (rm : BitVec 3) : Statement (.vwmul d a b k fp rm) := of_major _ (fun _ => rfl) (fun _ => Nat.le_of_ble_eq_true rfl)
theorem vwmacc (d : VNum) (a : VNum) (b : VSrc) (k : MReg) (fp : Bool) (rm : BitVec 3) : Statement (.vwmacc d a b k fp rm) := of_major _ (fun _ => rfl) (fun _ => Nat.le_of_ble_eq_true rfl)
theorem vdot (d : VNum) (a : VNum) (b : VSrc) (k : MReg) (fp : Bool) (rm : BitVec 3) : Statement (.vdot d a b k fp rm) := of_major _ (fun _ => rfl) (fun _ => Nat.le_of_ble_eq_true rfl)
theorem vcmpeq (d : MReg) (a : VNum) (b : VSrc) (k : MReg) : Statement (.vcmpeq d a b k) := of_major _ (fun _ => rfl) (fun _ => Nat.le_of_ble_eq_true rfl)
theorem vcmpne (d : MReg) (a : VNum) (b : VSrc) (k : MReg) : Statement (.vcmpne d a b k) := of_major _ (fun _ => rfl) (fun _ => Nat.le_of_ble_eq_true rfl)
theorem vcmplt (d : MReg) (a : VNum) (b : VSrc) (k : MReg) : Statement (.vcmplt d a b k) := of_major _ (fun _ => rfl) (fun _ => Nat.le_of_ble_eq_true rfl)
theorem vcmple (d : MReg) (a : VNum) (b : VSrc) (k : MReg) : Statement (.vcmple d a b k) := of_major _ (fun _ => rfl) (fun _ => Nat.le_of_ble_eq_true rfl)
theorem vfcmpeq (d : MReg) (a : VNum) (b : VSrc) (k : MReg) : Statement (.vfcmpeq d a b k) := of_major _ (fun _ => rfl) (fun _ => Nat.le_of_ble_eq_true rfl)
theorem vfcmplt (d : MReg) (a : VNum) (b : VSrc) (k : MReg) : Statement (.vfcmplt d a b k) := of_major _ (fun _ => rfl) (fun _ => Nat.le_of_ble_eq_true rfl)
theorem vfcmple (d : MReg) (a : VNum) (b : VSrc) (k : MReg) : Statement (.vfcmple d a b k) := of_major _ (fun _ => rfl) (fun _ => Nat.le_of_ble_eq_true rfl)
theorem vfcmpun (d : MReg) (a : VNum) (b : VSrc) (k : MReg) : Statement (.vfcmpun d a b k) := of_major _ (fun _ => rfl) (fun _ => Nat.le_of_ble_eq_true rfl)
theorem mand (d : MReg) (a : MReg) (b : MReg) : Statement (.mand d a b) := of_major _ (fun _ => rfl) (fun _ => Nat.le_of_ble_eq_true rfl)
theorem mor (d : MReg) (a : MReg) (b : MReg) : Statement (.mor d a b) := of_major _ (fun _ => rfl) (fun _ => Nat.le_of_ble_eq_true rfl)
theorem mxor (d : MReg) (a : MReg) (b : MReg) : Statement (.mxor d a b) := of_major _ (fun _ => rfl) (fun _ => Nat.le_of_ble_eq_true rfl)
theorem mandn (d : MReg) (a : MReg) (b : MReg) : Statement (.mandn d a b) := of_major _ (fun _ => rfl) (fun _ => Nat.le_of_ble_eq_true rfl)
theorem vany (d : XReg) (a : MReg) : Statement (.vany d a) := of_major _ (fun _ => rfl) (fun _ => Nat.le_of_ble_eq_true rfl)
theorem vnone (d : XReg) (a : MReg) : Statement (.vnone d a) := of_major _ (fun _ => rfl) (fun _ => Nat.le_of_ble_eq_true rfl)
theorem vmcnt (d : XReg) (a : MReg) : Statement (.vmcnt d a) := of_major _ (fun _ => rfl) (fun _ => Nat.le_of_ble_eq_true rfl)
theorem vfind (d : XReg) (a : MReg) : Statement (.vfind d a) := of_major _ (fun _ => rfl) (fun _ => Nat.le_of_ble_eq_true rfl)
theorem vmv (d : VNum) (a : VNum) (b : BitVec 5) (k : MReg) : Statement (.vmv d a b k) := of_major _ (fun _ => rfl) (fun _ => Nat.le_of_ble_eq_true rfl)
theorem vbcast (d : VNum) (a : XReg) (k : MReg) : Statement (.vbcast d a k) := of_major _ (fun _ => rfl) (fun _ => Nat.le_of_ble_eq_true rfl)
theorem vgetx (d : XReg) (a : VNum) (b : XReg) (k : MReg) : Statement (.vgetx d a b k) := of_major _ (fun _ => rfl) (fun _ => Nat.le_of_ble_eq_true rfl)
theorem vmerge (d : VNum) (a : VNum) (b : VNum) (k : MReg) : Statement (.vmerge d a b k) := of_major _ (fun _ => rfl) (fun _ => Nat.le_of_ble_eq_true rfl)
theorem vperm (d : VNum) (a : VNum) (b : VSrc) (k : MReg) : Statement (.vperm d a b k) := of_major _ (fun _ => rfl) (fun _ => Nat.le_of_ble_eq_true rfl)
theorem vshup (d : VNum) (a : VNum) (b : VSrc) (k : MReg) : Statement (.vshup d a b k) := of_major _ (fun _ => rfl) (fun _ => Nat.le_of_ble_eq_true rfl)
theorem vshdn (d : VNum) (a : VNum) (b : VSrc) (k : MReg) : Statement (.vshdn d a b k) := of_major _ (fun _ => rfl) (fun _ => Nat.le_of_ble_eq_true rfl)
theorem vpack (d : VNum) (a : VNum) (b : VSrc) (k : MReg) : Statement (.vpack d a b k) := of_major _ (fun _ => rfl) (fun _ => Nat.le_of_ble_eq_true rfl)
theorem vilv (d : VNum) (a : VNum) (b : VNum) (k : MReg) : Statement (.vilv d a b k) := of_major _ (fun _ => rfl) (fun _ => Nat.le_of_ble_eq_true rfl)
theorem vdilv (d : VNum) (a : VNum) (b : VNum) (k : MReg) (odd : Bool) : Statement (.vdilv d a b k odd) := of_major _ (fun _ => rfl) (fun _ => Nat.le_of_ble_eq_true rfl)
theorem vrev (d : VNum) (a : VNum) (k : MReg) : Statement (.vrev d a k) := of_major _ (fun _ => rfl) (fun _ => Nat.le_of_ble_eq_true rfl)
theorem vrank (d : VNum) (a : VNum) (k : MReg) (incl : Bool) : Statement (.vrank d a k incl) := of_major _ (fun _ => rfl) (fun _ => Nat.le_of_ble_eq_true rfl)
theorem vredsum (d : VNum) (a : VNum) (b : VNum) (k : MReg) : Statement (.vredsum d a b k) := of_major _ (fun _ => rfl) (fun _ => Nat.le_of_ble_eq_true rfl)
theorem vredmin (d : VNum) (a : VNum) (b : VNum) (k : MReg) : Statement (.vredmin d a b k) := of_major _ (fun _ => rfl) (fun _ => Nat.le_of_ble_eq_true rfl)
theorem vredmax (d : VNum) (a : VNum) (b : VNum) (k : MReg) : Statement (.vredmax d a b k) := of_major _ (fun _ => rfl) (fun _ => Nat.le_of_ble_eq_true rfl)
theorem vfredsum (d : VNum) (a : VNum) (b : VNum) (k : MReg) (rm : BitVec 3) : Statement (.vfredsum d a b k rm) := of_major _ (fun _ => rfl) (fun _ => Nat.le_of_ble_eq_true rfl)
theorem vfredmin (d : VNum) (a : VNum) (b : VNum) (k : MReg) : Statement (.vfredmin d a b k) := of_major _ (fun _ => rfl) (fun _ => Nat.le_of_ble_eq_true rfl)
theorem vfredmax (d : VNum) (a : VNum) (b : VNum) (k : MReg) : Statement (.vfredmax d a b k) := of_major _ (fun _ => rfl) (fun _ => Nat.le_of_ble_eq_true rfl)
theorem vredand (d : VNum) (a : VNum) (b : VNum) (k : MReg) : Statement (.vredand d a b k) := of_major _ (fun _ => rfl) (fun _ => Nat.le_of_ble_eq_true rfl)
theorem vredor (d : VNum) (a : VNum) (b : VNum) (k : MReg) : Statement (.vredor d a b k) := of_major _ (fun _ => rfl) (fun _ => Nat.le_of_ble_eq_true rfl)
theorem vaddi (d : VNum) (a : VNum) (imm : Word) (k : MReg) : Statement (.vaddi d a imm k) := of_major _ (fun _ => rfl) (fun _ => Nat.le_of_ble_eq_true rfl)
theorem vld (d : VNum) (a : XReg) (imm : Word) (k : MReg) : Statement (.vld d a imm k) := of_major _ (fun _ => rfl) (fun _ => Nat.le_of_ble_eq_true rfl)
theorem vst (d : VNum) (a : XReg) (imm : Word) (k : MReg) (bj : Bool) : Statement (.vst d a imm k bj) := of_major _ (fun _ => rfl) (fun _ => Nat.le_of_ble_eq_true rfl)
theorem vlds (d : VNum) (a : XReg) (b : XReg) (k : MReg) : Statement (.vlds d a b k) := of_major _ (fun _ => rfl) (fun _ => Nat.le_of_ble_eq_true rfl)
theorem vsts (d : VNum) (a : XReg) (b : XReg) (k : MReg) (bj : Bool) : Statement (.vsts d a b k bj) := of_major _ (fun _ => rfl) (fun _ => Nat.le_of_ble_eq_true rfl)
theorem vldx (d : VNum) (a : XReg) (b : VNum) (k : MReg) : Statement (.vldx d a b k) := of_major _ (fun _ => rfl) (fun _ => Nat.le_of_ble_eq_true rfl)
theorem vstx (d : VNum) (a : XReg) (b : VNum) (k : MReg) (bj : Bool) : Statement (.vstx d a b k bj) := of_major _ (fun _ => rfl) (fun _ => Nat.le_of_ble_eq_true rfl)
theorem vldb (d : VNum) (a : XReg) (b : VNum) (k : MReg) : Statement (.vldb d a b k) := of_major _ (fun _ => rfl) (fun _ => Nat.le_of_ble_eq_true rfl)
theorem vstb (d : VNum) (a : XReg) (b : VNum) (k : MReg) (bj : Bool) : Statement (.vstb d a b k bj) := of_major _ (fun _ => rfl) (fun _ => Nat.le_of_ble_eq_true rfl)
theorem vstmc (d : VNum) (a : XReg) (b : XReg) (k : MReg) : Statement (.vstmc d a b k) := of_major _ (fun _ => rfl) (fun _ => Nat.le_of_ble_eq_true rfl)
theorem vstred (d : VNum) (a : XReg) (b : VNum) (k : MReg) (op : BitVec 3) : Statement (.vstred d a b k op) := of_major _ (fun _ => rfl) (fun _ => Nat.le_of_ble_eq_true rfl)
theorem vldff (d : VNum) (a : XReg) (imm : Word) (k : MReg) : Statement (.vldff d a imm k) := of_major _ (fun _ => rfl) (fun _ => Nat.le_of_ble_eq_true rfl)
theorem vpref (a : XReg) (imm : Word) : Statement (.vpref a imm) := of_major _ (fun _ => rfl) (fun _ => Nat.le_of_ble_eq_true rfl)
theorem vedge (d : VNum) (a : VNum) (b : VNum) (k : MReg) : Statement (.vedge d a b k) := of_major _ (fun _ => rfl) (fun _ => Nat.le_of_ble_eq_true rfl)
theorem vedgetl (d : VNum) (a : VNum) (b : VNum) (k : MReg) : Statement (.vedgetl d a b k) := of_major _ (fun _ => rfl) (fun _ => Nat.le_of_ble_eq_true rfl)
theorem vcover (d : VNum) (a : VNum) (b : VNum) (k : MReg) : Statement (.vcover d a b k) := of_major _ (fun _ => rfl) (fun _ => Nat.le_of_ble_eq_true rfl)
theorem vbary (d : VNum) (a : VNum) (b : VNum) (k : MReg) : Statement (.vbary d a b k) := of_major _ (fun _ => rfl) (fun _ => Nat.le_of_ble_eq_true rfl)
theorem vbaryp (d : VNum) (a : VNum) (b : VNum) (k : MReg) : Statement (.vbaryp d a b k) := of_major _ (fun _ => rfl) (fun _ => Nat.le_of_ble_eq_true rfl)
theorem boxt (d : VNum) (a : VNum) (b : VNum) (k : MReg) : Statement (.boxt d a b k) := of_major _ (fun _ => rfl) (fun _ => Nat.le_of_ble_eq_true rfl)
theorem trit (d : VNum) (a : VNum) (b : VNum) (k : MReg) : Statement (.trit d a b k) := of_major _ (fun _ => rfl) (fun _ => Nat.le_of_ble_eq_true rfl)
theorem callst (d : XReg) (a : XReg) (b : XReg) : Statement (.callst d a b) := of_major _ (fun _ => rfl) (fun _ => Nat.le_of_ble_eq_true rfl)
theorem texadr (d : VNum) (a : XReg) (b : VNum) (k : MReg) : Statement (.texadr d a b k) := of_major _ (fun _ => rfl) (fun _ => Nat.le_of_ble_eq_true rfl)
theorem texld (d : VNum) (a : XReg) (b : VNum) (k : MReg) : Statement (.texld d a b k) := of_major _ (fun _ => rfl) (fun _ => Nat.le_of_ble_eq_true rfl)
theorem texbil (d : VNum) (a : XReg) (b : VNum) (k : MReg) : Statement (.texbil d a b k) := of_major _ (fun _ => rfl) (fun _ => Nat.le_of_ble_eq_true rfl)
theorem textri (d : VNum) (a : XReg) (b : VNum) (k : MReg) : Statement (.textri d a b k) := of_major _ (fun _ => rfl) (fun _ => Nat.le_of_ble_eq_true rfl)
theorem send (d : XReg) (a : XReg) (b : XReg) : Statement (.send d a b) := of_major _ (fun _ => rfl) (fun _ => Nat.le_of_ble_eq_true rfl)
theorem reply (a : XReg) (b : XReg) : Statement (.reply a b) := of_major _ (fun _ => rfl) (fun _ => Nat.le_of_ble_eq_true rfl)
theorem hret : Statement (.hret) := of_major _ (fun _ => rfl) (fun _ => Nat.le_of_ble_eq_true rfl)
theorem migrate (d : XReg) (a : XReg) : Statement (.migrate d a) := of_major _ (fun _ => rfl) (fun _ => Nat.le_of_ble_eq_true rfl)
theorem fetake (d : XReg) (a : XReg) (sc : BitVec 3) : Statement (.fetake d a sc) := of_major _ (fun _ => rfl) (fun _ => Nat.le_of_ble_eq_true rfl)
theorem fefill (d : XReg) (a : XReg) (b : XReg) (sc : BitVec 3) : Statement (.fefill d a b sc) := of_major _ (fun _ => rfl) (fun _ => Nat.le_of_ble_eq_true rfl)
theorem fepeek (d : XReg) (a : XReg) (sc : BitVec 3) : Statement (.fepeek d a sc) := of_major _ (fun _ => rfl) (fun _ => Nat.le_of_ble_eq_true rfl)
theorem atadd (d : XReg) (a : XReg) (b : XReg) (sc : BitVec 3) (sz : BitVec 2) : Statement (.atadd d a b sc sz) := of_major _ (fun _ => rfl) (fun _ => Nat.le_of_ble_eq_true rfl)
theorem atswap (d : XReg) (a : XReg) (b : XReg) (sc : BitVec 3) (sz : BitVec 2) : Statement (.atswap d a b sc sz) := of_major _ (fun _ => rfl) (fun _ => Nat.le_of_ble_eq_true rfl)
theorem atcas (d : XReg) (a : XReg) (b : XReg) (sc : BitVec 3) (sz : BitVec 2) : Statement (.atcas d a b sc sz) := of_major _ (fun _ => rfl) (fun _ => Nat.le_of_ble_eq_true rfl)
theorem atmax (d : XReg) (a : XReg) (b : XReg) (sc : BitVec 3) (sz : BitVec 2) : Statement (.atmax d a b sc sz) := of_major _ (fun _ => rfl) (fun _ => Nat.le_of_ble_eq_true rfl)
theorem atand (d : XReg) (a : XReg) (b : XReg) (sc : BitVec 3) (sz : BitVec 2) : Statement (.atand d a b sc sz) := of_major _ (fun _ => rfl) (fun _ => Nat.le_of_ble_eq_true rfl)
theorem ator (d : XReg) (a : XReg) (b : XReg) (sc : BitVec 3) (sz : BitVec 2) : Statement (.ator d a b sc sz) := of_major _ (fun _ => rfl) (fun _ => Nat.le_of_ble_eq_true rfl)
theorem atmin (d : XReg) (a : XReg) (b : XReg) (sc : BitVec 3) (sz : BitVec 2) : Statement (.atmin d a b sc sz) := of_major _ (fun _ => rfl) (fun _ => Nat.le_of_ble_eq_true rfl)
theorem amaxm (d : XReg) (a : XReg) (b : XReg) (sc : BitVec 3) (sz : BitVec 2) : Statement (.amaxm d a b sc sz) := of_major _ (fun _ => rfl) (fun _ => Nat.le_of_ble_eq_true rfl)
theorem ipost (d : XReg) (a : XReg) (b : XReg) (rst : Bool) : Statement (.ipost d a b rst) := of_major _ (fun _ => rfl) (fun _ => Nat.le_of_ble_eq_true rfl)
theorem iwait (d : XReg) (a : XReg) (b : XReg) : Statement (.iwait d a b) := of_major _ (fun _ => rfl) (fun _ => Nat.le_of_ble_eq_true rfl)
theorem post (d : XReg) (a : XReg) (b : XReg) (sc : BitVec 3) (sp : Bool) : Statement (.post d a b sc sp) := of_major _ (fun _ => rfl) (fun _ => Nat.le_of_ble_eq_true rfl)
theorem pwait (d : XReg) (a : XReg) (b : XReg) (sc : BitVec 3) (sp : Bool) : Statement (.pwait d a b sc sp) := of_major _ (fun _ => rfl) (fun _ => Nat.le_of_ble_eq_true rfl)
theorem swait : Statement (.swait) := of_major _ (fun _ => rfl) (fun _ => Nat.le_of_ble_eq_true rfl)
theorem waitt (d : XReg) (a : XReg) (b : XReg) (sc : BitVec 3) (sp : Bool) : Statement (.waitt d a b sc sp) := of_major _ (fun _ => rfl) (fun _ => Nat.le_of_ble_eq_true rfl)
theorem tcwait (d : XReg) (a : XReg) (b : XReg) (sc : BitVec 3) : Statement (.tcwait d a b sc) := of_major _ (fun _ => rfl) (fun _ => Nat.le_of_ble_eq_true rfl)
theorem tcdone (d : XReg) (a : XReg) (b : XReg) (sc : BitVec 3) : Statement (.tcdone d a b sc) := of_major _ (fun _ => rfl) (fun _ => Nat.le_of_ble_eq_true rfl)
theorem tkget (d : XReg) (a : XReg) (b : XReg) (sc : BitVec 3) : Statement (.tkget d a b sc) := of_major _ (fun _ => rfl) (fun _ => Nat.le_of_ble_eq_true rfl)
theorem penq (d : XReg) (a : XReg) (b : XReg) : Statement (.penq d a b) := of_major _ (fun _ => rfl) (fun _ => Nat.le_of_ble_eq_true rfl)
theorem fence (sc : BitVec 3) (n : BitVec 8) : Statement (.fence sc n) := of_major _ (fun _ => rfl) (fun _ => Nat.le_of_ble_eq_true rfl)
theorem fencex (sc : BitVec 3) (n : BitVec 8) : Statement (.fencex sc n) := of_major _ (fun _ => rfl) (fun _ => Nat.le_of_ble_eq_true rfl)
theorem bopen (d : XReg) (a : XReg) (b : XReg) : Statement (.bopen d a b) := of_major _ (fun _ => rfl) (fun _ => Nat.le_of_ble_eq_true rfl)
theorem bcommit (d : XReg) : Statement (.bcommit d) := of_major _ (fun _ => rfl) (fun _ => Nat.le_of_ble_eq_true rfl)
theorem bsnap (d : XReg) (a : XReg) : Statement (.bsnap d a) := of_major _ (fun _ => rfl) (fun _ => Nat.le_of_ble_eq_true rfl)
theorem bend (d : XReg) : Statement (.bend d) := of_major _ (fun _ => rfl) (fun _ => Nat.le_of_ble_eq_true rfl)
theorem breclaim (d : XReg) (a : XReg) : Statement (.breclaim d a) := of_major _ (fun _ => rfl) (fun _ => Nat.le_of_ble_eq_true rfl)
theorem lda (d : XReg) (a : XReg) (imm : Word) (sc : BitVec 3) : Statement (.lda d a imm sc) := of_major _ (fun _ => rfl) (fun _ => Nat.le_of_ble_eq_true rfl)
theorem ldaw (d : XReg) (a : XReg) (imm : Word) (sc : BitVec 3) : Statement (.ldaw d a imm sc) := of_major _ (fun _ => rfl) (fun _ => Nat.le_of_ble_eq_true rfl)
theorem ldah (d : XReg) (a : XReg) (imm : Word) (sc : BitVec 3) : Statement (.ldah d a imm sc) := of_major _ (fun _ => rfl) (fun _ => Nat.le_of_ble_eq_true rfl)
theorem ldab (d : XReg) (a : XReg) (imm : Word) (sc : BitVec 3) : Statement (.ldab d a imm sc) := of_major _ (fun _ => rfl) (fun _ => Nat.le_of_ble_eq_true rfl)
theorem stl (d : XReg) (a : XReg) (imm : Word) (sc : BitVec 3) : Statement (.stl d a imm sc) := of_major _ (fun _ => rfl) (fun _ => Nat.le_of_ble_eq_true rfl)
theorem stlw (d : XReg) (a : XReg) (imm : Word) (sc : BitVec 3) : Statement (.stlw d a imm sc) := of_major _ (fun _ => rfl) (fun _ => Nat.le_of_ble_eq_true rfl)
theorem stlh (d : XReg) (a : XReg) (imm : Word) (sc : BitVec 3) : Statement (.stlh d a imm sc) := of_major _ (fun _ => rfl) (fun _ => Nat.le_of_ble_eq_true rfl)
theorem stlb (d : XReg) (a : XReg) (imm : Word) (sc : BitVec 3) : Statement (.stlb d a imm sc) := of_major _ (fun _ => rfl) (fun _ => Nat.le_of_ble_eq_true rfl)
theorem cpbatch (d : MReg) (a : XReg) (b : VNum) (k : MReg) : Statement (.cpbatch d a b k) := of_major _ (fun _ => rfl) (fun _ => Nat.le_of_ble_eq_true rfl)
theorem cpsleep (d : XReg) (a : XReg) : Statement (.cpsleep d a) := of_major _ (fun _ => rfl) (fun _ => Nat.le_of_ble_eq_true rfl)
theorem cpwait (d : XReg) (a : XReg) : Statement (.cpwait d a) := of_major _ (fun _ => rfl) (fun _ => Nat.le_of_ble_eq_true rfl)
theorem hsgath (d : VNum) (a : XReg) (b : VNum) (k : MReg) : Statement (.hsgath d a b k) := of_major _ (fun _ => rfl) (fun _ => Nat.le_of_ble_eq_true rfl)
theorem clred (d : XReg) (a : XReg) (b : XReg) : Statement (.clred d a b) := of_major _ (fun _ => rfl) (fun _ => Nat.le_of_ble_eq_true rfl)
theorem clbcast (d : XReg) (a : XReg) (b : XReg) : Statement (.clbcast d a b) := of_major _ (fun _ => rfl) (fun _ => Nat.le_of_ble_eq_true rfl)
theorem clgather (d : XReg) (a : XReg) (b : XReg) : Statement (.clgather d a b) := of_major _ (fun _ => rfl) (fun _ => Nat.le_of_ble_eq_true rfl)
theorem clwait (d : XReg) (a : XReg) : Statement (.clwait d a) := of_major _ (fun _ => rfl) (fun _ => Nat.le_of_ble_eq_true rfl)
theorem mxreq (d : XReg) (a : XReg) (b : XReg) : Statement (.mxreq d a b) := of_major _ (fun _ => rfl) (fun _ => Nat.le_of_ble_eq_true rfl)
theorem mxrwait (d : XReg) (a : XReg) : Statement (.mxrwait d a) := of_major _ (fun _ => rfl) (fun _ => Nat.le_of_ble_eq_true rfl)
theorem mxset (d : XReg) (n : BitVec 8) : Statement (.mxset d n) := of_major _ (fun _ => rfl) (fun _ => Nat.le_of_ble_eq_true rfl)
theorem mxget (d : XReg) (n : BitVec 8) : Statement (.mxget d n) := of_major _ (fun _ => rfl) (fun _ => Nat.le_of_ble_eq_true rfl)
theorem mxgo (d : XReg) (a : XReg) (b : XReg) : Statement (.mxgo d a b) := of_major _ (fun _ => rfl) (fun _ => Nat.le_of_ble_eq_true rfl)
theorem mxsync (d : XReg) (a : XReg) : Statement (.mxsync d a) := of_major _ (fun _ => rfl) (fun _ => Nat.le_of_ble_eq_true rfl)
theorem mxcvt (z : ZReg) (a : XReg) (b : XReg) : Statement (.mxcvt z a b) := of_major _ (fun _ => rfl) (fun _ => Nat.le_of_ble_eq_true rfl)
theorem mxamax (d : XReg) (a : XReg) : Statement (.mxamax d a) := of_major _ (fun _ => rfl) (fun _ => Nat.le_of_ble_eq_true rfl)
theorem zld (z : ZReg) (a : XReg) : Statement (.zld z a) := of_major _ (fun _ => rfl) (fun _ => Nat.le_of_ble_eq_true rfl)
theorem zst (z : ZReg) (a : XReg) : Statement (.zst z a) := of_major _ (fun _ => rfl) (fun _ => Nat.le_of_ble_eq_true rfl)
theorem zzero (z : ZReg) (a : XReg) (b : XReg) : Statement (.zzero z a b) := of_major _ (fun _ => rfl) (fun _ => Nat.le_of_ble_eq_true rfl)
theorem mxtake (d : XReg) (a : XReg) (b : XReg) : Statement (.mxtake d a b) := of_major _ (fun _ => rfl) (fun _ => Nat.le_of_ble_eq_true rfl)
theorem mxreply (d : XReg) (a : XReg) (b : XReg) : Statement (.mxreply d a b) := of_major _ (fun _ => rfl) (fun _ => Nat.le_of_ble_eq_true rfl)
theorem ctxrd (d : XReg) (a : XReg) (b : XReg) : Statement (.ctxrd d a b) := of_major _ (fun _ => rfl) (fun _ => Nat.le_of_ble_eq_true rfl)
theorem ctxwr (d : XReg) (a : XReg) (b : XReg) : Statement (.ctxwr d a b) := of_major _ (fun _ => rfl) (fun _ => Nat.le_of_ble_eq_true rfl)
theorem ctxstat (d : XReg) (a : XReg) (b : XReg) : Statement (.ctxstat d a b) := of_major _ (fun _ => rfl) (fun _ => Nat.le_of_ble_eq_true rfl)
theorem preempt (a : XReg) (b : XReg) : Statement (.preempt a b) := of_major _ (fun _ => rfl) (fun _ => Nat.le_of_ble_eq_true rfl)
theorem resume (a : XReg) (b : XReg) : Statement (.resume a b) := of_major _ (fun _ => rfl) (fun _ => Nat.le_of_ble_eq_true rfl)
theorem thaw (a : XReg) (b : XReg) : Statement (.thaw a b) := of_major _ (fun _ => rfl) (fun _ => Nat.le_of_ble_eq_true rfl)
theorem kill (a : XReg) (b : XReg) : Statement (.kill a b) := of_major _ (fun _ => rfl) (fun _ => Nat.le_of_ble_eq_true rfl)
theorem ctxsave (d : XReg) (a : XReg) (b : XReg) : Statement (.ctxsave d a b) := of_major _ (fun _ => rfl) (fun _ => Nat.le_of_ble_eq_true rfl)
theorem ctxrest (d : XReg) (a : XReg) (b : XReg) : Statement (.ctxrest d a b) := of_major _ (fun _ => rfl) (fun _ => Nat.le_of_ble_eq_true rfl)
theorem fbpop (d : XReg) (a : XReg) : Statement (.fbpop d a) := of_major _ (fun _ => rfl) (fun _ => Nat.le_of_ble_eq_true rfl)
theorem fbstat (d : XReg) (a : XReg) : Statement (.fbstat d a) := of_major _ (fun _ => rfl) (fun _ => Nat.le_of_ble_eq_true rfl)
theorem plbinv (a : XReg) (b : XReg) : Statement (.plbinv a b) := of_major _ (fun _ => rfl) (fun _ => Nat.le_of_ble_eq_true rfl)
theorem tlbinv (a : XReg) (b : XReg) : Statement (.tlbinv a b) := of_major _ (fun _ => rfl) (fun _ => Nat.le_of_ble_eq_true rfl)
theorem irqraise (a : XReg) (b : XReg) : Statement (.irqraise a b) := of_major _ (fun _ => rfl) (fun _ => Nat.le_of_ble_eq_true rfl)
theorem pwrset (a : XReg) (b : XReg) : Statement (.pwrset a b) := of_major _ (fun _ => rfl) (fun _ => Nat.le_of_ble_eq_true rfl)
theorem activate (d : XReg) (a : XReg) (b : XReg) : Statement (.activate d a b) := of_major _ (fun _ => rfl) (fun _ => Nat.le_of_ble_eq_true rfl)
theorem swrFlags : Statement .swrFlags := of_none (fun _ => rfl)
theorem swrStrip : Statement .swrStrip := of_none (fun _ => rfl)
theorem swrChksb : Statement .swrChksb := of_none (fun _ => rfl)
theorem swrLpart : Statement .swrLpart := of_none (fun _ => rfl)
theorem lpartTakeEffect : Statement .lpartTakeEffect := of_none (fun _ => rfl)
theorem swrShare : Statement .swrShare := of_none (fun _ => rfl)
theorem swrLsplit : Statement .swrLsplit := of_none (fun _ => rfl)
theorem lsplitTakeEffect : Statement .lsplitTakeEffect := of_none (fun _ => rfl)
theorem swrPoolgrp : Statement .swrPoolgrp := of_none (fun _ => rfl)
theorem swrTagen : Statement .swrTagen := of_none (fun _ => rfl)
theorem swrTagpend : Statement .swrTagpend := of_none (fun _ => rfl)
theorem swrAgelim : Statement .swrAgelim := of_none (fun _ => rfl)
theorem firmwareCreditRefill : Statement .firmwareCreditRefill := of_none (fun _ => rfl)
theorem memoryConfirm : Statement .memoryConfirm := of_none (fun _ => rfl)
theorem vqEntryStart : Statement .vqEntryStart := of_none (fun _ => rfl)
theorem barrierNotice : Statement .barrierNotice := of_none (fun _ => rfl)
theorem waittTimeout : Statement .waittTimeout := of_none (fun _ => rfl)
theorem promiseMissed : Statement .promiseMissed := of_none (fun _ => rfl)
theorem gatherPackageReply : Statement .gatherPackageReply := of_none (fun _ => rfl)
theorem copyCommandStart : Statement .copyCommandStart := of_none (fun _ => rfl)
theorem copyCommandComplete : Statement .copyCommandComplete := of_none (fun _ => rfl)
theorem collectivePerform : Statement .collectivePerform := of_none (fun _ => rfl)
theorem collectiveEnd : Statement .collectiveEnd := of_none (fun _ => rfl)
theorem wsetWrite : Statement .wsetWrite := of_none (fun _ => rfl)
theorem fill : Statement .fill := of_none (fun _ => rfl)
theorem mma : Statement .mma := of_none (fun _ => rfl)
theorem unfold : Statement .unfold := of_none (fun _ => rfl)
theorem mxOperationEnd : Statement .mxOperationEnd := of_none (fun _ => rfl)
theorem saveComplete : Statement .saveComplete := of_none (fun _ => rfl)
theorem killComplete : Statement .killComplete := of_none (fun _ => rfl)
theorem faultRecordAccept : Statement .faultRecordAccept := of_none (fun _ => rfl)
theorem tailWrite : Statement .tailWrite := of_none (fun _ => rfl)
theorem interruptUnmask : Statement .interruptUnmask := of_none (fun _ => rfl)
theorem queueAgeing : Statement .queueAgeing := of_none (fun _ => rfl)
theorem packetTake : Statement .packetTake := of_none (fun _ => rfl)
theorem chunkDeal : Statement .chunkDeal := of_none (fun _ => rfl)
theorem gangDeal : Statement .gangDeal := of_none (fun _ => rfl)
theorem chunkBind : Statement .chunkBind := of_none (fun _ => rfl)
theorem actorFire : Statement .actorFire := of_none (fun _ => rfl)
theorem gangPlace : Statement .gangPlace := of_none (fun _ => rfl)
theorem gangReserving : Statement .gangReserving := of_none (fun _ => rfl)
theorem firingStart : Statement .firingStart := of_none (fun _ => rfl)
theorem firingRetire : Statement .firingRetire := of_none (fun _ => rfl)
theorem packetComplete : Statement .packetComplete := of_none (fun _ => rfl)
theorem messageAccept : Statement .messageAccept := of_none (fun _ => rfl)
theorem handlerStart : Statement .handlerStart := of_none (fun _ => rfl)
theorem migrationArrival : Statement .migrationArrival := of_none (fun _ => rfl)
theorem migrationBind : Statement .migrationBind := of_none (fun _ => rfl)
theorem bundleSlotInstall : Statement .bundleSlotInstall := of_none (fun _ => rfl)
theorem coherenceRequest : Statement .coherenceRequest := of_none (fun _ => rfl)
theorem recallAcknowledge : Statement .recallAcknowledge := of_none (fun _ => rfl)
theorem regionMerge : Statement .regionMerge := of_none (fun _ => rfl)
theorem leaseRenewal : Statement .leaseRenewal := of_none (fun _ => rfl)
theorem leaseRelease : Statement .leaseRelease := of_none (fun _ => rfl)
theorem holderLeaseExpiry : Statement .holderLeaseExpiry := of_none (fun _ => rfl)
theorem switchLeaseExpiry : Statement .switchLeaseExpiry := of_none (fun _ => rfl)
theorem rebuildFlagClear : Statement .rebuildFlagClear := of_none (fun _ => rfl)
theorem checkpointBoundary : Statement .checkpointBoundary := of_none (fun _ => rfl)
theorem switchDieLost : Statement .switchDieLost := of_none (fun _ => rfl)
theorem peerLost : Statement .peerLost := of_none (fun _ => rfl)
theorem hostSnoop : Statement .hostSnoop := of_none (fun _ => rfl)
theorem hostMemAccess : Statement .hostMemAccess := of_none (fun _ => rfl)
theorem hostBackInvalidateAnswer : Statement .hostBackInvalidateAnswer := of_none (fun _ => rfl)
theorem hostBar4Access : Statement .hostBar4Access := of_none (fun _ => rfl)
theorem sdrollClearFlag : Statement .sdrollClearFlag := of_none (fun _ => rfl)
theorem sdrollRollback : Statement .sdrollRollback := of_none (fun _ => rfl)
theorem mgmtevClear : Statement .mgmtevClear := of_none (fun _ => rfl)
theorem mgmtRegisterWrite : Statement .mgmtRegisterWrite := of_none (fun _ => rfl)
theorem domainSet : Statement .domainSet := of_none (fun _ => rfl)
theorem windowSet : Statement .windowSet := of_none (fun _ => rfl)
theorem queueEnable : Statement .queueEnable := of_none (fun _ => rfl)
theorem queueStop : Statement .queueStop := of_none (fun _ => rfl)
theorem queueStopPreempt : Statement .queueStopPreempt := of_none (fun _ => rfl)
theorem queueResume : Statement .queueResume := of_none (fun _ => rfl)
theorem queueClearReread : Statement .queueClearReread := of_none (fun _ => rfl)
theorem queueClearSkip : Statement .queueClearSkip := of_none (fun _ => rfl)
theorem queueDisable : Statement .queueDisable := of_none (fun _ => rfl)
theorem masterThaw : Statement .masterThaw := of_none (fun _ => rfl)
theorem masterKill : Statement .masterKill := of_none (fun _ => rfl)
theorem masterKillPacket : Statement .masterKillPacket := of_none (fun _ => rfl)
theorem keepBind : Statement .keepBind := of_none (fun _ => rfl)
theorem domainConfigure : Statement .domainConfigure := of_none (fun _ => rfl)
theorem firmwareActivate : Statement .firmwareActivate := of_none (fun _ => rfl)
theorem powerCommand : Statement .powerCommand := of_none (fun _ => rfl)
theorem unknownOp : Statement .unknownOp := of_none (fun _ => rfl)
theorem powerLimiterAction : Statement .powerLimiterAction := of_none (fun _ => rfl)
theorem stopWake : Statement .stopWake := of_none (fun _ => rfl)
theorem packageReset : Statement .packageReset := of_none (fun _ => rfl)
theorem linkTraining : Statement .linkTraining := of_none (fun _ => rfl)
theorem getVersion : Statement .getVersion := of_none (fun _ => rfl)
theorem getCapabilities : Statement .getCapabilities := of_none (fun _ => rfl)
theorem negotiateAlgorithms : Statement .negotiateAlgorithms := of_none (fun _ => rfl)
theorem getDigests : Statement .getDigests := of_none (fun _ => rfl)
theorem getCertificate : Statement .getCertificate := of_none (fun _ => rfl)
theorem challenge : Statement .challenge := of_none (fun _ => rfl)
theorem getMeasurements : Statement .getMeasurements := of_none (fun _ => rfl)
theorem unsupportedRequest : Statement .unsupportedRequest := of_none (fun _ => rfl)
theorem vqEntryLeave : Statement .vqEntryLeave := of_none (fun _ => rfl)
theorem accessPerformed : Statement .accessPerformed := of_none (fun _ => rfl)
theorem invalidateComplete : Statement .invalidateComplete := of_none (fun _ => rfl)
theorem linkReplay : Statement .linkReplay := of_none (fun _ => rfl)
theorem berperLinkLoss : Statement .berperLinkLoss := of_none (fun _ => rfl)

end Laws.Base

end Sys2Proof
end

