-- ==== Sys2Proof/Tests/Slice0.lean ====
section
/-! SUPPORT. Small tests: terms that `WellFormed` refuses; words written out from the encodings of the specification; single
steps with results worked by hand; and, for each statement of `Certificates/Slice0/Obligations.lean` that has hypotheses, states
and operands that meet them (`wit_<statement>`). -/

open Sys2Proof Sys2Proof.Machine
namespace Sys2Proof.Tests

-- One theorem at a time: the kernel evaluates each, and theorems that wait for it would hold a thread each.
set_option Elab.async false

/-! ## Small states -/

/-- The value of an answer passes a check. -/
def gives {ε α : Type} (r : Except ε α) (p : α → Bool) : Bool :=
  match r with
  | .ok v => p v
  | .error _ => false

/-- The error of an answer passes a check. -/
def fails {ε α : Type} (r : Except ε α) (p : ε → Bool) : Bool :=
  match r with
  | .ok _ => false
  | .error e => p e

/-- Where an access of a state is found, its line is made ready. -/
def claims (s : State) (need : BitVec 5) (own : Bool) (va : Nat) : Bool :=
  gives (s.locate s.req need va) (fun q => gives (q.1.claim own va q.2) (fun _ => true))

/-- Where an access of a state is found, it is held until its line is ready. -/
def waits (s : State) (need : BitVec 5) (own : Bool) (va : Nat) : Bool :=
  gives (s.locate s.req need va) (fun q => fails (q.1.claim own va q.2) Stop.isHold)

/-- The state with the first 64 KiB of the package's memory held for writing by a die of package 9. -/
def away (s : State) : State :=
  { s with dir := [{ line := 0, lg := 9, st := .x, sharers := [72], coarse := none, ends := [], cend := 0, flag := .none, flagEnd := 0, quiet := 0 }] }

/-- A state in which a context runs, with `x` registers set. -/
def runs (c : CtxId) (l : List (XReg × Word)) : State :=
  { State.reset with
    cur := c, events := [], ilen := 1, me := { Ctx.reset with st := .run, pc := 0x4000, x := l.foldl (fun v p => xSet v p.1 p.2) Ctx.reset.x } }

/-- A firmware context of core 0, with translation disabled. -/
def fw (l : List (XReg × Word)) : State := runs ⟨false, 0, false, 9⟩ l

/-- A message context of core 0. -/
def msg (l : List (XReg × Word)) : State := runs ⟨false, 0, false, 8⟩ l

/-- A Keep context of pod 0, which domain 5 has. -/
def keep (l : List (XReg × Word)) : State := (runs ⟨true, 0, false, 0⟩ l).setPod 0 { Pod.reset with domain := 5 }

/-- Windows of plain, `FE` and `BV` segments from address 0, 0x1000000 and 0x1200000 on, one that may only be read, and
one that no table maps. -/
def someWindows : SMap Window :=
  [(0, ⟨0, 8, 31, 0⟩), (1, ⟨0x1000000, 1, 31, 1⟩), (2, ⟨0x1200000, 1, 31, 3⟩), (3, ⟨0x1400000, 1, 1, 0⟩), (4, ⟨0x40000000, 1, 31, 0⟩)]

/-- Domain 5, `LIVE`, with the windows above. -/
def dom5 : Domain :=
  { Domain.reset with state := 1, nwin := 5, wins := someWindows, ivtab := 0x8000, spillarea := 0x100000, qmax := 2, ctxmax := 8 }

/-- The state with a table that maps the first GiB of the package's addresses to themselves (R240). -/
def paged (s : State) : State :=
  { s with
    dies := s.dies.set 0 { s.die 0 with pgEn := true, pgAddr := 0x10000 }, domains := [(5, dom5)],
    st := { s.st with dram := { s.st.dram with bytes := [(0x10000, 1), (0x10002, 2), (0x20000, 3)] } } }

/-- A user context of core 0 in domain 5. -/
def usr (l : List (XReg × Word)) : State :=
  let s := paged (runs ⟨false, 0, false, 0⟩ l)
  { s with me := { s.me with pdid := 5, spillBase := 0x100000 } }

/-- The state with operand `o` latched. -/
def arg (s : State) (o : Operand) : State := { s with opd := o }

/-- The state with a word of bytes at a physical address. -/
def poke (s : State) (a n v : Nat) : State := { s with st := s.st.set ⟨.dram, a⟩ (toBytes n v) }

/-- The context with a vector state of `n` elements of type `t`, all registers its own. -/
def vecs (s : State) (t : BitVec 16) (n : BitVec 14) : State := s.withVec { s.me.vec with vt := t, vl := n, vregs := 32 }


/-! ## Ill-formed terms

Each check of `WellFormed` refuses a term that breaks it, at the first value past the limit. -/

/-- None of the terms is well formed. -/
def Refused (l : List (Instr × Operand)) : Prop := ∀ x ∈ l, WellFormed x.1 x.2 = false

theorem test_wellFormed_fields : Refused [
    (.vfadd 1 2 (.v 3) 0 6, .none), (.vfadd 1 2 (.v 3) 0 7, .none), (.vwadd 2 4 (.v 6) 0 false 1, .none), (.vstred 1 2 3 0 6, .none),
    (.atadd 1 2 3 0 2, .none), (.addi 1 2 (2 ^ 22), .none), (.addi 1 2 (-(2 ^ 22) - 1), .none), (.ori 1 2 (2 ^ 23), .none),
    (.li 1 (2 ^ 25), .none), (.beqz 1 (-(2 ^ 25) - 1), .none), (.vld 1 2 (2 ^ 22) 0, .none)] := by unfold Refused; decide

theorem test_wellFormed_latch : Refused [
    (.add 1 2 3, .imm 0), (.j, .none), (.j, .imm (2 ^ 28)), (.call, .imm (-(2 ^ 28) - 1)), (.trap, .imm 256), (.brk, .reg 0), (.swait, .imm (2 ^ 23)),
    (.swrFlags, .none), (.ret, .imm 0), (.addi 1 2 0, .reg 1)] := by unfold Refused; decide

theorem test_wellFormed_units : Refused [
    (.waittTimeout, .ctx ⟨false, 768, false, 0⟩), (.waittTimeout, .ctx ⟨false, 0, false, 10⟩), (.waittTimeout, .ctx ⟨true, 96, false, 0⟩),
    (.waittTimeout, .ctx ⟨true, 0, true, 0⟩), (.waittTimeout, .ctx ⟨true, 0, false, 4⟩), (.lpartTakeEffect, .unit 768),
    (.firmwareCreditRefill, .side 768 false), (.copyCommandStart, .engine 8 0), (.copyCommandStart, .engine 0 5), (.fill, .unit 96),
    (.faultRecordAccept, .unit 8), (.queueAgeing, .unit 4096), (.bundleSlotInstall, .bundleSlot 0 4096), (.coherenceRequest, .line 512 0 false),
    (.keepBind, .keep 96 0 5 0 0), (.getCertificate, .cert 8 0 0)] := by unfold Refused; decide

theorem test_wellFormed_goods : WellFormed (.addi 1 2 (2 ^ 22 - 1)) .none = true ∧ WellFormed (.addi 1 2 (-(2 ^ 22))) .none = true ∧
    WellFormed .j (.imm (-(2 ^ 28))) = true ∧ WellFormed .trap (.imm 255) = true ∧
    WellFormed .waittTimeout (.ctx ⟨false, 767, true, 9⟩) = true := by decide

/-! ## Words of the specification

The worked encodings of 04_encoding.md, 08_graphics.md and R122's table in 15_interruption.md: each chain, first word first. -/

/-- The chain decodes to the instruction, with its latched operand and stall count, and takes all its words. -/
def Chain (ws : List Half) (i : Instr) (o : Operand) (stall : BitVec 4) : Prop :=
  gives (decode ws) (fun d => d.instr == i && d.opd == o && d.stall == stall && d.n == ws.length) = true

theorem test_spec_words_encoding :
    Chain [0xFB20, 0xF809, 0x3C2C] (.addi 20 9 300) .none 0 ∧ Chain [0xFC28, 0xFA81, 0x414C] (.vfadd 9 2 (.v 3) 1 2) .none 0 ∧
    Chain [0xFE40, 0x1DDC] (.mul 5 6 7) .none 2 ∧ Chain [0xCA00] .call (.imm 512) 0 := by unfold Chain; decide

theorem test_spec_words_nest :
    Chain [0x7D00] (.li 5 0) .none 0 ∧ Chain [0xFA20, 0x9620] (.ld 6 9 0) .none 0 ∧ Chain [0x05B8] (.add 5 5 6) .none 0 ∧
    Chain [0xFAA0, 0x3928] (.addi 9 9 8) .none 0 ∧ Chain [0xFAA0, 0x3A5F] (.addi 10 10 (-1)) .none 0 ∧
    Chain [0xFA80, 0xAAF8] (.bnez 10 (-8)) .none 0 ∧ Chain [0xFA40, 0x9D00] (.sd 5 16 0 false) .none 0 ∧ Chain [0xD003] .endFiring .none 0 := by
  unfold Chain; decide

theorem test_spec_words_more :
    Chain [0xFC60, 0xFA81, 0x0051] (.vedgetl 8 2 4 1) .none 0 ∧ Chain [0xFC60, 0xFA40, 0x2598] (.callst 5 20 6) .none 0 ∧
    Chain [0xFCE0, 0x08B8] (.preempt 5 6) .none 0 ∧ Chain [0xFCE0, 0x1DC0] (.fbpop 5 6) .none 0 ∧
    Chain [0xFCE0, 0x3DDC] (.activate 5 6 7) .none 0 := by unfold Chain; decide

/-! ## One word for every row of the opcode table that has an encoding

Each word is written out from the tables of the specification: x3, x1 and x2 as rd, ra and rb, and fields of small values. -/

/-- The decoder reads each word as the instruction beside it. -/
def Reads (l : List (Nat × Nat × Instr)) : Prop := l.map (fun r => decodeTableWord r.1 r.2.1) = l.map (fun r => some r.2.2)

def wordsScalar0 : List (Nat × Nat × Instr) := [
  (16, 0x0328, .add 3 1 2), (16, 0x0329, .sub 3 1 2), (16, 0x032A, .and 3 1 2), (16, 0x032B, .or 3 1 2),
  (16, 0x0B28, .xor 3 1 2), (16, 0x0B29, .slt 3 1 2), (16, 0x0B2A, .sltu 3 1 2), (16, 0x0B2B, .seq 3 1 2),
  (16, 0x1328, .sll 3 1 2), (16, 0x1329, .srl 3 1 2), (16, 0x132A, .sra 3 1 2), (16, 0x132B, .ror 3 1 2),
  (16, 0x1B28, .mul 3 1 2), (16, 0x1B29, .mhigh 3 1 2), (16, 0x1B2A, .mhighu 3 1 2), (16, 0x1B2B, .mhighx 3 1 2),
  (16, 0x2328, .div 3 1 2), (16, 0x2329, .divu 3 1 2), (16, 0x232A, .rem 3 1 2), (16, 0x232B, .remu 3 1 2),
  (16, 0x2B20, .clz 3 1), (16, 0x2B21, .ctz 3 1), (16, 0x2B22, .popc 3 1), (16, 0x2B23, .brev 3 1)]
theorem test_decode_scalar_0 : Reads wordsScalar0 := rfl

def wordsScalar1 : List (Nat × Nat × Instr) := [
  (16, 0x3320, .sextb 3 1), (16, 0x3321, .sexth 3 1), (16, 0x3322, .sextw 3 1), (16, 0x3323, .zextw 3 1),
  (16, 0x3B25, .addi 3 1 5), (16, 0x4325, .andi 3 1 5), (16, 0x4B25, .ori 3 1 5), (16, 0x5325, .xori 3 1 5),
  (16, 0x5B25, .slti 3 1 5), (16, 0x6325, .slli 3 1 5), (16, 0x6B25, .srli 3 1 5), (16, 0x7325, .srai 3 1 5),
  (16, 0x7B05, .li 3 5), (16, 0x8305, .lis 3 5), (16, 0x8B29, .lea 3 1 2 1), (16, 0x9325, .ld 3 1 5),
  (32, 0xFC019325, .lw 3 1 5), (32, 0xFC029325, .lwu 3 1 5), (32, 0xFC039325, .lh 3 1 5), (32, 0xFC049325, .lhu 3 1 5),
  (32, 0xFC059325, .lb 3 1 5), (32, 0xFC069325, .lbu 3 1 5), (32, 0xFC079325, .lq 3 1 5), (16, 0x9B25, .sd 3 1 5 false)]
theorem test_decode_scalar_1 : Reads wordsScalar1 := rfl

def wordsScalar2 : List (Nat × Nat × Instr) := [
  (32, 0xFC019B25, .sw 3 1 5 false), (32, 0xFC029B25, .sh 3 1 5 false), (32, 0xFC039B25, .sb 3 1 5 false),
  (32, 0xFC049B25, .sq 3 1 5 false), (16, 0xA305, .beqz 3 5), (16, 0xAB05, .bnez 3 5), (16, 0xB305, .bltz 3 5),
  (16, 0xBB05, .bgez 3 5), (16, 0xC005, .j), (16, 0xC805, .call), (16, 0xD020, .jr 1), (16, 0xD021, .callr 1),
  (16, 0xD002, .ret), (16, 0xD003, .endFiring), (16, 0xDB05, .srd 3 5), (16, 0xE305, .swr 3 5), (16, 0xE805, .trap),
  (16, 0xE905, .brk)]
theorem test_decode_scalar_2 : Reads wordsScalar2 := rfl

def wordsVector0 : List (Nat × Nat × Instr) := [
  (32, 0xFC200328, .vcfg 3 1 2), (32, 0xFC200021, .vcfgw 1), (32, 0xFC20032A, .vcfgs 3 1 2), (32, 0xFC200B25, .vcfgi 3 1 5),
  (32, 0xFC211328, .vadd 3 1 (.x 2) 0), (32, 0xFC201329, .vsub 3 1 (.v 2) 0), (32, 0xFC21132A, .vmul 3 1 (.x 2) 0),
  (32, 0xFC20132B, .vmhigh 3 1 (.v 2) 0), (32, 0xFC211B28, .vand 3 1 (.x 2) 0), (32, 0xFC201B29, .vor 3 1 (.v 2) 0),
  (32, 0xFC211B2A, .vxor 3 1 (.x 2) 0), (32, 0xFC201B2B, .vandn 3 1 (.v 2) 0), (32, 0xFC212328, .vsll 3 1 (.x 2) 0),
  (32, 0xFC202329, .vsrl 3 1 (.v 2) 0), (32, 0xFC21232A, .vsra 3 1 (.x 2) 0), (32, 0xFC20232B, .vror 3 1 (.v 2) 0),
  (32, 0xFC212B28, .vmin 3 1 (.x 2) 0), (32, 0xFC202B29, .vmax 3 1 (.v 2) 0), (32, 0xFC212B2A, .vminu 3 1 (.x 2) 0),
  (32, 0xFC202B2B, .vmaxu 3 1 (.v 2) 0), (32, 0xFC213328, .vsadd 3 1 (.x 2) 0), (32, 0xFC203329, .vssub 3 1 (.v 2) 0),
  (32, 0xFC21332A, .vsaddu 3 1 (.x 2) 0), (32, 0xFC20332B, .vssubu 3 1 (.v 2) 0)]
theorem test_decode_vector_0 : Reads wordsVector0 := rfl

def wordsVector1 : List (Nat × Nat × Instr) := [
  (32, 0xFC213B28, .vdiv 3 1 (.x 2) 0), (32, 0xFC203B29, .vdivu 3 1 (.v 2) 0), (32, 0xFC213B2A, .vrem 3 1 (.x 2) 0),
  (32, 0xFC203B2B, .vremu 3 1 (.v 2) 0), (32, 0xFC254328, .vfadd 3 1 (.x 2) 0 1), (32, 0xFC244329, .vfsub 3 1 (.v 2) 0 1),
  (32, 0xFC25432A, .vfmul 3 1 (.x 2) 0 1), (32, 0xFC24432B, .vfdiv 3 1 (.v 2) 0 1), (32, 0xFC214B28, .vfmin 3 1 (.x 2) 0),
  (32, 0xFC204B29, .vfmax 3 1 (.v 2) 0), (32, 0xFC244B22, .vfsqrt 3 1 0 1), (32, 0xFC204B23, .vfneg 3 1 0),
  (32, 0xFC255328, .vfma 3 1 (.x 2) 0 1), (32, 0xFC245329, .vfms 3 1 (.v 2) 0 1), (32, 0xFC25532A, .vfnma 3 1 (.x 2) 0 1),
  (32, 0xFC24532B, .vfnms 3 1 (.v 2) 0 1), (32, 0xFC245B20, .vcvtff 3 1 0 1), (32, 0xFC245B21, .vcvtif 3 1 0 1),
  (32, 0xFC245B22, .vcvtfi 3 1 0 1), (32, 0xFC205B23, .vcvtii 3 1 0), (32, 0xFC276328, .vwadd 3 1 (.x 2) 0 true 1),
  (32, 0xFC266329, .vwmul 3 1 (.v 2) 0 true 1), (32, 0xFC27632A, .vwmacc 3 1 (.x 2) 0 true 1),
  (32, 0xFC26632B, .vdot 3 1 (.v 2) 0 true 1)]
theorem test_decode_vector_1 : Reads wordsVector1 := rfl

def wordsVector2 : List (Nat × Nat × Instr) := [
  (32, 0xFC216B28, .vcmpeq 3 1 (.x 2) 0), (32, 0xFC206B29, .vcmpne 3 1 (.v 2) 0), (32, 0xFC216B2A, .vcmplt 3 1 (.x 2) 0),
  (32, 0xFC206B2B, .vcmple 3 1 (.v 2) 0), (32, 0xFC217328, .vfcmpeq 3 1 (.x 2) 0), (32, 0xFC207329, .vfcmplt 3 1 (.v 2) 0),
  (32, 0xFC21732A, .vfcmple 3 1 (.x 2) 0), (32, 0xFC20732B, .vfcmpun 3 1 (.v 2) 0), (32, 0xFC207B28, .mand 3 1 2),
  (32, 0xFC207B29, .mor 3 1 2), (32, 0xFC207B2A, .mxor 3 1 2), (32, 0xFC207B2B, .mandn 3 1 2), (32, 0xFC208320, .vany 3 1),
  (32, 0xFC208321, .vnone 3 1), (32, 0xFC208322, .vmcnt 3 1), (32, 0xFC208323, .vfind 3 1), (32, 0xFC208B28, .vmv 3 1 2 0),
  (32, 0xFC208B21, .vbcast 3 1 0), (32, 0xFC208B2A, .vgetx 3 1 2 0), (32, 0xFC208B2B, .vmerge 3 1 2 0),
  (32, 0xFC229328, .vperm 3 1 (.x 2) 0), (32, 0xFC209329, .vshup 3 1 (.v 2) 0), (32, 0xFC22932A, .vshdn 3 1 (.x 2) 0),
  (32, 0xFC20932B, .vpack 3 1 (.v 2) 0)]
theorem test_decode_vector_2 : Reads wordsVector2 := rfl

def wordsVector3 : List (Nat × Nat × Instr) := [
  (32, 0xFC209B28, .vilv 3 1 2 0), (32, 0xFC229B29, .vdilv 3 1 2 0 true), (32, 0xFC209B22, .vrev 3 1 0),
  (32, 0xFC229B23, .vrank 3 1 0 true), (32, 0xFC20A328, .vredsum 3 1 2 0), (32, 0xFC20A329, .vredmin 3 1 2 0),
  (32, 0xFC20A32A, .vredmax 3 1 2 0), (32, 0xFC24A32B, .vfredsum 3 1 2 0 1), (32, 0xFC20AB28, .vfredmin 3 1 2 0),
  (32, 0xFC20AB29, .vfredmax 3 1 2 0), (32, 0xFC20AB2A, .vredand 3 1 2 0), (32, 0xFC20AB2B, .vredor 3 1 2 0),
  (32, 0xFC20B325, .vaddi 3 1 5 0)]
theorem test_decode_vector_3 : Reads wordsVector3 := rfl

def wordsVectorMemory0 : List (Nat × Nat × Instr) := [
  (32, 0xFC400325, .vld 3 1 5 0), (32, 0xFC400B25, .vst 3 1 5 0 false), (32, 0xFC401328, .vlds 3 1 2 0),
  (32, 0xFC401329, .vsts 3 1 2 0 false), (32, 0xFC401B28, .vldx 3 1 2 0), (32, 0xFC401B29, .vstx 3 1 2 0 false),
  (32, 0xFC402328, .vldb 3 1 2 0), (32, 0xFC402329, .vstb 3 1 2 0 false), (32, 0xFC402B28, .vstmc 3 1 2 0),
  (32, 0xFC452B29, .vstred 3 1 2 0 5), (32, 0xFC403325, .vldff 3 1 5 0), (32, 0xFC403825, .vpref 1 5)]
theorem test_decode_vector_memory_0 : Reads wordsVectorMemory0 := rfl

def wordsGraphics0 : List (Nat × Nat × Instr) := [
  (32, 0xFC600328, .vedge 3 1 2 0), (32, 0xFC600329, .vedgetl 3 1 2 0), (32, 0xFC60032A, .vcover 3 1 2 0),
  (32, 0xFC600B28, .vbary 3 1 2 0), (32, 0xFC600B29, .vbaryp 3 1 2 0), (32, 0xFC601328, .boxt 3 1 2 0),
  (32, 0xFC601B28, .trit 3 1 2 0), (32, 0xFC602328, .callst 3 1 2), (32, 0xFC602B28, .texadr 3 1 2 0),
  (32, 0xFC602B29, .texld 3 1 2 0), (32, 0xFC602B2A, .texbil 3 1 2 0), (32, 0xFC602B2B, .textri 3 1 2 0)]
theorem test_decode_graphics_0 : Reads wordsGraphics0 := rfl

def wordsSynchronisation0 : List (Nat × Nat × Instr) := [
  (32, 0xFC800328, .send 3 1 2), (32, 0xFC800029, .reply 1 2), (32, 0xFC800002, .hret), (32, 0xFC800323, .migrate 3 1),
  (32, 0xFC810B20, .fetake 3 1 1), (32, 0xFC810B29, .fefill 3 1 2 1), (32, 0xFC810B22, .fepeek 3 1 1),
  (32, 0xFC891328, .atadd 3 1 2 1 1), (32, 0xFC891329, .atswap 3 1 2 1 1), (32, 0xFC89132A, .atcas 3 1 2 1 1),
  (32, 0xFC89132B, .atmax 3 1 2 1 1), (32, 0xFC891B28, .atand 3 1 2 1 1), (32, 0xFC891B29, .ator 3 1 2 1 1),
  (32, 0xFC891B2A, .atmin 3 1 2 1 1), (32, 0xFC891B2B, .amaxm 3 1 2 1 1), (32, 0xFC882328, .ipost 3 1 2 true),
  (32, 0xFC802329, .iwait 3 1 2), (32, 0xFC89232A, .post 3 1 2 1 true), (32, 0xFC89232B, .pwait 3 1 2 1 true),
  (32, 0xFC802805, .swait), (32, 0xFC893328, .waitt 3 1 2 1 true), (32, 0xFC813B28, .tcwait 3 1 2 1),
  (32, 0xFC813B29, .tcdone 3 1 2 1), (32, 0xFC813B2A, .tkget 3 1 2 1)]
theorem test_decode_synchronisation_0 : Reads wordsSynchronisation0 := rfl

def wordsSynchronisation1 : List (Nat × Nat × Instr) := [
  (32, 0xFC804328, .penq 3 1 2), (32, 0xFC804A0F, .fence 2 15), (32, 0xFC805210, .fencex 2 16),
  (32, 0xFC805B28, .bopen 3 1 2), (32, 0xFC805B01, .bcommit 3), (32, 0xFC805B22, .bsnap 3 1), (32, 0xFC805B03, .bend 3),
  (32, 0xFC806320, .breclaim 3 1), (32, 0xFC816B25, .lda 3 1 5 1), (32, 0xFC896B25, .ldaw 3 1 5 1),
  (32, 0xFC916B25, .ldah 3 1 5 1), (32, 0xFC996B25, .ldab 3 1 5 1), (32, 0xFC817325, .stl 3 1 5 1),
  (32, 0xFC897325, .stlw 3 1 5 1), (32, 0xFC917325, .stlh 3 1 5 1), (32, 0xFC997325, .stlb 3 1 5 1)]
theorem test_decode_synchronisation_1 : Reads wordsSynchronisation1 := rfl

def wordsEngines0 : List (Nat × Nat × Instr) := [
  (32, 0xFCA00328, .cpbatch 3 1 2 0), (32, 0xFCA00B20, .cpsleep 3 1), (32, 0xFCA00B21, .cpwait 3 1),
  (32, 0xFCA01328, .hsgath 3 1 2 0), (32, 0xFCA01B28, .clred 3 1 2), (32, 0xFCA01B29, .clbcast 3 1 2),
  (32, 0xFCA01B2A, .clgather 3 1 2), (32, 0xFCA01B23, .clwait 3 1), (32, 0xFCA02328, .mxreq 3 1 2),
  (32, 0xFCA02321, .mxrwait 3 1)]
theorem test_decode_engines_0 : Reads wordsEngines0 := rfl

def wordsMatrix0 : List (Nat × Nat × Instr) := [
  (32, 0xFCC00305, .mxset 3 5), (32, 0xFCC00B05, .mxget 3 5), (32, 0xFCC01328, .mxgo 3 1 2), (32, 0xFCC01321, .mxsync 3 1),
  (32, 0xFCC01B28, .mxcvt 3 1 2), (32, 0xFCC02320, .mxamax 3 1), (32, 0xFCC02B20, .zld 3 1), (32, 0xFCC02B21, .zst 3 1),
  (32, 0xFCC02B2A, .zzero 3 1 2), (32, 0xFCC03328, .mxtake 3 1 2), (32, 0xFCC03329, .mxreply 3 1 2)]
theorem test_decode_matrix_0 : Reads wordsMatrix0 := rfl

def wordsFirmware0 : List (Nat × Nat × Instr) := [
  (32, 0xFCE00328, .ctxrd 3 1 2), (32, 0xFCE00329, .ctxwr 3 1 2), (32, 0xFCE0032A, .ctxstat 3 1 2),
  (32, 0xFCE00828, .preempt 1 2), (32, 0xFCE00829, .resume 1 2), (32, 0xFCE0082A, .thaw 1 2), (32, 0xFCE0082B, .kill 1 2),
  (32, 0xFCE01328, .ctxsave 3 1 2), (32, 0xFCE01329, .ctxrest 3 1 2), (32, 0xFCE01B20, .fbpop 3 1),
  (32, 0xFCE01B21, .fbstat 3 1), (32, 0xFCE02028, .plbinv 1 2), (32, 0xFCE02029, .tlbinv 1 2),
  (32, 0xFCE02828, .irqraise 1 2), (32, 0xFCE03028, .pwrset 1 2), (32, 0xFCE03B28, .activate 3 1 2)]
theorem test_decode_firmware_0 : Reads wordsFirmware0 := rfl


/-! ## Single steps

Expected results are worked by hand from the rules that the names' comments cite. -/

/-- The instruction answers a next state that passes a check. -/
def after (i : Instr) (s : State) (p : State → Bool) : Bool :=
  match exec i s with
  | .next t => p t
  | _ => false

/-- R158, R153: plain sums wrap; a fat pointer's sum past 2^56 traps `PTR_OVF` and writes nothing. -/
theorem test_add : after (.add 3 1 2) (usr [(1, 0x07FFFFFFFFFFFFFF), (2, 1)]) (fun t => t.rx 3 == 0x0800000000000000 && t.me.pc == 0x4002) = true ∧
    after (.add 3 1 2) (usr [(1, 0x48FFFFFFFFFFFFFF), (2, 1), (3, 9)]) (fun t => t.rx 3 == 9 && t.me.causeCode == 5 && t.me.fpc == 0x4000) = true := by
  decide +kernel

/-- R158: a source that is the destination; R79: `x0` reads 0 whatever is written. -/
theorem test_sub : after (.sub 1 1 1) (usr [(1, 7)]) (fun t => t.rx 1 == 0) = true ∧ after (.sub 0 1 2) (usr [(1, 7)]) (fun t => t.rx 0 == 0) = true := by
  decide +kernel

/-- R160: the high half of a signed product of −1 and 2. -/
theorem test_mhigh : after (.mhigh 3 1 2) (usr [(1, -1), (2, 2)]) (fun t => xGet t.me.x 3 == -1) = true := by decide +kernel

/-- R161: division by 0 and of the least number by −1. -/
theorem test_div : after (.div 3 1 2) (usr [(1, 5)]) (fun t => t.rx 3 == -1 && t.me.flags != 0) = true ∧
    after (.div 3 1 2) (usr [(1, 0x8000000000000000), (2, -1)]) (fun t => t.rx 3 == 0x8000000000000000 && t.me.flags == 0) = true := by decide +kernel

/-- R161: a remainder has the dividend's sign. -/
theorem test_rem : after (.rem 3 1 2) (usr [(1, -7), (2, 2)]) (fun t => t.rx 3 == -1) = true := by decide +kernel

/-- R162. -/
theorem test_clz : after (.clz 3 1) (usr [(1, 0)]) (fun t => xGet t.me.x 3 == 64) = true ∧ after (.brev 3 1) (usr [(1, 1)]) (fun t => xGet t.me.x 3 == 0x8000000000000000) = true := by
  decide +kernel

/-- R166, R16: loads read the least significant byte first, and extend by their sign. -/
theorem test_load : after (.lh 3 1 0) (poke (usr [(1, 0x1000)]) 0x1000 2 0x80FF) (fun t => t.rx 3 == 0xFFFFFFFFFFFF80FF) = true ∧
    after (.lbu 3 1 1) (poke (usr [(1, 0x1000)]) 0x1000 2 0x80FF) (fun t => t.rx 3 == 0x80) = true := by decide +kernel

/-- R167, R236: a store sets its bytes and no other; without the right it freezes the context. -/
theorem test_store : after (.sh 2 1 0 false) (usr [(1, 0x1000), (2, 0x12345678)]) (fun t => (t.st.of .dram).readN 0x1000 3 == [0x78, 0x56, 0]) = true ∧
    after (.sd 2 1 0 false) (usr [(1, 0x1400000)]) (fun t => t.me.st == .frozen && t.me.pc == 0x4000) = true := by decide +kernel

/-- R171, R116: a taken branch counts from its base word; one not taken goes to the next chain. -/
theorem test_branch : after (.bnez 1 (-8)) (usr [(1, 1)]) (fun t => t.me.pc == 0x3FF0) = true ∧ after (.bnez 1 (-8)) (usr []) (fun t => t.me.pc == 0x4002) = true := by
  decide +kernel

/-- R173, R174: a call pushes the address after its chain, and a return goes there. -/
theorem test_call : after .call (arg (usr []) (.imm 512)) (fun t => t.me.pc == 0x4400 && after .ret t (fun u => u.me.pc == 0x4002)) = true := by decide +kernel

/-- R174: a return with nothing pushed. -/
theorem test_ret : after .ret (usr []) (fun t => t.me.causeCode == 0x19 && t.me.fpc == 0x4000) = true := by decide +kernel

/-- R355: a take empties the word; a fill of a full word writes nothing and returns 1. -/
theorem test_fullEmpty :
    after (.fetake 3 1 0) (poke (usr [(1, 0x1000000)]) 0x1000000 8 7) (fun t => t.rx 3 == 7 &&
      after (.fepeek 4 1 0) t (fun u => u.rx 4 == 0)) = true ∧
    after (.fefill 3 1 2 0) (poke (usr [(1, 0x1000000), (2, 9)]) 0x1000000 8 7) (fun t => t.rx 3 == 1 && (t.st.of .dram).readN 0x1000000 1 == [7]) = true := by
  decide +kernel

/-- R353: an atomic returns the old value. -/
theorem test_atadd : after (.atadd 3 1 2 0 0) (poke (usr [(1, 0x1000), (2, 5)]) 0x1000 8 (2 ^ 64 - 2)) (fun t =>
    t.rx 3 == -2 && (t.st.of .dram).readN 0x1000 2 == [3, 0]) = true := by decide +kernel

/-- R193: four 16-bit sums, each modulo 2^16. -/
theorem test_vadd : after (.vadd 1 2 (.v 3) 0) (vecs ((usr []).withVec { (usr []).me.vec with v := ((usr []).me.vec.v.set 2 0xFFFF0001).set 3 0x00010001 }) 1 4)
    (fun t => t.me.vec.v[1] == 0x00000002) = true := by decide +kernel

/-- R80, R55: what `END` leaves of a user context. -/
theorem test_end : after .endFiring (usr []) (fun t => t.me.st == .drain) = true := by decide +kernel

/-! ## Hypotheses that can be met -/

/-! ## States and operands that meet the hypotheses of the statements

One theorem per statement with hypotheses. The values are chosen at the bounds of the rules cited by the statement. -/

theorem wit_DecodeOfEncode :
    WellFormed (.sd 3 1 0x3FFFFF true) .none = true ∧ (encodeMarked (.sd 3 1 0x3FFFFF true) .none 15 false true).isSome = true ∧
    WellFormed .trap (.imm 255) = true ∧ (encodeMarked .trap (.imm 255) 0 false false).isSome = true := by decide +kernel

/-- Runs of prefix words of every kind, in several orders; four words at most, none of them twice too often. -/
theorem wit_DecodedIsWellFormed :
    gives (decode [0xFB20, 0xF809, 0x3C2C]) (fun d => d.instr == .addi 20 9 300) = true ∧
    (∀ q ∈ [([] : List (BitVec 2 × BitVec 9)), [(2, 256)], [(0, 1), (1, 0), (0, 511)], [(3, 7), (2, 256), (1, 0), (0, 1)], [(0, 0), (0, 0)]],
      let count (k : BitVec 2) : Nat := (q.filter (fun p => p.1 = k)).length
      q.length ≤ 4 ∧ count 0 ≤ 2 ∧ ∀ k ∈ [(1 : BitVec 2), 2, 3], k ≠ 0 ∧ count k ≤ 1) ∧
    ([(3, 7), (2, 256), (1, 0), (0, 1)] : List (BitVec 2 × BitVec 9)).length = 4 ∧ (2, (256 : BitVec 9)) ∈ [((2 : BitVec 2), (256 : BitVec 9))] ∧
    256 ≤ (256 : BitVec 9).toNat ∧ (0xF7FF : Half).toNat < 0xF800 := by decide +kernel

/-- Format codes 0, 31 and 1, with sums in, below and above the range. -/
theorem wit_IntegerArithmetic :
    let f (v : Word) : Nat := ((usr [(1, v)]).rx 1).toNat / 2 ^ 59
    let sum (v : Word) (n : Int) : Int := ((((usr [(1, v)]).rx 1).toNat % 2 ^ 56 : Nat) : Int) + n
    f 7 = 0 ∧ f 0xF800000000000000 = 31 ∧ f 0x0800000000000004 ≠ 0 ∧ f 0x0800000000000004 ≠ 31 ∧
    0 ≤ sum 0x0800000000000004 (-4) ∧ sum 0x0800000000000004 (-4) < 2 ^ 56 ∧ sum 0x0800000000000004 (-5) < 0 ∧
    2 ^ 56 ≤ sum 0x08FFFFFFFFFFFFFF 1 := by decide +kernel

theorem wit_RegistersAndStallCounts :
    let s : State := { usr [] with istall := 2 }
    (3 : XReg) ≠ 0 ∧ 1 + s.istall.toNat < 4 ∧ 3 ≤ 1 + s.istall.toNat := by decide +kernel

theorem wit_BranchesCallsReturns :
    let s := usr [(1, 0x4002), (2, 0x4003)]
    let deep (n k : Nat) (hw : VAddr) : State :=
      let u := arg s (.imm 4)
      u.withMe { u.me with rs := { hw := Vector.replicate 16 hw, depth := n, spilled := k } }
    (s.rx 1).getLsbD 0 = false ∧ (s.rx 2).getLsbD 0 = true ∧ (arg s (.imm 4)).opd = .imm 4 ∧
    (deep 15 0 0).me.rs.depth < 16 ∧ 0 < (deep 1 0 0x4008).me.rs.depth ∧
    (deep 1 0 0x4008).me.rs.hw[(deep 1 0 0x4008).me.rs.depth - 1]? = some 0x4008 ∧ (0x4008 : VAddr).getLsbD 0 = false ∧
    (deep 0 0 0).me.rs.depth = 0 ∧ (deep 0 0 0).me.rs.spilled = 0 ∧
    (deep 16 32 0x4008).st.wf = true ∧ (deep 16 32 0x4008).me.rs.depth = 16 ∧ (deep 16 32 0x4008).opd = .imm 4 ∧
    (deep 16 32 0x4008).spillSize < 8 * (32 + 1) ∧ 8 * (31 + 1) ≤ (deep 16 31 0x4008).spillSize ∧
    (deep 16 31 0x4008).st.wf = true ∧ (0x100000 + 8 * 31) % 2 ^ 56 % 8 = 0 ∧
    gives ((deep 16 31 0x4008).locate (deep 16 31 0x4008).spillReq 2 (0x100000 + 8 * 31)) (fun r =>
      gives (r.1.claim true (0x100000 + 8 * 31) r.2) (fun _ => true)) = true := by
  decide +kernel

/-- A return to an odd address on the chip; and the one spilled entry of a context, even and odd, misaligned, and in no table. -/
theorem wit_BranchesCallsReturns_fill :
    let s (b : VAddr) : State := let u := usr []; u.withMe { u.me with rs := { u.me.rs with spilled := 1 }, spillBase := b }
    let odd : State := let u := usr []; u.withMe { u.me with rs := { u.me.rs with hw := Vector.replicate 16 0x4009, depth := 1 } }
    let v (u : State) : Word := BitVec.ofNat 64 (ofBytes (u.st.getSeen u.free pCore u.me.paths ⟨.dram, 0x100000⟩ 8))
    0 < odd.me.rs.depth ∧ odd.me.rs.hw[odd.me.rs.depth - 1]? = some 0x4009 ∧ (0x4009 : VAddr).getLsbD 0 = true ∧
    (s 0).me.rs.depth = 0 ∧ 0 < (s 0).me.rs.spilled ∧ ((s 0x100004).me.spillBase.toNat + 8 * (1 - 1)) % 2 ^ 56 % 8 ≠ 0 ∧
    fails ((s 0x40000000).locate (s 0x40000000).spillReq 1 0x40000000) (· == .xlate 0x40000000) = true ∧
    gives ((s 0x100000).locate (s 0x100000).spillReq 1 0x100000) (fun r => r.2 == ⟨.dram, 0x100000⟩ && gives (r.1.claim false 0x100000 r.2) (fun _ => true)) = true ∧
    (v (s 0x100000)).getLsbD 0 = false ∧ (v (poke (s 0x100000) 0x100000 8 0x4009)).getLsbD 0 = true ∧
    gives ((poke (s 0x100000) 0x100000 8 0x4009).locate (s 0x100000).spillReq 1 0x100000) (fun r => gives (r.1.claim false 0x100000 r.2) (fun _ => true)) = true := by
  decide +kernel

theorem wit_ScalarLoads :
    let s := usr [(1, 0x1000), (2, 0xFFFFF0003000)]
    fatAdd (s.rx 1) ((16 : Word).toInt) = some 0x1010 ∧ 0x1010 % 2 ^ 56 % 16 = 0 ∧ s.isDoorbell 0x1010 = false ∧
    gives (s.locate s.req 1 0x1010) (fun r => r.2 == ⟨.dram, 0x1010⟩) = true ∧ s.attr 0x1010 ≠ 3 ∧ (3 : XReg).toNat % 2 = 1 ∧
    (4 : XReg).toNat % 2 = 0 ∧ claims s 1 false 0x1010 = true ∧ waits (away s) 1 false 0x1010 = true ∧ (away s).attr 0x1010 ≠ 3 ∧
    (∀ off ∈ [0, 8, 16], fatAdd (s.rx 2) ((BitVec.ofNat 64 off : Word).toInt) = some (BitVec.ofNat 64 (0xFFFFF0003000 + off)) ∧
      s.region (0xFFFFF0003000 + off) = .doorbell 3 off ∧ (0xFFFFF0003000 + off) % 8 = 0) ∧
    (let w : PathWrite := ⟨0, ⟨.dram, 0x1010⟩, [7], pCore, 1⟩
     w.unseen.getLsbD 1 = false ∧ w.unseen.getLsbD 0 = true ∧ w.oldAt ⟨.dram, 0x1010⟩ = some 7 ∧ w.oldAt ⟨.dram, 0x1011⟩ = none) := by
  decide +kernel

theorem wit_ScalarStores :
    let s := usr [(1, 0x1000), (2, 0xFFFFF0000000)]
    s.st.wf = true ∧ fatAdd (s.rx 1) ((16 : Word).toInt) = some 0x1010 ∧ 0x1010 % 2 ^ 56 % 16 = 0 ∧ s.isDoorbell 0x1010 = false ∧
    claims s 2 true 0x1010 = true ∧ waits (away s) 2 true 0x1010 = true ∧ s.attr 0x1010 ≠ 3 ∧ (4 : XReg).toNat % 2 = 0 ∧
    fatAdd (s.rx 1) ((1 : Word).toInt) = some 0x1001 ∧ 0x1001 % 2 ^ 56 % 8 ≠ 0 ∧ 0x1001 % 2 ^ 56 % 2 ≠ 0 ∧
    fatAdd (s.rx 2) ((0 : Word).toInt) = some 0xFFFFF0000000 ∧ s.isDoorbell (0xFFFFF0000000 % 2 ^ 56) = true := by decide +kernel

theorem wit_SystemRegisterReads :
    let k := kindOf (usr []).cur
    k = .user ∧ (sysAccess k 0x0E).rd = false ∧ (sysAccess k 0x14).rd = true ∧ (sysAccess k 0x00).rd = true := by decide +kernel

theorem wit_SystemRegisterWrites :
    let s := arg (fw [(1, 4), (2, 5)]) (.reg 1)
    let p := s.setCore 0 { s.core 0 with lpartPend := some (4, s.cur), lsplitPend := some (2, s.cur) }
    let q := p.setSide 0 true { p.side 0 true with vq := [⟨0, false, 0, 0⟩] }
    (sysAccess (kindOf (usr []).cur) 0x05).wr = false ∧
    (∀ n ∈ [0x00, 0x01, 0x05, 0x07, 0x0A, 0x0B, 0x0C, 0x11, 0x12, 0x13, 0x14, 0x15, 0x16, 0x17, 0x18, 0x19],
      (sysAccess (kindOf s.cur) n).wr = true) ∧
    (sysAccess (kindOf (usr []).cur) 0x02).wr = true ∧ (sysAccess (kindOf (usr []).cur) 0x04).wr = true ∧
    4 < (s.rx 2).toNat % 8 ∧ (s.rx 1).toNat % 8 ≤ 4 ∧ s.opd = .reg 1 ∧ s.lpartFits s.cur.unit ((s.rx 1).setWidth 3) = true ∧
    (p.core 0).lpartPend = some (4, s.cur) ∧ p.vqsEmpty 0 = true ∧ (q.core 0).lpartPend = some (4, s.cur) ∧ q.vqsEmpty 0 = false ∧
    p.st.wf = true ∧ (p.core 0).lsplitPend = some (2, s.cur) := by decide +kernel

/-- Firmware gives side 1 all 32 lanes while a user context of class 3 has a budget on side 1, and on side 0. -/
theorem wit_SystemRegisterWrites_fits :
    let s (side : Bool) : State :=
      let u := arg (fw [(1, 4)]) (.reg 1)
      { u with others := [(⟨false, 0, side, 0⟩, { Ctx.reset with st := .run, vec := { Ctx.reset.vec with vregs := 32, vclass := 3 } })] }
    let fits (u : State) (e : CtxId × Ctx) : Prop := kindOf e.1 = .user → e.1.unit = u.cur.unit → e.2.st ≠ .idle →
      e.2.vec.vregs = 0 ∨ 2 ^ (10 + e.2.vec.vclass) ≤ 256 * lanesOf ((u.rx 1).setWidth 3) e.1.side
    (∀ e ∈ (s true).allCtx, fits (s true) e) ∧ (∃ e ∈ (s false).allCtx, ¬fits (s false) e) ∧ (s false).recordHeld (s false).cur = false ∧
    (s true).opd = .reg 1 ∧ (sysAccess (kindOf (s true).cur) 0x11).wr = true ∧ ((s true).rx 1).toNat % 8 ≤ 4 ∧
    (s true).clocked ((s true).cur.unit / 96) = true := by decide +kernel

/-- A turn in which firmware's context of core 0 issues: the words at its program counter, `TRAP`, `VADD` (which firmware may not
execute), an illegal word, and `ADD` of a register that is not safe yet. -/
def turn (w : List (Nat × Byte)) (pc : VAddr) : State :=
  let s := fw [(1, 5)]
  let x := { s.me with pc := pc, chksb := true, haz := [⟨1, 0, 3, 1⟩] }
  { s with me := x, todo := [⟨false, 0, false, 0⟩], st := { s.st with dram := { s.st.dram with bytes := w } } }

/-- The state of the turn's context once it has begun to issue. -/
def pickedAs (s : State) (c : CtxId) : State := { State.focus { s with todo := [] } c with free := s.free + 1, held := false, imid := 0 }

/-- That of firmware's. -/
def picked (s : State) : State := pickedAs s ⟨false, 0, false, 9⟩

/-- That state after `k` halfwords of its chain have been fetched. -/
def fetched (m : State) (k : Nat) : State :=
  match k with
  | 0 => m
  | n + 1 =>
    match (fetched m n).fetchHalf ((fetched m n).me.pc + BitVec.ofNat 56 (2 * n)).toNat with
    | .ok r => r.1
    | .error _ => fetched m n

/-- Those halfwords are `ws`. -/
def fetches (m : State) (ws : List Half) : Bool :=
  (List.range ws.length).all (fun n =>
    gives ((fetched m n).fetchHalf ((fetched m n).me.pc + BitVec.ofNat 56 (2 * n)).toNat) (fun r => ws[n]? == some r.2))

/-- Of what `fetches` tests, the statements' own form. -/
theorem fetches_spec {s : State} {c : CtxId} {ws : List Half} (h : fetches (pickedAs s c) ws = true) :
    State.Fetches { s with todo := [] } c ws (fetched (pickedAs s c)) := by
  refine ⟨rfl, fun k x hx => ?_⟩
  have hk : k < ws.length := (List.getElem?_eq_some_iff.mp hx).1
  have e := List.all_eq_true.mp h k (List.mem_range.mpr hk)
  simp only [fetched]
  revert e
  cases (fetched (pickedAs s c) k).fetchHalf ((fetched (pickedAs s c) k).me.pc + BitVec.ofNat 56 (2 * k)).toNat with
  | error _ => simp [gives]
  | ok r => intro e; simp only [gives, hx, beq_iff_eq, Option.some.injEq] at e; subst e; rfl

/-- The contexts that come before firmware's in its side's order, while it has no credit. -/
def others : List CtxId := ⟨false, 0, false, 8⟩ :: (List.range 8).map (fun k => ⟨false, 0, false, k⟩)

/-- The turn is firmware's, and it may issue. -/
def fwTurn (s : State) : Bool :=
  s.events == [] && s.todo == [⟨false, 0, false, 0⟩] && s.cycle.early == none && s.cycle.bind == none &&
  State.unitOrder { s with todo := [] } ⟨false, 0, false, 0⟩ == others ++ [⟨false, 0, false, 9⟩] &&
  others.all (fun k => State.eligible { s with todo := [] } k == false) && State.eligible { s with todo := [] } ⟨false, 0, false, 9⟩ &&
  (picked s).recordHeld ⟨false, 0, false, 9⟩ == false

/-- Of what `fwTurn` tests, the statements' own form. -/
theorem fwTurn_spec {s : State} (h : fwTurn s = true) :
    s.TurnOf ⟨false, 0, false, 0⟩ ⟨false, 0, false, 9⟩ { s with todo := [] } [] := by
  simp only [fwTurn, Bool.and_eq_true] at h
  obtain ⟨⟨⟨⟨⟨⟨⟨h1, h2⟩, e1⟩, e2⟩, h3⟩, h4⟩, h5⟩, _⟩ := h
  exact ⟨⟨eq_of_beq h1, .inr ⟨eq_of_beq e1, eq_of_beq e2, [], eq_of_beq h2, rfl⟩⟩, others, eq_of_beq h3,
    fun k hk => eq_of_beq (List.all_eq_true.mp h4 k hk), h5⟩

theorem wit_TrapsAndIssueStops :
    let s := arg (usr []) (.imm 255)
    let far : State := { s with domains := [(5, { dom5 with ivtab := 0x40000000 })] }
    let full : State := s.setDie 0 { s.die 0 with fbHeld := [{ code := 3, info := 0, master := masterOf s.cur, faddr := 0, fpc := 0, fid := 0, launchId := 0, pdid := 5, cycle := 0 }] }
    s.me.st ≠ .saving ∧ isFw (fw []).cur = true ∧ isFw s.cur = false ∧ (s.domain s.me.pdid.toNat).state ≠ 0 ∧
    s.recordHeld s.cur = false ∧ (fw []).recordHeld (fw []).cur = false ∧ full.recordHeld full.cur = true ∧
    s.fwLoc (s.domain s.me.pdid.toNat).ivtab.toNat = some ⟨.dram, 0x8000⟩ ∧ far.fwLoc (far.domain far.me.pdid.toNat).ivtab.toNat = none ∧
    s.fwRead ((s.domain s.me.pdid.toNat).ivtab.toNat + 12) 4 % 2 = 0 ∧ (poke s 0x800C 4 1).fwRead ((dom5).ivtab.toNat + 12) 4 % 4 = 1 ∧
    s.opd = .imm 255 ∧ 1 ≤ s.ilen ∧ s.ilen ≤ 5 := by
  decide +kernel

/-- A fault buffer with room and a full one; and a masked vector whose write waits for no host. -/
theorem wit_TrapsAndIssueStops_room :
    let s := poke (usr []) 0x800C 4 1
    let r : FaultRec := { code := 3, info := 0, master := masterOf s.cur, faddr := 0, fpc := 0, fid := 0, launchId := 0, pdid := 5, cycle := 0 }
    let full : State := s.setDie 0 { s.die 0 with fb := List.replicate 1024 r }
    (s.die (dieOf s.cur)).fb.length < 1024 ∧ 1024 ≤ (full.die (dieOf full.cur)).fb.length ∧ full.recordHeld full.cur = false ∧
    s.fwLoc (dom5.ivtab.toNat + 12) = some ⟨.dram, 0x800C⟩ ∧ s.hostWait ⟨.dram, 0x800C⟩ = none :=
  ⟨by decide +kernel, Nat.le_of_eq (List.length_replicate).symm, by decide +kernel, by decide +kernel, by decide +kernel⟩

theorem wit_TrapsAndIssueStops_turns :
    let vadd := turn [(0x4000, 0x20), (0x4001, 0xFC), (0x4002, 0x28), (0x4003, 0x13)] 0x4000
    let add := turn [(0x4000, 0x28), (0x4001, 0x03)] 0x4000
    let page8 := turn [(0x4001, 0xFD)] 0x4000
    let far := turn [] (192 * 2 ^ 30)
    (∀ s ∈ [vadd, add, page8, far], s.TurnOf ⟨false, 0, false, 0⟩ ⟨false, 0, false, 9⟩ { s with todo := [] } [] ∧ (picked s).recordHeld ⟨false, 0, false, 9⟩ = false) ∧
    fetches (picked vadd) [0xFC20, 0x1328] = true ∧ gives (decode [0xFC20, 0x1328]) (fun d => d.n == 2 &&
      !(fetched (picked vadd) 2).permitted d.instr && (chainOf d.instr .none).isSome) = true ∧
    fetches (picked add) [0x0328] = true ∧ gives (decode [0x0328]) (fun d => d.n == 1 && (fetched (picked add) 1).permitted d.instr &&
      !(fetched (picked add) 1).issueHeld d.instr && ((fetched (picked add) 1).unsafeSource d.instr).isSome) = true ∧
    fails (decode []) (· == .needMore 0) = true ∧ fails (decode [0xFD00]) (· == .needMore 1) = true ∧ fails (decode [0xFC20]) (· == .needMore 1) = true ∧
    fetches (picked page8) [0xFD00, 0] = true ∧ fails (decode [0xFD00, 0]) (fun e => match e with
      | .illegal 3 (some f) => f.page == 8 && f.major == 0
      | _ => false) = true ∧
    fetches (picked far) [] = true ∧
    fails ((picked far).locate (picked far).req 4 ((picked far).wordVa 0)) (· == .xlate (192 * 2 ^ 30)) = true := by
  refine ⟨fun s hs => ?_, by decide +kernel⟩
  have h := List.all_eq_true.mp (show ([turn [(0x4000, 0x20), (0x4001, 0xFC), (0x4002, 0x28), (0x4003, 0x13)] 0x4000, turn [(0x4000, 0x28), (0x4001, 0x03)] 0x4000,
    turn [(0x4001, 0xFD)] 0x4000, turn [] (192 * 2 ^ 30)].all fwTurn) = true by decide +kernel) s hs
  exact ⟨fwTurn_spec h, by simp only [fwTurn, Bool.and_eq_true] at h; exact eq_of_beq h.2⟩

/-- Turns in which firmware fetches from a doorbell page, and in which its `LQ` of an odd register has a source that is not safe. -/
theorem wit_TrapsAndIssueStops_limit :
    let bell := turn [] 0xFFFFF0003000
    let lq := turn [(0x4000, 0x07), (0x4001, 0xFC), (0x4002, 0x25), (0x4003, 0x93)] 0x4000
    let add := turn [(0x4000, 0x28), (0x4001, 0x03)] 0x4000
    (∀ s ∈ [bell, lq], s.TurnOf ⟨false, 0, false, 0⟩ ⟨false, 0, false, 9⟩ { s with todo := [] } [] ∧ (picked s).recordHeld ⟨false, 0, false, 9⟩ = false) ∧
    fetches (picked bell) [] = true ∧ (picked bell).isDoorbell ((picked bell).wordVa 0) = true ∧
    (picked (turn [] (192 * 2 ^ 30))).isDoorbell (192 * 2 ^ 30) = false ∧
    fetches (picked lq) [0xFC07, 0x9325] = true ∧ gives (decode [0xFC07, 0x9325]) (fun d => d.n == 2 && (fetched (picked lq) 2).permitted d.instr &&
      !(fetched (picked lq) 2).issueHeld d.instr && ((fetched (picked lq) 2).unsafeSource d.instr).isSome &&
      ((fetched (picked lq) 2).latch d 1).outsideLimit d.instr) = true ∧
    gives (decode [0x0328]) (fun d => !((fetched (picked add) 1).latch d 1).outsideLimit d.instr) = true := by
  refine ⟨fun s hs => ?_, by decide +kernel⟩
  have h := List.all_eq_true.mp (show ([turn [] 0xFFFFF0003000, turn [(0x4000, 0x07), (0x4001, 0xFC), (0x4002, 0x25), (0x4003, 0x93)] 0x4000].all fwTurn) = true by
    decide +kernel) s hs
  exact ⟨fwTurn_spec h, by simp only [fwTurn, Bool.and_eq_true] at h; exact eq_of_beq h.2⟩

theorem wit_VectorConfiguration :
    let s := usr [(1, 8), (2, 0x0B)]
    kindOf s.cur = .user ∧ typeValid 0x0233 = false ∧ typeValid 0x0033 = true ∧ typeValid (s.rx 2).toNat = false ∧
    typeValid (s.rx 1).toNat = false ∧ typeValid (0x0233 : Word).toNat = false ∧ 8 ≤ (s.rx 1).toNat ∧ (s.rx 3).toNat < 8 := by decide +kernel

/-- Groups of 8 up to the last register of the budget, with every element of them below `vl`. -/
theorem wit_VectorInteger :
    let s := vecs (usr []) 0x0072 256
    VecReady s ∧ VecOk s.me.vec ∧ GroupOk s.me.vec (24 : VNum).toNat s.me.vec.g ∧ GroupOk s.me.vec (8 : VNum).toNat s.me.vec.g ∧
    SrcOk s.me.vec (.v 16) s.me.vec.g ∧ SrcOk s.me.vec (.x 3) s.me.vec.g := by
  unfold VecReady VecOk GroupOk SrcOk GroupOk; decide +kernel

/-- FP32, BF16, and a type of 64 bits that has no format. -/
theorem wit_VectorFloat :
    ∀ p ∈ [((0x0042 : BitVec 16), some fp32), (0x0141, some bf16), (0x0043, none)],
      let s := vecs (usr []) p.1 16
      VecReady s ∧ VecOk s.me.vec ∧ GroupOk s.me.vec (31 : VNum).toNat s.me.vec.g ∧ SrcOk s.me.vec (.v 30) s.me.vec.g ∧
      s.me.vec.fmt = p.2 ∧ s.me.vec.sew ≠ 8 := by
  unfold VecReady VecOk GroupOk SrcOk GroupOk; decide +kernel

/-- FP16 to FP32, INT16 to INT32, and the greatest second type of an FP32 group of 4. -/
theorem wit_VectorConversions :
    fp32.val 0x3F800000 = .fin false (2 ^ 23) (-23) ∧ 0x3F800000 < 2 ^ fp32.width ∧ 2 ^ 128 ≤ 1 * 2 ^ 128 ∧
    ∀ w2 ∈ [(5 : BitVec 3), 1, 7],
      let s := vecs (usr []) 0x0062 128
      let v := { s.me.vec with vw2 := w2 }
      let u := s.withVec v
      VecReady u ∧ VecOk v ∧ GroupOk v (28 : VNum).toNat v.g ∧ v.fmt = some fp32 ∧ v.sew ≠ 8 ∧ v.g2 v.w2flt.2 ≤ 8 ∧
      GroupOk v (4 : VNum).toNat (v.g2 v.w2flt.2) ∧ SrcOk v (.v 8) (v.g2 v.w2flt.2) ∧ GroupOk v (4 : VNum).toNat v.g ∧
      SrcOk v (.v 8) v.g ∧ (w2 = 5 → 2 * v.w2flt.2 ≤ v.sew) ∧
      (w2 = 1 → v.w2int = some 16 ∧ v.g2 16 ≤ 8 ∧ 2 * 16 ≤ v.sew ∧ GroupOk v (4 : VNum).toNat (v.g2 16) ∧ SrcOk v (.v 8) (v.g2 16)) := by
  unfold VecReady VecOk GroupOk SrcOk GroupOk; decide +kernel

/-- A mask with bit 3 its first, and an empty one. -/
theorem wit_VectorMasks :
    let s := vecs (usr []) 0x0042 16
    let v := { s.me.vec with m := s.me.vec.m.set 2 8 }
    let u := s.withVec v
    VecReady u ∧ VecOk v ∧ GroupOk v (31 : VNum).toNat v.g ∧ SrcOk v (.v 5) v.g ∧ v.fmt = some fp32 ∧ v.sew ≠ 8 ∧
    (List.range v.len).any (v.mbit 1) = false ∧ 3 < v.len ∧ v.mbit 2 3 = true ∧ (∀ j ∈ List.range 3, v.mbit 2 j = false) := by
  unfold VecReady VecOk GroupOk SrcOk GroupOk; decide +kernel

theorem wit_VectorMovesReductions :
    let s := vecs (usr []) 0x0042 32
    let v := s.me.vec
    VecReady s ∧ VecOk v ∧ GroupOk v (31 : VNum).toNat v.g ∧ GroupOk v (1 : VNum).toNat v.g ∧ GroupOk v (2 : VNum).toNat v.g ∧
    SrcOk v (.x 3) v.g ∧ SrcOk v (.v 4) v.g ∧ v.fmt = some fp32 ∧ v.sew ≠ 8 := by
  unfold VecReady VecOk GroupOk SrcOk GroupOk; decide +kernel

/-- The active elements' addresses from register `a` pass the checks of R206, and are confirmed for `need`. -/
def reaches (s : State) (a : XReg) (k : MReg) (need : BitVec 5) (off : Nat → Int) : Bool :=
  let v := s.me.vec
  (v.active k).all (fun i => match fatAdd (s.rx a) (off i) with
    | some ea => ea.toNat % 2 ^ 56 % (v.sew / 8) == 0 && !s.isDoorbell (ea.toNat % 2 ^ 56) && s.attr (ea.toNat % 2 ^ 56) != 3
    | none => false) &&
  gives (s.confirmElems v.sew need ((v.active k).map (fun i => ⟨i, (fatAdd (s.rx a) (off i)).getD 0⟩)))
    (fun r => if need = 1 then gives (r.1.readElems pCore (v.sew / 8) r.2) (fun _ => true)
      else gives (r.1.storeGate false v.sew r.2) (fun _ => true))

/-- Four elements of 4 bytes from a plain pointer and from a fat one of format 5, by each rule of addresses. -/
def fourWords : State :=
  let s := vecs (usr [(1, 0x1000), (2, 8), (3, 5 * 2 ^ 59 + 0x1000)]) 0x0042 4
  s.withVec { s.me.vec with vw2 := 1 }

theorem wit_VectorLoads :
    let s := fourWords
    let v := s.me.vec
    VecReady s ∧ VecOk v ∧ GroupOk v (31 : VNum).toNat v.g ∧
    (∀ need ∈ [(1 : BitVec 5), 2], reaches s 1 0 need (fun i => 4 + (i * 4 : Nat)) = true ∧
      reaches s 1 0 need (fun i => i * (s.rx 2).toInt) = true ∧
      reaches s 1 0 need (fun i => (v.elem 8 i 16 : Nat)) = true ∧ reaches s 3 0 need (fun i => (i * 4 : Nat)) = true) ∧
    v.w2int = some 16 ∧ v.g2 16 ≤ 8 ∧ GroupOk v (8 : VNum).toNat (v.g2 16) ∧ v.g ≤ 4 ∧ GroupOk v (8 : VNum).toNat 1 ∧
    (s.rx 3).toNat / 2 ^ 59 = 5 ∧ fatSize 5 = some (v.sew / 8) ∧ (s.rx 3).toNat / 2 ^ 56 % 8 = 0 ∧ s.st.wf = true ∧
    (s.rx 3).toNat % 2 ^ 56 % (v.sew / 8) = 0 := by
  unfold VecReady VecOk GroupOk; decide +kernel

/-- Two elements in a segment that the domain may read and two past it, where it has no window. -/
theorem wit_VectorLoads_first_faulting :
    let s := vecs (usr [(1, 0x1600000 - 8)]) 0x0042 4
    let acc (i : Nat) : VAcc := ⟨i, s.rx 1, 0 + (i * 4 : Nat)⟩
    let u := s.withVec { s.me.vec with vl := 2 }
    VecReady s ∧ VecOk s.me.vec ∧ s.me.vec.active 0 = [0, 1, 2, 3] ∧ s.elemPasses 32 (acc 1) = true ∧ s.elemPasses 32 (acc 2) = false ∧
    gives (s.elemAddr 32 (acc 0)) (fun x => x == ⟨0, 0x15FFFF8⟩) = true ∧ gives (s.elemAddr 32 (acc 1)) (fun x => x == ⟨1, 0x15FFFFC⟩) = true ∧
    s.attr 0x15FFFF8 ≠ 3 ∧ s.attr 0x15FFFFC ≠ 3 ∧
    gives (u.confirmElems 32 1 [⟨0, 0x15FFFF8⟩, ⟨1, 0x15FFFFC⟩]) (fun r => r.2.length == 2 && gives (r.1.readElems pCore 4 r.2) (fun _ => true)) = true := by
  unfold VecReady VecOk; decide +kernel

/-- An array of MXFP8 blocks of one element, four elements of which lie in one unit. -/
theorem wit_VectorLoads_mx :
    let s := vecs (poke (usr [(1, 12 * 2 ^ 59 + 0x1000)]) 0x1000 64 0x7F) 0x0040 4
    let v := s.me.vec
    VecReady s ∧ VecOk v ∧ v.g ≤ 4 ∧ GroupOk v (4 : VNum).toNat v.g ∧ GroupOk v (8 : VNum).toNat 1 ∧
    ¬((4 : VNum).toNat ≤ (8 : VNum).toNat ∧ (8 : VNum).toNat < (4 : VNum).toNat + v.g) ∧ fatMx ((s.rx 1).toNat / 2 ^ 59) = some mxE4m3 ∧
    v.sew = 8 ∧ (s.rx 1).toNat % 2 ^ 56 % 32 = 0 ∧ (v.len + 1 - 1) / 1 ≤ v.rlen / 8 ∧
    gives (s.elemAddrs 8 (v.mxAccs 0 (s.rx 1) 0 mxE4m3.width)) (fun ads => gives (s.confirmElems 8 1 ads) (fun r =>
      gives (r.1.readElems pCore 1 r.2) (fun _ => true) && r.2.all (fun x => s.attr (x.ea.toNat % 2 ^ 56) != 3 &&
        (s.byteAt .dram (0x1000 + (x.ea.toNat % 2 ^ 56 + 2 ^ 56 - (s.rx 1).toNat % 2 ^ 56) % 2 ^ 56) == s.byteAt x.loc.sp x.loc.a)))) = true := by
  unfold VecReady VecOk GroupOk; decide +kernel

/-- Block pointers that fault: plain elements of another width, in blocks and misaligned; MX elements of another width, misaligned, and
with more blocks than the register of scales holds; and a code that names no format. -/
theorem wit_VectorLoads_blocks :
    let s (ptr : Nat) (t : BitVec 16) (n : BitVec 14) : State := vecs (usr [(1, BitVec.ofNat 64 ptr)]) t n
    let c (u : State) : Nat := (u.rx 1).toNat / 2 ^ 59
    (∀ u ∈ [s (5 * 2 ^ 59 + 0x1000) 0x0040 4, s (5 * 2 ^ 59 + 2 ^ 56 + 0x1000) 0x0042 4, s (5 * 2 ^ 59 + 0x1001) 0x0042 4, s (12 * 2 ^ 59 + 0x1000) 0x0042 4,
        s (12 * 2 ^ 59 + 0x1001) 0x0040 4, s (12 * 2 ^ 59 + 0x1000) 0x0050 256, s (19 * 2 ^ 59) 0x0040 4, s 0 0x0040 4],
      VecReady u ∧ VecOk u.me.vec ∧ u.me.vec.g ≤ 4 ∧ GroupOk u.me.vec (4 : VNum).toNat u.me.vec.g ∧ GroupOk u.me.vec (8 : VNum).toNat 1 ∧ u.me.vec.len ≠ 0 ∧
      ¬((4 : VNum).toNat ≤ (8 : VNum).toNat ∧ (8 : VNum).toNat < (4 : VNum).toNat + u.me.vec.g)) ∧
    c (s (5 * 2 ^ 59 + 0x1000) 0x0040 4) = 5 ∧ fatSize 5 = some 4 ∧ (s 0 0x0040 4).me.vec.sew ≠ 8 * 4 ∧ (s 0 0x0042 4).me.vec.sew = 8 * 4 ∧
    ((s (5 * 2 ^ 59 + 2 ^ 56 + 0x1000) 0x0042 4).rx 1).toNat / 2 ^ 56 % 8 = 1 ∧ ((s (5 * 2 ^ 59 + 0x1001) 0x0042 4).rx 1).toNat % 2 ^ 56 % 4 ≠ 0 ∧
    c (s (12 * 2 ^ 59 + 0x1001) 0x0040 4) = 12 ∧ (s 0 0x0042 4).me.vec.sew ≠ 8 ∧ ((s (12 * 2 ^ 59 + 0x1001) 0x0040 4).rx 1).toNat % 2 ^ 56 % 32 ≠ 0 ∧
    (s 0 0x0050 256).me.vec.rlen / 8 < ((s 0 0x0050 256).me.vec.len + 1 - 1) / 1 ∧ c (s (19 * 2 ^ 59) 0x0040 4) = 19 ∧ c (s 0 0x0040 4) = 0 := by
  unfold VecReady VecOk GroupOk; decide +kernel

theorem wit_VectorStores_faults :
    let n : Nat := 4
    let a (p : Word) (i : Nat) : Option Word := fatAdd ((vecs (usr [(1, p)]) 0x0042 4).rx 1) (0 + (i * n : Nat))
    let s := vecs (usr [(1, 0)]) 0x0042 4
    VecReady s ∧ VecOk s.me.vec ∧ GroupOk s.me.vec (31 : VNum).toNat s.me.vec.g ∧ 1 ∈ s.me.vec.active 0 ∧ 0 ∈ s.me.vec.active 0 ∧
    a (2 ^ 59 + 2 ^ 56 - 4) 1 = none ∧ gives (s.elemAddr 32 ⟨0, 2 ^ 59 + 2 ^ 56 - 4, 0⟩) (fun _ => true) = true ∧
    a 0x1001 0 = some 0x1001 ∧ (0x1001 : Word).toNat % 2 ^ 56 % n ≠ 0 ∧
    a 0xFFFFEFFFFFFC 1 = some 0xFFFFF0000000 ∧ gives (s.elemAddr 32 ⟨0, 0xFFFFEFFFFFFC, 0⟩) (fun _ => true) = true ∧
    (0xFFFFF0000000 : Word).toNat % 2 ^ 56 % n = 0 ∧ s.isDoorbell 0xFFFFF0000000 = true := by
  unfold VecReady VecOk GroupOk; decide +kernel

/-- Accesses that do not overlap. -/
def apart (n : Nat) (l : List VLoc) : Bool :=
  l.all (fun x => l.all (fun y => x == y || x.loc.sp != y.loc.sp || decide (x.loc.a + n ≤ y.loc.a) || decide (y.loc.a + n ≤ x.loc.a)))

/-- A list of two pointers to 0x2000 and 0x3000, and two offsets of 0 and 4. -/
theorem wit_VectorStores_lists :
    let s := vecs (poke (poke (usr [(1, 0x1000), (2, 2), (3, 65)]) 0x1000 8 0x2000) 0x1008 8 0x3000) 0x0042 2
    let v := (s.me.vec.setElem 8 32 (1, 4))
    let u := s.withVec { v with vw2 := 2 }
    VecReady s ∧ VecOk s.me.vec ∧ VecOk u.me.vec ∧ GroupOk s.me.vec (31 : VNum).toNat s.me.vec.g ∧ s.st.wf = true ∧ s.me.vec.len ≠ 0 ∧
    64 < (s.rx 3).toNat ∧ (s.rx 2).toNat ≠ 0 ∧ (s.rx 2).toNat ≤ 64 ∧
    gives (s.mcList (s.rx 1) 0 2) (fun r => r.2 == [0x2000, 0x3000] && r.1.me.vec == s.me.vec &&
      gives (r.1.elemAddrs 32 (r.2.flatMap (fun p => s.me.vec.accs 0 p (fun i => (i * 4 : Nat))))) (fun ads =>
        gives (r.1.confirmElems 32 2 ads) (fun q => apart 4 q.2 &&
          q.2.all (fun x => s.attr (x.ea.toNat % 2 ^ 56) != 3) && gives (q.1.storeGate false 32 q.2) (fun _ => true)))) = true ∧
    u.me.vec.w2int = some 32 ∧ u.me.vec.g2 32 ≤ 8 ∧ GroupOk u.me.vec (8 : VNum).toNat (u.me.vec.g2 32) ∧
    gives (u.elemAddrs 32 (u.me.vec.accs 0 (u.rx 1) (fun i => (u.me.vec.elem 8 i 32 : Nat)))) (fun ads =>
      gives (u.confirmElems 32 2 ads) (fun q => apart 4 q.2 && q.2.length == 2 &&
        q.2.all (fun x => u.attr (x.ea.toNat % 2 ^ 56) != 3) && gives (q.1.storeGate false 32 q.2) (fun _ => true))) = true := by
  unfold VecReady VecOk GroupOk; decide +kernel

/-- Blocks of one MXFP8 element stored, four elements of which lie in one unit. -/
theorem wit_VectorStores_mx :
    let s := vecs (usr [(1, 12 * 2 ^ 59 + 0x1000)]) 0x0040 4
    let v := s.me.vec
    let off (x : VLoc) : Nat := (x.ea.toNat % 2 ^ 56 + 2 ^ 56 - (s.rx 1).toNat % 2 ^ 56) % 2 ^ 56
    s.memWf ∧ VecReady s ∧ VecOk v ∧ v.g ≤ 4 ∧ GroupOk v (4 : VNum).toNat v.g ∧ GroupOk v (8 : VNum).toNat 1 ∧
    fatMx ((s.rx 1).toNat / 2 ^ 59) = some mxE4m3 ∧ v.sew = 8 ∧ (s.rx 1).toNat % 2 ^ 56 % 32 = 0 ∧ (v.len + 1 - 1) / 1 ≤ v.rlen / 8 ∧
    gives (s.elemAddrs 8 (v.mxAccs 0 (s.rx 1) 0 mxE4m3.width)) (fun ads => gives (s.confirmElems 8 2 ads) (fun r =>
      gives (r.1.storeGate false 8 r.2) (fun _ => true) && r.2.all (fun x => s.attr (x.ea.toNat % 2 ^ 56) != 3) &&
      r.2.all (fun x => r.2.all (fun y => off x == off y || x.loc != y.loc)))) = true := by
  unfold VecReady VecOk GroupOk State.memWf; decide +kernel

/-- Reductions into memory, two elements of one place among three: of FP32, and of 8-bit elements, which have no format. -/
theorem wit_VectorStores_reduce :
    let s (t : BitVec 16) : State :=
      let u := vecs (usr [(1, 0x1000)]) t 3
      u.withVec { (u.me.vec.setElem 8 32 (1, 4)) with vw2 := 2 }
    let at_ (u : State) : Bool := gives (u.elemAddrs 32 (u.me.vec.accs 0 (u.rx 1) (fun i => (u.me.vec.elem 8 i 32 : Nat)))) (fun ads =>
      gives (u.confirmElems 32 2 ads) (fun q => q.2.map (·.loc) == [⟨.dram, 0x1000⟩, ⟨.dram, 0x1004⟩, ⟨.dram, 0x1000⟩] &&
        q.2.all (fun x => u.attr (x.ea.toNat % 2 ^ 56) != 3) && gives (q.1.storeGate true 32 q.2) (fun _ => true)))
    (s 0x0042).memWf ∧ VecReady (s 0x0042) ∧ VecOk (s 0x0042).me.vec ∧ GroupOk (s 0x0042).me.vec (31 : VNum).toNat (s 0x0042).me.vec.g ∧
    (s 0x0042).me.vec.w2int = some 32 ∧ (s 0x0042).me.vec.g2 32 ≤ 8 ∧ GroupOk (s 0x0042).me.vec (8 : VNum).toNat ((s 0x0042).me.vec.g2 32) ∧
    at_ (s 0x0042) = true ∧ (s 0x0042).me.vec.fmt = some fp32 ∧ (s 0x0042).me.vec.sew ≠ 8 ∧
    VecReady (s 0x0040) ∧ VecOk (s 0x0040).me.vec ∧ (s 0x0040).me.vec.sew = 8 ∧ (s 0x0040).me.vec.w2int = some 32 ∧
    (s 0x0040).me.vec.g2 32 ≤ 8 ∧ GroupOk (s 0x0040).me.vec (8 : VNum).toNat ((s 0x0040).me.vec.g2 32) := by
  unfold VecReady VecOk GroupOk State.memWf; decide +kernel

/-- Two pieces at a table of two records: a null one and one at 0x5000, and an odd one. -/
theorem wit_GraphicsForms :
    let s := poke (poke (poke (usr [(1, 0x1000), (2, 1), (3, 2)]) 0x1000 8 3) 0x1020 8 0x5000) 0x1030 8 0x5001
    let entry (k : Nat) (e : Nat) : Bool := gives (s.loadScalar 0x1000 4) (fun r => r.2 == 3 && r.1.me == s.me &&
      gives (r.1.loadScalar (BitVec.ofNat 64 (0x1010 + 16 * k)) 8) (fun q => q.2 == e && q.1.me == s.me))
    let g := vecs (usr []) 0x0042 32
    let block (n c : Nat) : Prop := n % g.me.vec.g = 0 ∧ n + c * g.me.vec.g ≤ g.me.vec.vregs
    kindOf s.cur = .user ∧ (0x1000 : Word).toNat % 16 = 0 ∧ s.isDoorbell 0x1000 = false ∧ entry 0 0 = true ∧ entry 1 0x5000 = true ∧
    entry 2 0x5001 = true ∧ s.me.rs.depth < 16 ∧ (4 : XReg) ≠ 1 ∧ (4 : XReg) ≠ 2 ∧ (s.rx 2).toNat < 3 ∧ 3 ≤ (3 : Nat) ∧
    VecReady g ∧ VecOk g.me.vec ∧ g.me.vec.sew = 32 ∧ GroupOk g.me.vec (31 : VNum).toNat g.me.vec.g ∧ block 30 2 ∧ block 8 8 ∧ block 16 6 ∧
    block 28 4 ∧ block 23 9 := by
  unfold VecReady VecOk GroupOk; decide +kernel

/-- The elements of a vector register, least first. -/
def elems (s : State) (n : Nat) (l : List Nat) : State :=
  s.withVec ((l.zip (List.range l.length)).foldl (fun (v : VecState) p => v.setElem n 32 (p.2, p.1)) s.me.vec)

/-- A point in a triangle of positive area, whose reciprocals are 1; a point out of range; and elements of another width. -/
theorem wit_GraphicsForms_barycentric :
    let s := elems (elems (vecs (usr []) 0x0042 2) 31 [4 + 65536 * 4, 8192]) 8 [0, 16, 65536 * 16, 0x3F800000, 0x3F800000, 0x3F800000]
    let v := s.me.vec
    let X (e : Nat) : Int := signedNat 16 e
    let Y (e : Nat) : Int := signedNat 16 (e / 65536)
    let inR (e : Nat) : Prop := -8192 ≤ X e ∧ X e ≤ 8191 ∧ -8192 ≤ Y e ∧ Y e ≤ 8191
    let ev (p q r : Nat) : Int := (X r - X q) * (Y p - Y q) - (Y r - Y q) * (X p - X q)
    let p (i : Nat) : Nat := v.elem 31 i 32
    let vx (j : Nat) : Nat := v.elem 8 j 32
    let ranged (i : Nat) : Prop := inR (p i) ∧ ∀ j, j < 3 → inR (vx j)
    let q (j : Nat) : Nat := v.elem 8 (3 + j) 32
    VecReady s ∧ VecOk v ∧ v.sew = 32 ∧ 30 % v.g = 0 ∧ 30 + 2 * v.g ≤ v.vregs ∧ GroupOk v (31 : VNum).toNat v.g ∧ GroupOk v (8 : VNum).toNat v.g ∧
    ranged 0 ∧ ¬ranged 1 ∧ 0 < ev (vx 2) (vx 0) (vx 1) ∧ (∀ j, j < 3 → 0 < q j ∧ q j < 0x7F800000) ∧
    ev (p 0) (vx 1) (vx 2) * fpInt (fp32.val (q 0)) + ev (p 0) (vx 2) (vx 0) * fpInt (fp32.val (q 1)) + ev (p 0) (vx 0) (vx 1) * fpInt (fp32.val (q 2)) ≠ 0 ∧
    VecReady (vecs (usr []) 0x0040 2) ∧ VecOk (vecs (usr []) 0x0040 2).me.vec ∧ (vecs (usr []) 0x0040 2).me.vec.sew ≠ 32 := by
  unfold VecReady VecOk GroupOk; decide +kernel

/-- Five rays and boxes under a budget of four: one that enters at 1/2, one that is no ray, those that enter at the infinities, and one past
the budget. -/
theorem wit_GraphicsForms_boxes :
    let I := 0x7F800000
    let N := 0xFF800000
    let h := 0x3F800000
    let lay (s : State) (n : Nat) (ls : List (List Nat)) : State := (ls.zip (List.range ls.length)).foldl (fun u x => elems u (n + x.2) x.1) s
    let s0 := vecs (usr []) 0x0042 5
    let d := [h, 0, h, h, h]
    let s := lay (lay (s0.withMe { s0.me with travBudget := 4 }) 8 [[], [], [], d, d, d, [0, 0, N, I, 0], [0x40000000, 0, I, I, 0]])
      16 (List.replicate 3 [0x3F000000, 0, N, N, 0] ++ List.replicate 3 [0x3FC00000, 0, I, I, 0])
    let v := s.me.vec
    let A (j i : Nat) : FV := fp32.val (v.elem (8 + j) i 32)
    let B (j i : Nat) : FV := fp32.val (v.elem (16 + j) i 32)
    let big : Rat := 2 ^ 300
    let ext (f : FV) : Rat := match f with
      | .inf n => if n then -big else big
      | f => (fpInt f : Rat) / 2 ^ 149
    let bad (n i : Nat) : Prop := (∃ j, j < 8 ∧ (A j i).isNan = true) ∨ (∃ j, j < n ∧ (B j i).isNan = true) ∨
      (∃ j, j < 6 ∧ (A j i).isInf = true) ∨ (∀ j, j < 3 → fpInt (A (3 + j) i) = 0) ∨ ext (A 7 i) < ext (A 6 i)
    let slab (f : FV) (j i : Nat) : Rat := match f with
      | .inf n => if n = decide (fpInt (A (3 + j) i) < 0) then big else -big
      | f => ((fpInt f - fpInt (A j i) : Int) : Rat) / fpInt (A (3 + j) i)
    let crossed (i : Nat) : List Nat := (List.range 3).filter (fun j => fpInt (A (3 + j) i) ≠ 0)
    let enter (i : Nat) := (crossed i).foldl (fun e j => max e (min (slab (B j i) j i) (slab (B (3 + j) i) j i))) (ext (A 6 i))
    let exit_ (i : Nat) := (crossed i).foldl (fun e j => min e (max (slab (B j i) j i) (slab (B (3 + j) i) j i))) (ext (A 7 i))
    let boxHit (i : Nat) : Prop := ¬bad 6 i ∧ enter i ≤ exit_ i ∧ ∀ j, j < 3 → ext (B j i) ≤ ext (B (3 + j) i) ∧
      (fpInt (A (3 + j) i) = 0 → ext (B j i) ≤ ext (A j i) ∧ ext (A j i) ≤ ext (B (3 + j) i))
    VecReady s ∧ VecOk v ∧ v.sew = 32 ∧ s.me.travBudget.toNat = 4 ∧ v.active 0 = [0, 1, 2, 3, 4] ∧ 30 % v.g = 0 ∧ 30 + 2 * v.g ≤ v.vregs ∧
    (∀ i ∈ [0, 2, 3], boxHit i) ∧ ¬boxHit 1 ∧ enter 0 ≠ big ∧ enter 0 ≠ -big ∧ enter 2 = -big ∧ enter 3 = big := by
  unfold VecReady VecOk; decide +kernel

/-- Four rays and triangles under a budget of three: a hit at distance 1, a miss, no triangle, and one past the budget. -/
theorem wit_GraphicsForms_triangles :
    let h := 0x3F800000
    let q := 0x3E800000
    let lay (s : State) (n : Nat) (ls : List (List Nat)) : State := (ls.zip (List.range ls.length)).foldl (fun u x => elems u (n + x.2) x.1) s
    let s0 := vecs (usr []) 0x0042 4
    let s := lay (lay (s0.withMe { s0.me with travBudget := 3 }) 8 [[q, h, q], [q, h, q], [], [], [], [h, h, h], [], [0x40000000, 0x40000000, 0x40000000]])
      16 [[], [], [h, h], [h, h], [], [h, h], [], [h, h], [h, h]]
    let v := s.me.vec
    let A (j i : Nat) : FV := fp32.val (v.elem (8 + j) i 32)
    let B (j i : Nat) : FV := fp32.val (v.elem (16 + j) i 32)
    let ext (f : FV) : Rat := (fpInt f : Rat) / 2 ^ 149
    let bad (n i : Nat) : Prop := (∃ j, j < 8 ∧ (A j i).isNan = true) ∨ (∃ j, j < n ∧ (B j i).isNan = true) ∨
      (∃ j, j < 6 ∧ (A j i).isInf = true) ∨ (∀ j, j < 3 → fpInt (A (3 + j) i) = 0) ∨ ext (A 7 i) < ext (A 6 i)
    let P (n j i : Nat) : Int := fpInt (B (3 * n + j) i)
    let O (j i : Nat) : Int := fpInt (A j i)
    let D (j i : Nat) : Int := fpInt (A (3 + j) i)
    let e1 (j i : Nat) : Int := P 1 j i - P 0 j i
    let e2 (j i : Nat) : Int := P 2 j i - P 0 j i
    let ND (i : Nat) : Int := (e1 1 i * e2 2 i - e1 2 i * e2 1 i) * D 0 i + (e1 2 i * e2 0 i - e1 0 i * e2 2 i) * D 1 i +
      (e1 0 i * e2 1 i - e1 1 i * e2 0 i) * D 2 i
    let plain (i : Nat) : Prop := bad 9 i ∨ (∃ j, j < 9 ∧ (B j i).isInf = true) ∨ ND i = 0
    let meets (i : Nat) (t u w : Rat) : Prop := ∀ j, j < 3 → (O j i : Rat) + t * D j i = P 0 j i + u * e1 j i + w * e2 j i
    let hit (i : Nat) (t u w : Rat) : Prop := 0 ≤ u ∧ 0 ≤ w ∧ u + w ≤ 1 ∧ ext (A 6 i) ≤ t ∧ t ≤ ext (A 7 i)
    VecReady s ∧ VecOk v ∧ v.sew = 32 ∧ s.me.travBudget.toNat = 3 ∧ v.active 0 = [0, 1, 2, 3] ∧ 28 % v.g = 0 ∧ 28 + 4 * v.g ≤ v.vregs ∧
    ¬plain 0 ∧ meets 0 1 (1 / 4) (1 / 4) ∧ hit 0 1 (1 / 4) (1 / 4) ∧ ¬plain 1 ∧ meets 1 1 1 1 ∧ ¬hit 1 1 1 1 ∧ plain 2 := by
  unfold VecReady VecOk; decide +kernel

/-- A texture of 4 by 4 RGBA8 texels at 0x2000, whose source is at 0x3000, and coordinates 0. -/
def textured (h : Word) : State :=
  vecs (poke (poke (poke (usr [(1, h)]) 0x1000 8 0x2000) 0x1008 8 0x3000) 0x1010 5 0x0100040004) 0x0042 2

theorem wit_TextureForms :
    let s := textured 0x1000
    let v := s.me.vec
    VecReady s ∧ VecOk v ∧ v.sew = 32 ∧ v.len ≠ 0 ∧ GroupOk v (31 : VNum).toNat v.g ∧ (8 : VNum).toNat % v.g = 0 ∧ 8 + 3 * v.g ≤ v.vregs ∧
    (∀ i ∈ v.active 0, ∀ x ∈ v.vals 8 0 3 i, x.isNan = false ∧ x.isInf = false) ∧
    gives (s.readDesc (s.rx 1)) (fun r => r.1.me == s.me && r.2.w0 == 4 && r.2.nmip == 1 &&
      gives (r.1.readTaps r.2 [⟨0, 0, 0, 0⟩, ⟨1, 0, 0, 0⟩]) (fun q => q.1.me == s.me) &&
      [TexDesc.elBil, TexDesc.elTri].all (fun el => gives (r.1.readTaps r.2 (((v.active 0).map (fun i =>
        let c := v3Of (v.vals 8 0 3 i)
        el r.2 i c.x c.y c.z)).flatMap r.2.elTaps)) (fun q => q.1.me == s.me))) = true := by
  unfold VecReady VecOk GroupOk; decide +kernel

/-- The fields of the descriptor at 0x1000 are in their ranges (R257). -/
def goodDesc (t : State) : Bool :=
  let bs := t.st.getSeen t.free pCore t.me.paths ⟨.dram, 0x1000⟩ 128
  let fld (o n : Nat) : Nat := ofBytes ((bs.drop o).take n)
  let w (j : Nat) : Nat := max 1 (fld 0x10 2 / 2 ^ j)
  let ht (j : Nat) : Nat := max 1 (fld 0x12 2 / 2 ^ j)
  let size (j : Nat) : Nat := (w j + 3) / 4 * ((ht j + 3) / 4) * 64
  [decide (fld 0 8 < 2 ^ 56), fld 0 8 % 64 == 0, decide (fld 8 8 < 2 ^ 56), fld 8 8 % 16 == 0, decide (1 ≤ fld 0x10 2),
    decide (fld 0x10 2 ≤ 16384), decide (1 ≤ fld 0x12 2), decide (fld 0x12 2 ≤ 16384), decide (1 ≤ fld 0x14 1), decide (fld 0x14 1 ≤ 15),
    decide (fld 0x15 1 ≤ 10), decide (fld 0x16 1 < 16), fld 0x16 1 % 4 != 3, fld 0x16 1 / 4 != 3, fld 0x17 9 == 0, fld 0x5C 36 == 0,
    (List.range (fld 0x14 1)).all (fun j => fld (0x20 + 4 * j) 4 % 64 == 0 && decide (fld (0x20 + 4 * j) 4 + size j ≤ 2 ^ 32)),
    (List.range 15).all (fun j => decide (j < fld 0x14 1) || fld (0x20 + 4 * j) 4 == 0)].all id

/-- Handles that are misaligned, of a doorbell, without the right, without translation; and descriptors good and not. -/
theorem wit_TextureForms_faults :
    let s := textured
    VecReady (s 0x1001) ∧ VecReady (s 0xFFFFF0000000) ∧ VecReady (s 0x1800000) ∧ VecReady (s 0x40000000) ∧ VecReady (s 0x1000) ∧
    (s 0x1001).recordHeld (s 0x1001).cur = false ∧ ((s 0x1000).withVec { (s 0x1000).me.vec with vl := 0 }).me.vec.len = 0 ∧ (s 0x1000).me.vec.len ≠ 0 ∧
    (0x1001 : Word).toNat % 128 ≠ 0 ∧ (s 0xFFFFF0000000).isDoorbell (0xFFFFF0000000 % 2 ^ 56) = true ∧
    fails ((s 0x1800000).locate (s 0x1800000).req 1 0x1800000) (fun e => match e with | .right _ _ => true | _ => false) = true ∧
    fails ((s 0x40000000).locate (s 0x40000000).req 1 0x40000000) (· == .xlate 0x40000000) = true ∧
    gives ((s 0x1000).locate (s 0x1000).req 1 0x1000) (fun r => r.2 == ⟨.dram, 0x1000⟩) = true ∧ (s 0x1000).attr 0x1000 ≠ 3 ∧
    claims (s 0x1000) 1 false 0x1000 = true ∧ goodDesc (s 0x1000) = true ∧ goodDesc (poke (s 0x1000) 0x1010 1 0) = false := by
  unfold VecReady; decide +kernel

/-- The first texel of the texture, whose group no L2 holds, and the same once its core holds it, and once only the L2 does. -/
theorem wit_TextureForms_texels :
    let s := textured 0x1000
    let p : Tap := ⟨0, 0, 0, 0⟩
    let denied (u : State) : Bool :=
      gives (u.elemAddrs 32 [⟨0, 0x2000, 0⟩]) (fun ads => gives (u.confirmElems 32 1 ads) (fun r =>
        (firstDenied (r.1.confirmAll 1 [⟨0, 0x3000⟩]).2).isNone))
    gives (s.readDesc (s.rx 1)) (fun r => decide (r.2.cfmt ≤ 10) && r.2.cbase == 0x3000 && r.2.dbase == 0x2000 && r.2.texOff 0 0 0 == 0 &&
      (s.texLocal r.2 p).isNone && ((s.die 0).texGroup (r.2.tag p)).isNone &&
      gives (s.readTaps r.2 [p]) (fun q =>
        let far := q.1.setDie 0 { q.1.die 0 with texels := [] }
        q.2.map (·.1) == [p] && (q.1.texLocal r.2 p).isSome && q.1.me.paths == [] && q.1.attr 0x3000 != 3 && denied q.1 &&
        (far.texLocal r.2 p).isNone && ((far.die 0).texGroup (r.2.tag p)).isSome && decide ((far.die 0).tex.length ≤ 65536) && denied far)) = true ∧
    s.me.paths = [] ∧ 0x3000 % 16 = 0 ∧ s.region 0x3000 = .home 0x3000 ∧ (s.die (dieOf s.cur)).pgEn = true ∧
    walk s.st.dram.bytes (s.die (dieOf s.cur)).pgAddr.toNat 0x3000 = some 0x3000 ∧ tlbFind (s.die (dieOf s.cur)).tlb (0x3000 / 2 ^ 16) = none := by
  decide +kernel


theorem wit_Atomics :
    let s := usr [(1, 0x1001), (2, 0xFFFFF0000000), (3, 0x1400000), (4, 0x40000000), (5, 0x1000), (6, 0x1004)]
    kindOf s.cur = .user ∧ kindOf (fw []).cur = .firmware ∧
    fatAdd (s.rx 1) 0 = some 0x1001 ∧ 0x1001 % 2 ^ 56 % 8 ≠ 0 ∧ fatAdd (s.rx 2) 0 = some 0xFFFFF0000000 ∧
    s.isDoorbell 0xFFFFF0000000 = true ∧ fatAdd (s.rx 3) 0 = some 0x1400000 ∧ s.isDoorbell 0x1400000 = false ∧
    fails (s.locate s.req 11 0x1400000) (· == .right 10 0x1400000) = true ∧ fatAdd (s.rx 4) 0 = some 0x40000000 ∧
    s.isDoorbell 0x40000000 = false ∧ fails (s.locate s.req 11 0x40000000) (· == .xlate 0x40000000) = true ∧
    fatAdd (s.rx 5) 0 = some 0x1000 ∧ gives (s.locate s.req 11 0x1000) (fun _ => true) = true ∧ s.attr 0x1000 ≠ 3 ∧ s.attr 0x1000 ≠ 1 ∧
    s.recordHeld s.cur = false ∧ fails ((away s).wordAt 5 8 11 false) Stop.isHold = true ∧ fails ((away s).wordAt 6 4 11 false) Stop.isHold = true ∧
    s.st.wf = true ∧ gives (s.wordAt 5 8 11 false) (fun _ => true) = true ∧ gives (s.wordAt 6 4 11 false) (fun _ => true) = true := by
  decide +kernel

theorem wit_FullEmptyWords :
    let s := usr [(1, 0x1000008)]
    let e : State := { s with empties := [0x1000008] }
    let c : CtxId := ⟨false, 0, false, 7⟩
    let w : State := { e with takes := [⟨0x1000008, c⟩], others := [(c, { Ctx.reset with st := .wait, wait := some (.take 0x1000008 3 1) })] }
    kindOf s.cur = .user ∧ s.st.wf = true ∧
    (∀ u ∈ [s, e, w], gives (u.wordAt 1 8 11 true) (fun r => r.2.ea == 0x1000008) = true ∧
      gives (u.wordAt 1 8 9 true) (fun r => r.2.ea == 0x1000008) = true) ∧
    ¬0x1000008 ∈ s.empties ∧ 0x1000008 ∈ e.empties ∧ e.headTake 0x1000008 = none ∧ w.headTake 0x1000008 = some ⟨0x1000008, c⟩ ∧ c ≠ w.cur ∧
    (w.ctx c).wait = some (.take 0x1000008 3 1) ∧ e.takesFull 0x1000008 = false := by decide +kernel

/-- As many takes wait as a memory die holds. -/
theorem wit_FullEmptyWords_full :
    let s := usr [(1, 0x1000008)]
    let f : State := { s with empties := [0x1000008], takes := List.replicate 4096 ⟨0x1000008, ⟨false, 0, false, 7⟩⟩ }
    f.takesFull 0x1000008 = true ∧ 0x1000008 ∈ f.empties := by decide +kernel

theorem wit_AcquireReleaseFences :
    let s := usr [(1, 0x1000)]
    s.st.wf = true ∧ kindOf s.cur = .user ∧ fatAdd (s.rx 1) ((8 : Word).toInt) = some 0x1008 ∧ s.isDoorbell 0x1008 = false ∧ s.attr 0x1008 ≠ 3 ∧
    0x1008 % 2 ^ 56 % 8 = 0 ∧
    (∀ n ∈ [8, 4, 2, 1], gives (s.locate s.req 1 0x1008) (fun r => gives (r.1.claimStrong false 0x1008 r.2) (fun u =>
        gives (u.strong_ r.2 0x1008 n) (fun _ => true))) = true ∧
      gives (s.locate s.req 2 0x1008) (fun r => gives (r.1.claimStrong true 0x1008 r.2) (fun u =>
        gives (u.strong_ r.2 0x1008 n) (fun _ => true))) = true) ∧
    32 ≤ (32 : BitVec 8).toNat ∧ (31 : BitVec 8) ≠ 0 ∧ (31 : BitVec 8).toNat < 32 ∧ 4 < (5 : BitVec 8).toNat % 8 ∧
    4 < (40 : BitVec 8).toNat / 8 % 8 ∧ 64 ≤ (64 : BitVec 8).toNat ∧ (36 : BitVec 8).toNat % 8 ≤ 4 ∧ (36 : BitVec 8).toNat / 8 % 8 ≤ 4 := by
  decide +kernel

/-- Barriers at phase 7 of no participants, of three with one arrived, and of one. -/
theorem wit_Barriers :
    let c : CtxId := ⟨false, 1, true, 7⟩
    let at_ (npart arrived p limit : Nat) : State :=
      let s := poke (usr [(1, 0x1000), (2, BitVec.ofNat 64 p), (3, BitVec.ofNat 64 limit)]) 0x1000 8 (7 + 2 ^ 32 * arrived + 2 ^ 48 * npart)
      { s with others := [(c, { Ctx.reset with st := .wait, wait := some (.phase 0x1000 7 4 1) })] }
    let word (s : State) : Nat := ofBytes ((s.st.of .dram).readN 0x1000 8)
    (∀ s ∈ [at_ 0 0 7 0, at_ 1 1 7 0, at_ 3 1 7 0, at_ 1 0 7 0, at_ 3 0 6 0, at_ 3 0 8 5],
      s.st.wf = true ∧ kindOf s.cur = .user ∧ gives (s.wordAt 1 8 11 false) (fun r => r.2.loc == ⟨.dram, 0x1000⟩) = true ∧
      gives (s.wordAt 1 8 9 false) (fun r => r.2.loc == ⟨.dram, 0x1000⟩) = true) ∧
    word (at_ 0 0 7 0) / 2 ^ 48 = 0 ∧ word (at_ 1 1 7 0) / 2 ^ 48 ≤ word (at_ 1 1 7 0) / 2 ^ 32 % 2 ^ 16 ∧
    word (at_ 3 1 7 0) / 2 ^ 32 % 2 ^ 16 + 1 < 3 ∧ word (at_ 1 0 7 0) / 2 ^ 32 % 2 ^ 16 + 1 = word (at_ 1 0 7 0) / 2 ^ 48 ∧
    (7 + 2 ^ 32 - word (at_ 1 0 7 0) % 2 ^ 32) % 2 ^ 32 = 0 ∧ (8 + 2 ^ 32 - 7) % 2 ^ 32 ≠ 0 ∧ 2 ^ 31 ≤ (6 + 2 ^ 32 - 7) % 2 ^ 32 ∧
    (1 ≤ (7 + 2 ^ 32 - 6) % 2 ^ 32 ∧ (7 + 2 ^ 32 - 6) % 2 ^ 32 < 2 ^ 31) ∧ ¬(1 ≤ (7 + 2 ^ 32 - 7) % 2 ^ 32) ∧
    ((at_ 3 0 6 0).rx 3) = 0 ∧ ((at_ 3 0 8 5).rx 3) ≠ 0 ∧ c ≠ (usr []).cur ∧ (c, Wait.phase 0x1000 7 4 1) ∈ (at_ 1 0 7 0).waiters := by
  decide +kernel

theorem wit_Barriers_notices :
    let c : CtxId := ⟨false, 0, false, 7⟩
    let s (w : Wait) (o : Operand) : State :=
      arg { usr [] with others := [(c, { Ctx.reset with st := .wait, wait := some w })], dies := [(0, { Die.reset with dcyc := 100 })] } o
    let a := s (.phase 0x1000 7 4 1) (.ctxPhase c 8)
    let b := s (.phase 0x1000 8 4 1) (.ctxPhase c 8)
    let l := s (.timed 0x1000 7 100 4 1) (.ctxPhase c 8)
    let m := s (.timed 0x1000 7 99 4 1) (.ctx c)
    (a.ctx c).st = .wait ∧ (a.ctx c).wait = some (.phase 0x1000 7 4 1) ∧ 1 ≤ ((8 : BitVec 32) - 7).toNat ∧ ((8 : BitVec 32) - 7).toNat < 2 ^ 31 ∧
    (b.ctx c).wait = some (.phase 0x1000 8 4 1) ∧ ¬(1 ≤ ((8 : BitVec 32) - 8).toNat) ∧ a.opd = .ctxPhase c 8 ∧
    (l.ctx c).wait = some (.timed 0x1000 7 100 4 1) ∧ (l.die (dieOf c)).dcyc.toNat ≤ 100 ∧ 99 < (m.die (dieOf c)).dcyc.toNat ∧
    m.opd = .ctx c ∧ (m.ctx c).wait = some (.timed 0x1000 7 99 4 1) := by decide +kernel

theorem wit_RingsTicketsStrips :
    let s := usr [(1, 15), (2, 4), (3, 5), (4, 16), (5, 0x1000), (6, 261), (7, 260), (8, 1), (9, 4096), (10, 4097)]
    let own := s.setDie 0 { s.die 0 with postown := (s.die 0).postown.set 15 5, chans := [(15, ⟨5, 2⟩)] }
    let t := poke own 0x1000 4 5
    let B := ((own.die 0).chans.get Chan.reset 15).frontier.toNat
    let lag (n : Nat) : Nat := (n + 2 ^ 32 - 5) % 2 ^ 32
    t.st.wf = true ∧ kindOf s.cur = .user ∧ s.me.st = .run ∧ 15 < (s.rx 4).toNat ∧ (s.rx 1).toNat ≤ 15 ∧
    (own.die (dieOf own.cur)).postown[(own.rx 1).toNat]? = some own.me.pdid ∧ (own.rx 2).toNat < B ∧ B + 256 ≤ (own.rx 6).toNat ∧
    B ≤ (own.rx 7).toNat ∧ (own.rx 7).toNat < B + 256 ∧ B + 256 < 2 ^ 64 ∧
    gives (t.wordAt 5 4 11 false) (fun r => r.2.loc == ⟨.dram, 0x1000⟩) = true ∧
    gives (t.wordAt 5 4 9 false) (fun r => r.2.loc == ⟨.dram, 0x1000⟩) = true ∧ ofBytes ((t.st.of .dram).readN 0x1000 4) = 5 ∧
    1 ≤ (t.rx 8).toNat ∧ (t.rx 9).toNat ≤ 4096 ∧ 4096 < (t.rx 10).toNat ∧ (t.rx 11).toNat < 1 ∧ lag 5 = 0 ∧ 2 ^ 31 ≤ lag 4 ∧ 0 < lag 6 ∧
    lag 6 < 2 ^ 31 ∧ s.me.stripLag ≤ (0 : Word).toNat := by decide +kernel


/-- A set at 0x1000 with counter 7 and a record at 0x2000 of one slot, whose header is free. -/
def setAndRec (cap : Nat) : State := poke (poke (usr [(1, 0x1000), (2, 0x2000)]) 0x1000 6 7) 0x2004 4 cap

theorem wit_Bundles :
    let s := setAndRec 1
    let me (f : Ctx → Ctx) : State := s.withMe (f s.me)
    let b := me (fun x => { x with bundle := some ⟨0x1000, 0x2000⟩ })
    let served (p : BitVec 12) : State := { s with sets := [(0x1000, ⟨7, 7, 0, p, []⟩)] }
    let full := { b with sets := [(0x1000, ⟨7, 7, 0, 5, List.replicate 64 ⟨8, 0x2000, none, []⟩⟩)] }
    let last := { b with sets := [(0x1000, ⟨2 ^ 48 - 1, 7, 0, 5, []⟩)] }
    let okRec (t : State) (p : State → Bool) : Bool :=
      gives (t.resync.confirmRange 0x1000 64) (fun t1 => gives (t1.confirmRec 0x2000) p)
    let okSet (t : State) (p : State → Bool) : Bool := gives (t.resync.confirmRange 0x1000 64) p
    let okRcl (t : State) (d n : Nat) : Bool := gives (t.resync.confirmRec d) (fun u => u.fwRead d 1 == n)
    kindOf s.cur = .user ∧ b.me.bundle.isSome = true ∧ s.me.bundle = none ∧ s.me.snap = none ∧
    okRec s (fun t => !t.badSet 0x1000 && !t.badRec 0x2000 && t.serviceStatus 0x1000 == 0) = true ∧
    okRec (poke s 0x1006 1 1) (fun t => t.badSet 0x1000) = true ∧ okRec (setAndRec 4097) (fun t => !t.badSet 0x1000 && t.badRec 0x2000) = true ∧
    okRec (served 6) (fun t => !t.badSet 0x1000 && !t.badRec 0x2000 && t.inService 0x1000 && t.serviceStatus 0x1000 != 0) = true ∧
    (me (fun x => { x with snap := some ⟨0x1000, none, true⟩ })).me.snap = some ⟨0x1000, none, true⟩ ∧
    okSet s (fun t => !t.badSet 0x1000 && t.serviceStatus 0x1000 == 0) = true ∧ okSet (poke s 0x1006 1 1) (fun t => t.badSet 0x1000) = true ∧
    okRcl s 0x2000 0 = true ∧ okRcl (poke s 0x2000 1 2) 0x2000 2 = true ∧ okRcl (poke s 0x2000 1 3) 0x2000 3 = true ∧ 0x2000 % 128 = 0 ∧
    (full.bset 0x1000).pending.length = 64 ∧ (last.bset 0x1000).counter = 2 ^ 48 - 1 ∧ (last.bset 0x1000).pending.length < 64 ∧
    fatAdd ((usr [(1, 0x1200008)]).rx 1) ((0 : Word).toInt) = some 0x1200008 ∧ 0x1200008 % 2 ^ 56 % 8 = 0 ∧ s.isDoorbell 0x1200008 = false ∧
    s.recordHeld s.cur = false := by
  decide +kernel

/-- A record of one line, at 0x1200000, committed first in its set; then with its slot installed, the first of two. -/
theorem wit_Bundles_slot :
    let s := arg (poke (poke (fw []) 0x2018 4 1) 0x2080 8 0x1200000) (.bundleSlot 0x1000 0)
    let t := poke (poke s 0x2018 4 2) 0x2088 8 1
    let sets : SMap BundleSet := [(0x1000, ⟨8, 7, 0, 5, [⟨8, 0x2000, none, []⟩]⟩)]
    let a : State := { s with sets := sets }
    let b : State := { t with sets := [(0x1000, ⟨8, 7, 0, 5, [⟨8, 0x2000, none, [0]⟩]⟩)] }
    a.opd = .bundleSlot 0x1000 0 ∧ (a.bset 0x1000).pending = [⟨8, 0x2000, none, []⟩] ∧ 0 < a.recLines 0x2000 ∧ a.memWf ∧
    (∃ j, j < a.recLines 0x2000 ∧ j ∉ ([] : List Nat)) ∧ (arg a (.bundleSlot 0x1000 1)).opd = .bundleSlot 0x1000 1 ∧ a.recLines 0x2000 ≤ 1 ∧
    (a.fwLoc (a.fwRead 0x2080 8 % 2 ^ 56 / 128 * 128)) = some ⟨.dram, 0x1200000⟩ ∧ (b.bset 0x1000).pending = [⟨8, 0x2000, none, [0]⟩] ∧
    (∃ j, j < b.recLines 0x2000 ∧ j ∉ [0]) ∧
    gives (a.claimHome true 0x1200000 ⟨.dram, 0x1200000⟩) (fun _ => true) = true ∧
    fails (State.claimHome { a with dir := [{ line := 0x1200000 / 128, lg := 0, st := .x, sharers := [72], coarse := none, ends := [], cend := 0, flag := .none, flagEnd := 0, quiet := 0 }] }
      true 0x1200000 ⟨.dram, 0x1200000⟩) (fun _ => true) = true ∧
    b.memWf := by unfold State.memWf; decide +kernel

/-- A user context with an open bundle whose record has room for one line, of which it lists `n`, the first at `line`. -/
def joining (n line : Nat) (va : Word) : State :=
  let s := poke (poke (poke (usr [(1, va)]) 0x2004 4 1) 0x2018 4 n) 0x2080 8 line
  s.withMe { s.me with bundle := some ⟨0x1000, 0x2000⟩ }

/-- Stores that may not join, find no room, join a listed line, and list a new one. -/
theorem wit_Bundles_join :
    let va := 0x1200008
    let l : Loc := ⟨.dram, va⟩
    let lists (s : State) : Bool := (List.range (s.recLines 0x2000)).any (fun k => s.fwRead (0x2000 + 128 + 256 * k) 8 == 0x1200000)
    let here (s : State) : Bool := s.attr va == 3 && s.memHomed va && (s.bvLine ⟨.dram, 0x1200000⟩ 0x1200000).cur.desc == 0
    let puts (u : State) (ws : List (Nat × Nat × Nat)) : Except Stop State :=
      ws.foldl (fun x p => match x with
        | .ok y => y.recPut (0x2000 + p.1) p.2.1 p.2.2
        | .error e => .error e) (.ok u)
    let store (k mask : Nat) : List (Nat × Nat × Nat) := [(256 + 256 * k + 8, 8, 7), (144 + 256 * k, 16, mask + 255 * 2 ^ 8)]
    let plain := joining 0 0 0x1008
    let full := joining 1 0x1200080 0x1200008
    let old := joining 1 0x1200000 0x1200008
    let new := joining 0 0 0x1200008
    (∀ s ∈ [plain, full, old, new], kindOf s.cur = .user ∧ s.me.bundle = some ⟨0x1000, 0x2000⟩ ∧ s.recordHeld s.cur = false) ∧
    fatAdd (plain.rx 1) ((0 : Word).toInt) = some 0x1008 ∧ plain.attr 0x1008 ≠ 3 ∧ plain.isDoorbell 0x1008 = false ∧
    gives (plain.locate plain.req 2 0x1008) (fun r => r.2 == ⟨.dram, 0x1008⟩) = true ∧
    (∀ s ∈ [full, old, new], fatAdd (s.rx 1) ((0 : Word).toInt) = some 0x1200008 ∧ 0x1200008 % 2 ^ 56 % 8 = 0 ∧ s.isDoorbell va = false ∧
      gives (s.locate s.req 2 va) (fun r => r.2 == l && here r.1) = true) ∧
    gives (full.locate full.req 2 va) (fun r => !lists r.1 && decide (r.1.fwRead 0x2004 4 ≤ r.1.recLines 0x2000)) = true ∧
    gives (old.locate old.req 2 va) (fun r => r.1.recLines 0x2000 == 1 && r.1.fwRead 0x2080 8 == 0x1200000 && gives (r.1.joinReady 0x2000 [0x1200000]) (fun u =>
      u.recLines 0x2000 == 1 && u.fwRead 0x2080 8 == 0x1200000 && gives (puts u (store 0 (u.fwRead 0x2090 16))) (fun _ => true))) = true ∧
    gives (new.locate new.req 2 va) (fun r => r.1.recLines 0x2000 == 0 && decide (0 < r.1.fwRead 0x2004 4) && gives (r.1.joinReady 0x2000 [0x1200000]) (fun u =>
      u.recLines 0x2000 == 0 && gives (puts u [(128, 8, 0x1200000), (136, 8, 0), (144, 16, 0), (24, 4, 1)]) (fun w =>
        gives (puts w (store 0 (w.fwRead 0x2090 16))) (fun _ => true)))) = true ∧
    new.memWf ∧ gives (new.locate (fwReq (dieOf new.cur)) 0 0x2100) (fun r => r.2.sp == .dram && gives (r.1.claim true 0x2100 r.2) (fun _ => true)) = true := by
  unfold State.memWf; decide +kernel

/-- Loads of a line that a set's version 9 has installed over version 8, under no snapshot, another set's, and this set's: fixed before at 9,
8 and 7, fixed now with the next commit under way and not, with the line in a record and not. -/
theorem wit_Bundles_snap :
    let va := 0x1200008
    let l : Loc := ⟨.dram, va⟩
    let ver (n : Nat) : LineVer := ⟨0x1000, n, 1, 0x2000⟩
    let s (o : Option OpenSnap) (fixed : Bool) (n : BitVec 48) (done : List Nat) : State :=
      let u := poke (poke (usr [(1, 0x1200008)]) 0x2018 4 1) 0x2080 8 0x1200000
      let u : State := { u with bv := [(0x1200000, ⟨ver 9, ver 8, List.replicate 128 7⟩)], sets := [(0x1000, ⟨10, 9, 0, 5, [⟨10, 0x2000, none, done⟩]⟩)] }
      u.withMe { u.me with snap := o, snapValid := fixed, snapVersion := n }
    let o (d : VAddr) (r : Option VAddr) : OpenSnap := ⟨d, r, false⟩
    let all := [s none false 0 [], s (some (o 0x3000 none)) false 0 [], s (some (o 0x1000 none)) false 0 [], s (some (o 0x1000 none)) false 0 [0],
      s (some (o 0x1000 none)) true 9 [], s (some (o 0x1000 (some 0x2000))) true 9 [], s (some (o 0x1000 none)) true 8 [], s (some (o 0x1000 none)) true 7 []]
    (∀ u ∈ all, fatAdd (u.rx 1) ((0 : Word).toInt) = some 0x1200008 ∧ u.isDoorbell va = false ∧ u.attr va = 3 ∧ u.memHomed va = true ∧
      gives (u.locate u.req 1 va) (fun r => r.2 == l && gives (r.1.claim false va l) (fun w => !w.waitsInstall 0x1200000 8 8 &&
        w.bvLine ⟨.dram, 0x1200000⟩ 0x1200000 == ⟨ver 9, ver 8, List.replicate 128 7⟩)) = true) ∧ (8 : Nat) ≤ l.a ∧
    0x1200008 % 2 ^ 56 % 8 = 0 ∧ (s none false 0 []).me.snap = none ∧ (s (some (o 0x3000 none)) false 0 []).me.snap = some (o 0x3000 none) ∧
    (0x1000 : VAddr) ≠ 0 ∧ (0x1000 : VAddr) ≠ 0x3000 ∧ (s (some (o 0x1000 none)) true 8 []).me.snapValid = true ∧
    ((s none false 0 [0]).bset 0x1000).pending.find? (fun c => c.version == 9 + 1) = some ⟨10, 0x2000, none, [0]⟩ ∧
    (s (some (o 0x1000 (some 0x2000))) true 9 []).recLines 0x2000 = 1 ∧ (s (some (o 0x1000 (some 0x2000))) true 9 []).fwRead 0x2080 8 = 0x1200000 ∧
    (s (some (o 0x1000 (some 0x2000))) true 9 []).fwRead 0x2088 8 % 2 = 0 ∧ (ver 9).version ≤ (9 : BitVec 48).toNat ∧ (8 : BitVec 48).toNat < (ver 9).version ∧
    (ver 8).version ≤ (8 : BitVec 48).toNat ∧ ¬(ver 8).version ≤ (7 : BitVec 48).toNat := by
  decide +kernel

/-- One command of 8 bytes from 0x1000 to 0x2000, in the elements of a group of 64-bit elements. -/
def copyWords : List Word := [0x31, 0x1000, 0x2000, 0, 1]

/-- A tracked command of the context of `usr`, as its engine holds it. -/
def copyCmd (started : Bool) : CopyCmd := ⟨copyWords, .ctx ⟨false, 0, false, 0⟩, ⟨false, 0, false, 0⟩, 5, 0, 2 ^ 63, started⟩

theorem wit_CopyEngine :
    let s := vecs (usr []) 0x0033 64
    let q (p : BitVec 12) (st : Bool) : State := arg ((usr []).setDie 0 { (usr []).die 0 with engines := [(1, [{ copyCmd st with pdid := p }])] }) (.engine 0 1)
    let c := copyForm copyWords
    VecReady s ∧ VecOk s.me.vec ∧ s.me.vec.sew = 64 ∧ s.me.vec.len % 32 = 0 ∧ GroupOk s.me.vec (24 : VNum).toNat s.me.vec.g ∧
    (s.die 0).dcyc.toNat < 2 ^ 63 ∧ VecOk { s.me.vec with vl := 32 } ∧
    (q 5 false).opd = .engine 0 1 ∧ ((q 5 true).die 0 |>.copyQueue 1).any (·.started) = true ∧
    ((q 5 false).die 0 |>.copyQueue 1).find? (fun j => !(q 5 false).streamStopped j.owner) = some (copyCmd false) ∧
    (q 5 false).cmdDenied (copyCmd false) = none ∧ ((q 6 false).cmdDenied { copyCmd false with pdid := 6 }).isSome = true ∧
    ((q 6 false).holderOf (copyCmd false).owner).isSome = true ∧
    (q 5 true).st.wf = true ∧ ((q 5 true).die 0 |>.copyQueue 1).find? (·.started) = some (copyCmd true) ∧ c.tuples = 1 ∧ c.flag = 0 ∧ c.unit ≠ 0 ∧
    (q 5 true).pathsOf (copyCmd true).owner = [] ∧
    gives ((q 5 true).takeCommand (engReq 5 0) c) (fun u => !u.flaggedIn (c.from_ 0) c.unit &&
      gives (u.tupleLocs (engReq 5 0) (c.from_ 0) (c.to_ 0) c.unit) (· == ([(⟨.dram, 0x1000⟩, c.unit)], [(⟨.dram, 0x2000⟩, c.unit)]))) = true ∧
    fails ((away (q 5 true)).takeCommand (engReq 5 0) c) (fun _ => true) = true ∧
    (copyCmd true).handle ≠ 0 ∧ (q 5 true).waiters = [] := by unfold VecReady VecOk GroupOk; decide +kernel

/-- A tracked command whose promise is cycle 50, at cycles 50 and 51, and completed. -/
theorem wit_CopyEngine_waits :
    let h : Word := 2 ^ 63
    let c : CtxId := ⟨false, 0, false, 3⟩
    let s (now : Word) (ack : Bool) : State :=
      let u := (usr [(1, h)]).setDie 0 { (usr []).die 0 with dcyc := now }
      arg { u with me := { u.me with slots := [⟨h, 50⟩], missack := ack },
                   others := [(c, { Ctx.reset with st := .wait, wait := some (.copy h (some 50) 4 1) })] } (.ctx c)
    let d := (s 50 false).setDie 0 { (s 50 false).die 0 with copyDone := [(h, 0)] }
    kindOf (s 50 false).cur = .user ∧ (usr []).me.slots.find? (fun q => q.handle == (usr [(1, h)]).rx 1) = none ∧
    (s 50 false).me.slots.find? (fun q => q.handle == (s 50 false).rx 1) = some ⟨h, 50⟩ ∧ d.copyStatusOf h = some 0 ∧ (s 50 false).copyStatusOf h = none ∧
    (s 50 true).me.missack = true ∧ (s 50 false).me.missack = false ∧ h.toNat / 2 ^ 48 % 8 = dieOf (s 50 false).cur ∧
    ((s 50 false).die 0).dcyc.toNat ≤ (50 : Word).toNat ∧ (50 : Word).toNat < ((s 51 false).die 0).dcyc.toNat ∧ (s 51 false).me.st = .run ∧
    (s 50 false).recordHeld c = false ∧
    ((s 50 false).setDie 0 { (s 50 false).die 0 with fbHeld := [{ code := 3, info := 0, master := masterOf c, faddr := 0, fpc := 0, fid := 0, launchId := 0, pdid := 5, cycle := 0 }] }).recordHeld c = true ∧
    (s 50 false).opd = .ctx c ∧ ((s 50 false).ctx c).st = .wait ∧ ((s 50 false).ctx c).wait = some (.copy h (some 50) 4 1) := by decide +kernel

/-- Two elements at home, and with base 2^48 of package 1, whose report is awaited. -/
theorem wit_SplitGather :
    let v (s : State) : State := (vecs s 0x0042 2).withVec { (vecs s 0x0042 2).me.vec with vw2 := 3 }
    let home := v (usr [(1, 0x1000)])
    let peer := v { usr [(1, 0x1000000001000)] with
      peers := [1], peerMap := [0x100000000], domains := [(5, { dom5 with wins := [(0, ⟨0x1000000000000, 8, 31, 0⟩)] })] }
    let addrs (s : State) (p : List VAddr_ → Bool) : Bool :=
      gives (s.elemAddrs 32 (s.me.vec.accs 0 (s.rx 1) (fun i => signedNat 64 (s.me.vec.elem 8 i 64)))) (fun l =>
        p l && gives (s.confirmElems 32 1 l) (fun r => gives (r.1.readElems pGather 4 r.2) (fun _ => true)))
    let w : State := arg { usr [] with others := [(⟨false, 0, false, 3⟩, { Ctx.reset with wait := some (.gather [1, 2] 1) })] } (.ctxPkg ⟨false, 0, false, 3⟩ 1)
    VecReady home ∧ VecOk home.me.vec ∧ VecReady peer ∧ VecOk peer.me.vec ∧ home.me.vec.vw2 = 3 ∧
    GroupOk home.me.vec (8 : VNum).toNat (home.me.vec.g2 64) ∧ GroupOk home.me.vec (31 : VNum).toNat home.me.vec.g ∧
    addrs home (fun l => home.gatherHomes l == [] && l.all (fun x => home.attr (x.ea.toNat % 2 ^ 56) != 3)) = true ∧
    addrs peer (fun l => peer.gatherHomes l == [1]) = true ∧ peer.me.gathered = false ∧
    (w.ctx ⟨false, 0, false, 3⟩).wait = some (.gather [1, 2] 1) ∧ w.opd = .ctxPkg ⟨false, 0, false, 3⟩ 1 := by
  unfold VecReady VecOk GroupOk; decide +kernel

/-- A descriptor at 0x1000 of two participants that broadcast one byte, and the record of rank 1 at 0x2000. -/
def collState (npart : Nat) : State :=
  poke (poke (poke (usr [(1, 0x1000), (2, 0x2000), (4, 2 ^ 63)]) 0x1000 12 (npart + 2 ^ 16 + 2 ^ 64)) 0x2000 8 0xFFFFC0000004) 0x2008 12 (0xFFFFC000000C + 2 ^ 64)

/-- The instance of that descriptor with participants at core 0's scratch. -/
def collOf (ranks : List Nat) (ended : Bool) : Collective :=
  { desc := 0x1000, epoch := 0, form := 1, image := toBytes 64 (2 + 2 ^ 16 + 2 ^ 64), pdid := 5, ended := ended, status := if ended then some 0 else none,
    parts := ranks.map (fun r => ⟨r, .ctx ⟨false, 0, false, 0⟩, ⟨false, 0, false, 0⟩, 0, BitVec.ofNat 64 (2 ^ 63 + r), 0xFFFFC0000004, BitVec.ofNat 56 (0xFFFFC0000008 + 4 * r), false⟩) }

theorem wit_Collectives :
    let join (s : State) (p : State → List Byte → List Byte → Bool) : Bool :=
      gives (s.resync.readWords (s.rx 1) 0 8) (fun r => gives (r.1.readWords (s.rx 2) 0 4) (fun q => p q.1 r.2 q.2))
    let c : CtxId := ⟨false, 0, false, 3⟩
    let open_ (e : Bool) : State := { collState 2 with collectives := [collOf [0] e] }
    let ends : State := arg { open_ false with
      collectives := [{ collOf [0, 1] false with status := some 0 }],
      others := [(c, { Ctx.reset with st := .wait, wait := some (.collective 0x1000 0 1 4 1) })] } (.coll 0x1000 0)
    kindOf (collState 2).cur = .user ∧ (3 : XReg) ≠ 1 ∧ (3 : XReg) ≠ 2 ∧
    join (collState 1) (fun t i r => t.collRefusal 1 0x1000 i (collRec (ofBytes r)) != 0) = true ∧
    join (collState 2) (fun t i r => t.collRefusal 1 0x1000 i (collRec (ofBytes r)) == 0) = true ∧
    join (open_ false) (fun t i r => t.collRefusal 1 0x1000 i (collRec (ofBytes r)) == 0) = true ∧
    (collState 2).collHandle ((collState 2).rx 4) = none ∧ ((open_ true).collHandle ((open_ true).rx 4)) = some (collOf [0] true, 0) ∧
    (collOf [0] true).status = some 0 ∧ ((open_ false).collHandle ((open_ false).rx 4)) = some (collOf [0] false, 0) ∧
    ends.collAt 0x1000 0 = some { collOf [0, 1] false with status := some 0 } ∧ ends.waiters = [(c, .collective 0x1000 0 1 4 1)] := by decide +kernel

/-- A broadcast that both ranks have joined, in a domain with the right to core 0's scratch and in one without. -/
def broadcast (p : BitVec 12) : State :=
  arg { collState 2 with collectives := [{ collOf [0, 1] false with pdid := p }], domains := [(5, { dom5 with wins := [(0, ⟨0xFFFFC0000000, 1, 31, 0⟩)] })] }
    (.coll 0x1000 0)

theorem wit_Collectives_perform :
    ∀ form ∈ [0, 1, 2],
      let k : Collective := { collOf [0, 1] false with form := form }
      let s : State := { broadcast 5 with collectives := [k] }
      let d := collDesc (ofBytes k.image)
      let n := collSize d.fmt
      let outs := if form = 2 then d.npart * d.count else d.count
      let src (_ _ : Nat) : Loc := ⟨.scratch, 4⟩
      let dst (r i : Nat) : Loc := ⟨.scratch, 8 + 4 * r + i⟩
      s.opd = .coll 0x1000 0 ∧ s.collAt 0x1000 0 = some k ∧ k.status = none ∧ d.npart ≤ k.parts.length ∧
      (∀ p ∈ k.parts, s.streamHeld ((s.holderOf p.who).getD p.from_) 2 = false) ∧ k.parts.any (fun p => (s.partDenied k d p).isSome) = false ∧
      s.st.wf = true ∧ gives (s.takeColl k d) (· == s) = true ∧ d.npart = k.parts.length ∧ 0 < d.npart ∧ d.root < d.npart ∧ d.op = 0 ∧
      (k.parts.map (·.rank)).Nodup ∧ (∀ p ∈ k.parts, p.rank < d.npart ∧ s.pathsOf p.who = [] ∧ s.flaggedIn p.src.toNat (d.count * n) = false) ∧
      (∀ p ∈ k.parts, p.src.toNat = 0xFFFFC0000000 + 4 ∧ p.dst.toNat = 0xFFFFC0000000 + (8 + 4 * p.rank)) ∧ n = 1 ∧ d.count = 1 ∧ outs ≤ 2 ∧
      ([0, 1].all (fun r => [0, 1].all (fun q => [0, 1].all (fun i => [0, 1].all (fun j =>
        (r == q && i == j) || (dst r i).a != (dst q j).a)))) && [0, 1].all (fun r => [0, 1].all (fun i => (dst r i).a != (src 0 0).a))) = true := by
  decide +kernel

/-- A participant without the right to its operands; one whose line is held elsewhere; and one whose stream's record is held. -/
theorem wit_Collectives_stops :
    let s := broadcast 5
    let k := collOf [0, 1] false
    let d := collDesc (ofBytes k.image)
    let c : CtxId := ⟨false, 0, false, 0⟩
    let r : FaultRec := { code := 3, info := 0, master := { masterOf c with kind := 2 }, faddr := 0, fpc := 0, fid := 0, launchId := 0, pdid := 5, cycle := 0 }
    let held := s.setDie 0 { s.die 0 with fbHeld := [r] }
    k.parts.any (fun p => ((broadcast 6).partDenied { k with pdid := 6 } d p).isSome) = true ∧
    fails ((away s).takeColl { k with parts := k.parts.map (fun p => { p with src := 0x1000 }) } d) (fun _ => true) = true ∧
    (∃ p ∈ k.parts, held.streamHeld ((held.holderOf p.who).getD p.from_) 2 = true) := by decide +kernel

/-- An engine's place in scratch depends on no byte of memory. -/
theorem engine_scratch {s : State} {va off : Nat} (h : s.region va = .scratch 0 off) (h2 : off < s.scratchSize 0) (m : Stores) :
    ({ s with st := m } : State).locate (engReq 5 0) 0 va = .ok ({ s with st := m }, ⟨.scratch, off⟩) := by
  have e : ({ s with st := m } : State).region va = .scratch 0 off := h
  have e2 : off < ({ s with st := m } : State).scratchSize 0 := h2
  simp [State.locate, e, e2, State.fillPlb, engReq]

/-- A tuple of 8 bytes there lies where its addresses do, whatever the memory holds. -/
theorem engine_tuple {s : State} {a b x y : Nat} (ha : s.region a = .scratch 0 x ∧ x < s.scratchSize 0) (hb : s.region b = .scratch 0 y ∧ y < s.scratchSize 0)
    (h : a % 65536 + 8 ≤ 65536 ∧ b % 65536 + 8 ≤ 65536) (m : Stores) :
    ({ s with st := m } : State).tupleLocs (engReq 5 0) a b 8 = .ok ([(⟨.scratch, x⟩, 8)], [(⟨.scratch, y⟩, 8)]) := by
  have h1 : pagePieces a 8 = [(a, 8)] := by unfold pagePieces; exact if_pos (by omega)
  have h2 : pagePieces b 8 = [(b, 8)] := by unfold pagePieces; exact if_pos (by omega)
  simp only [State.tupleLocs, h1, h2, State.spanLocs, engine_scratch ha.1 ha.2 m, engine_scratch hb.1 hb.2 m]

/-- Two tuples of 8 bytes in core 0's scratch, and a flag. -/
def copyPair : List Word :=
  [0x31, 0xFFFFC0000000, 0xFFFFC0000100, 0xFFFFC0000200, 2] ++ List.replicate 4 0 ++ [8] ++ List.replicate 9 0 ++ [8]

/-- An engine that has started them. -/
def copying : State :=
  let u := (broadcast 5)
  arg (u.setDie 0 { u.die 0 with engines := [(1, [⟨copyPair, .ctx ⟨false, 0, false, 0⟩, ⟨false, 0, false, 0⟩, 5, 0, 2 ^ 63, true⟩])] }) (.engine 0 1)

theorem wit_CopyEngine_tuples :
    let s := copying
    let c := copyForm copyPair
    let src (i : Nat) : List (Loc × Nat) := [(⟨.scratch, 8 * i⟩, 8)]
    let dst (i : Nat) : List (Loc × Nat) := [(⟨.scratch, 0x100 + 8 * i⟩, 8)]
    let f : Loc := ⟨.scratch, 0x200⟩
    let cells (l : List (Loc × Nat)) : List Loc := l.flatMap (fun p => (List.range p.2).map p.1.add)
    (s.memWf ∧ s.opd = .engine 0 1 ∧ ((s.die 0).copyQueue 1).any (fun k => k.started && k.handle != 0 && k.words == copyPair) = true ∧ s.waiters = [] ∧
      c.tuples = 2 ∧ c.unit = 8 ∧ c.flag ≠ 0 ∧ gives (s.takeCommand (engReq 5 0) c) (· == s) = true ∧
      (∀ i, i < 2 → s.flaggedIn (c.from_ i) c.unit = false) ∧ s.pathsOf (.ctx ⟨false, 0, false, 0⟩) = []) ∧
    ((∀ i ∈ [0, 1], (cells (dst i)).Nodup) ∧ (∀ i ∈ [0, 1], (cells (dst i)).all (fun y => decide (y.a < f.a)) = true) ∧
      (c.to_ 0 + c.unit ≤ c.to_ 1) ∧ (∀ p ∈ [(0, 1), (1, 0)], (cells (dst p.1)).all (fun y => !(cells (src p.2)).contains y && !(cells (dst p.2)).contains y) = true) ∧
      s.hostWait f = none ∧ s.strongHits none f 8 = []) ∧
    (∀ i, i < 2 → ∀ m : Stores, ({ s with st := m } : State).tupleLocs (engReq 5 0) (c.from_ i) (c.to_ i) c.unit = .ok (src i, dst i)) ∧
    ∀ m : Stores, ∃ u, ({ s with st := m } : State).locate (engReq 5 0) 0 (c.flag % 2 ^ 56) = .ok (u, f) := by
  refine ⟨by unfold State.memWf; decide +kernel, by decide +kernel, fun i hi m => ?_, fun m => ?_⟩
  · have h : ∀ i, i < 2 → (copyForm copyPair).from_ i = 0xFFFFC0000000 + 8 * i ∧ (copyForm copyPair).to_ i = 0xFFFFC0000100 + 8 * i ∧
        (copying.region (0xFFFFC0000000 + 8 * i) = .scratch 0 (8 * i) ∧ 8 * i < copying.scratchSize 0) ∧
        (copying.region (0xFFFFC0000100 + 8 * i) = .scratch 0 (0x100 + 8 * i) ∧ 0x100 + 8 * i < copying.scratchSize 0) := by decide +kernel
    obtain ⟨h1, h2, h3, h4⟩ := h i hi
    have hu : (copyForm copyPair).unit = 8 := by decide +kernel
    rw [h1, h2, hu]
    exact engine_tuple h3 h4 ⟨by omega, by omega⟩ m
  · have h : (copyForm copyPair).flag % 2 ^ 56 = 0xFFFFC0000200 ∧ copying.region 0xFFFFC0000200 = .scratch 0 0x200 ∧ 0x200 < copying.scratchSize 0 := by
      decide +kernel
    rw [h.1]
    exact ⟨_, engine_scratch h.2.1 h.2.2 m⟩

/-- A source, and a destination, for which the domain's table has no translation. -/
theorem wit_CopyEngine_xlate :
    let w : List Word := [0x31, 0x40000000, 0x2000, 0, 1]
    let k : CopyCmd := ⟨w, .ctx ⟨false, 0, false, 0⟩, ⟨false, 0, false, 0⟩, 5, 0, 2 ^ 63, true⟩
    let s := arg ((usr []).setDie 0 { (usr []).die 0 with engines := [(1, [k])] }) (.engine 0 1)
    let c := copyForm w
    s.opd = .engine 0 1 ∧ ((s.die 0).copyQueue 1).find? (·.started) = some k ∧ c.tuples = 1 ∧ c.flag = 0 ∧ k.handle ≠ 0 ∧ s.waiters = [] ∧
    gives (s.takeCommand (engReq 5 0) c) (fun u => fails (u.tupleLocs (engReq 5 0) (c.from_ 0) (c.to_ 0) c.unit) (fun _ => true)) = true := by decide +kernel

theorem wit_Collectives_places :
    ∀ a ∈ [4, 8, 9, 12, 13], ∀ m : Stores, ∃ u, ({ broadcast 5 with st := m } : State).locate (engReq 5 0) 0 (0xFFFFC0000000 + a) = .ok (u, ⟨.scratch, a⟩) := by
  have h : ∀ a ∈ [4, 8, 9, 12, 13], (broadcast 5).region (0xFFFFC0000000 + a) = .scratch 0 a ∧ a < (broadcast 5).scratchSize 0 := by decide +kernel
  exact fun a ha m => ⟨_, engine_scratch (h a ha).1 (h a ha).2 m⟩


theorem wit_Messages :
    let s (l : List (XReg × Word)) : State := usr ((1, 0x100) :: l)
    let h : Word := 0x2300
    let full (u : State) : State := u.setSide 0 false { u.side 0 false with replyCredits := 0 }
    let frozen (u : State) : State := u.withMe { u.me with sendFrozen := true }
    (∀ u ∈ [s [], frozen (s []), frozen (msg [])], u.recordHeld u.cur = false) ∧
    kindOf (s []).cur = .user ∧ kindOf (msg []).cur = .message ∧ headerBad ((s []).rx 1) 31 = false ∧ headerBad 0x200 31 = true ∧
    (frozen (s [])).me.sendFrozen = true ∧ (s []).me.sendFrozen = false ∧ (s []).hasPkg (headerOf ((s []).rx 1)).pkg = true ∧
    headerBad 0x1000000 1 = false ∧ (s []).hasPkg (headerOf 0x1000000).pkg = false ∧ (full (s [])).mySide.replyCredits = 0 ∧
    ¬(8 ≤ (s []).mySide.sendq.length ∨ (s []).mySide.replyCredits = 0) ∧ (full (msg [(1, h)])).mySide.replyCredits = 0 ∧
    headerBad ((full (msg [(1, h)])).rx 1) 1 = false ∧ (msg []).me.sendFrozen = false ∧ ((msg []).core 0).msgtrap = 0 ∧
    (((msg []).setCore 0 { (msg []).core 0 with msgtrap := 0x7000 }).core 0).msgtrap ≠ 0 := by decide +kernel

/-- A message to core 1, whose tag table at 0x1000 has a good entry for tag 0 and none for tag 1, which takes no domain's message. -/
theorem wit_Messages_accept :
    let m (net : Bool) (tag : BitVec 8) : Message := ⟨net, tag, 0, 7, if tag = 1 then 6 else 0, false, 0, 0, false, 0, 1, false, [1]⟩
    let s (x : Message) : State :=
      let u := poke (arg (fw []) (.message x)) 0x1008 4 0x01000005
      let v := u.setCore 1 { u.core 1 with tagbase := 0x1000 }
      v.setSide 0 false { v.side 0 false with sendq := [x], owed := [⟨7, none, 0, 0⟩] }
    let net (x : Message) : State := (s x).setSide 1 false { (s x).side 1 false with owed := [⟨7, none, 0, 0⟩] }
    let busy (x : Message) : State := (s x).setSide 1 false { (s x).side 1 false with arrivals := List.replicate 32 ⟨x, false, 0, 0, 0, 0⟩ }
    (s (m false 0)).opd = .message (m false 0) ∧ (m false 0).dstPkg = (s (m false 0)).pkg ∧ (s (m false 0)).inOrder (m false 0) = true ∧
    (s (m false 0)).requestsHeld 1 false < 32 ∧ ((s (m false 0)).tagEntry 1 0).takes (m false 0) = true ∧
    ((s (m false 1)).tagEntry 1 1).takes (m false 1) = false ∧ (s (m false 1)).inOrder (m false 1) = true ∧
    32 ≤ (busy (m false 0)).requestsHeld 1 false ∧ (busy (m false 0)).inOrder (m false 0) = true ∧
    ((s (m false 0)).setSide 0 false Side.reset).inOrder (m false 0) = false ∧ ((s (m true 0)).tagEntry 1 0).takes (m true 0) = true ∧
    ((net (m true 1)).tagEntry 1 1).takes (m true 1) = false ∧
    ((net (m true 1)).side 1 false).owed.find? (fun q => q.seq == (m true 1).seq) = some ⟨7, none, 0, 0⟩ := by decide +kernel

theorem wit_Handlers :
    let m (net : Bool) : Message := ⟨net, 0, 3, 7, 5, false, 0, 1, false, 0, 0, false, [1, 2]⟩
    let ar : Arrival := ⟨m false, false, 0, 0x6000, 5, 0⟩
    let s := (arg (fw []) (.side 0 false)).setSide 0 false { (fw []).side 0 false with arrivals := [ar] }
    let r (net p : Bool) : State := (msg [(1, 0x800)]).withMe { (msg [(1, 0x800)]).me with handler := some ⟨m net, p⟩ }
    (r false true).recordHeld (r false true).cur = false ∧ (r false false).recordHeld (r false false).cur = false ∧
    s.opd = .side 0 false ∧ (s.ctx ⟨false, 0, false, 8⟩).st = .idle ∧ (s.side 0 false).nextArrival = some ar ∧
    kindOf (r false false).cur = .message ∧
    (∀ q ∈ [r false false, r false true, r true false], (q.rx 1).toNat % 2 ^ 8 = 0 ∧ (q.rx 1).toNat / 2 ^ 12 = 0 ∧
      (q.rx 1).toNat / 2 ^ 8 % 16 ≤ 8 ∧ (24 : XReg).toNat + (q.rx 1).toNat / 2 ^ 8 % 16 ≤ 32 ∧ (∀ w ∈ q.waiters, w.1 ≠ q.cur)) ∧
    (r false false).me.handler = some ⟨m false, false⟩ ∧ (r false true).me.handler = some ⟨m false, true⟩ ∧
    (r true false).me.handler = some ⟨m true, false⟩ ∧ (m false).net = false ∧ (m true).net = true := by decide +kernel

/-- A handler that has replied ends while a request waits for its side's room, a reply's handler ends, and a handler's load waits for
its line. -/
theorem wit_Handlers_end :
    let m (net : Bool) : Message := ⟨net, 0, 3, 7, 5, false, 0, 1, false, 0, 0, false, [1, 2]⟩
    let w : Message := ⟨false, 0, 3, 9, 5, false, 0, 1, false, 0, 0, false, [4]⟩
    let r (net : Bool) (u : State) : State := u.withMe { u.me with handler := some ⟨m net, true⟩ }
    let base := poke (msg [(1, 0x1000)]) 0x1008 4 0x01000005
    let v := base.setCore 0 { base.core 0 with tagbase := 0x1000 }
    let full := r false (v.setSide 0 false { v.side 0 false with waiting := [w] })
    let net := r true (v.setSide 0 false { v.side 0 false with owed := [⟨7, none, 0, 0⟩] })
    (∀ u ∈ [full, net], kindOf u.cur = .message ∧ u.waiters = []) ∧ full.me.handler = some ⟨m false, true⟩ ∧ net.me.handler = some ⟨m true, true⟩ ∧
    full.mySide.waiting = [w] ∧ w.dstCore = full.cur.unit ∧ w.dstSide = full.cur.side ∧
    (full.mySide.arrivals.filter (fun q => !q.msg.net)).length < 32 ∧ (full.tagEntry full.cur.unit w.tag).takes w = true ∧
    kindOf (away (msg [(1, 0x1000)])).cur = .message ∧ (away (msg [(1, 0x1000)])).held = false ∧
    (match exec (.ld 3 1 0) (away (msg [(1, 0x1000)])) with
      | .next t => t.held
      | _ => false) = true := by decide +kernel

/-- A nest firing of packet 0 of queue 3. -/
def nestFiring : Firing :=
  { graph := false, fid := 9, launchId := 0, pkt := ⟨0, 3, 0⟩, gang := false, outq := [], allow := [], outAt := 0, killed := false }

theorem wit_Migration :
    let r : MigRec := ⟨0x6000, List.replicate 8 1, 9, ⟨0, 3, 0⟩⟩
    let s (a : Word) : State := let u := usr [(1, a)]; u.withMe { u.me with firing := some nestFiring }
    let held (a : Word) : State := (s a).withMe { (s a).me with vec := { (s a).me.vec with vregs := 1 } }
    let owes (u : State) : State := u.setSide 0 false { u.side 0 false with owed := [⟨3, some (u.ownerOf u.cur), 5, 0⟩] }
    let far (p : List (BitVec 8)) : State := { s 0x2000000001000 with peers := p, domains := [(5, { dom5 with wins := [(0, ⟨0x2000000000000, 8, 31, 0⟩)] })] }
    let full (u : State) : State := u.setCore 1 { u.core 1 with spawnlim := 1, migCount := 1 }
    let arr (u : State) : State := arg u (.migration 1 r)
    let bind := arg ((s 0).setCore 1 { (s 0).core 1 with migHw := [(r, 0)], migCount := 1 }) (.unit 1)
    kindOf (s 0x1000).cur = .user ∧ (s 0x1000).me.firing = some nestFiring ∧ ((s 0x1000).rights (s 0x1000).req (0x1000 / 2 ^ 21)).getLsbD 0 = true ∧
    (held 0x1000).me.mayMigrate = false ∧ ((s 0x80000000).rights (s 0x80000000).req (0x80000000 / 2 ^ 21)).getLsbD 0 = false ∧
    (s 0x1000).me.mayMigrate = true ∧ (s 0x1000).recordHeld (s 0x1000).cur = false ∧ 0x1000 / 2 ^ 48 = (s 0x1000).pkg.toNat ∧
    (s 0x1000).owedTo (s 0x1000).cur = 0 ∧ (s 0x1000).copiesOf ((s 0x1000).ownerOf (s 0x1000).cur) = 0 ∧
    (s 0x1000).collsJoined ((s 0x1000).ownerOf (s 0x1000).cur) = 0 ∧ (owes (s 0x1000)).owedTo (owes (s 0x1000)).cur ≠ 0 ∧
    (owes (s 0x1000)).me.mayMigrate = true ∧ ((owes (s 0x1000)).rights (owes (s 0x1000)).req (0x1000 / 2 ^ 21)).getLsbD 0 = true ∧
    ((far []).rights (far []).req (0x2000000001000 / 2 ^ 21)).getLsbD 0 = true ∧ (far []).me.mayMigrate = true ∧ 0x2000000001000 / 2 ^ 48 ≠ (far []).pkg.toNat ∧
    (far []).hasPkg (BitVec.ofNat 8 (0x2000000001000 / 2 ^ 48)) = false ∧ (far [2]).hasPkg (BitVec.ofNat 8 (0x2000000001000 / 2 ^ 48)) = true ∧
    (far []).owedTo (far []).cur = 0 ∧ (far []).copiesOf ((far []).ownerOf (far []).cur) = 0 ∧ (far []).collsJoined ((far []).ownerOf (far []).cur) = 0 ∧
    0x1000 % 2 ^ 48 / 4096 % 768 = 1 ∧ ((full (s 0x1000)).core 1).spawnlim.toNat < ((full (s 0x1000)).core 1).migCount + 1 ∧
    ((s 0x1000).core 1).migCount + 1 ≤ ((s 0x1000).core 1).spawnlim.toNat ∧ ((s 0x1000).core 1).migHw.length < ((s 0x1000).core 1).migq.toNat ∧
    (arr (s 0)).opd = .migration 1 r ∧ ((arr (full (s 0))).core 1).spawnlim.toNat < ((arr (full (s 0))).core 1).migCount + 1 ∧
    let asleep := bind.setDie 0 { bind.die 0 with power := 4 }
    (asleep.die (1 / 96)).power = 4 ∧ (asleep.migCtx 1 r).isSome = true ∧ bind.opd = .unit 1 ∧ (bind.core 1).migHw = [(r, 0)] ∧ (bind.die (1 / 96)).power ≠ 4 ∧ (bind.migCtx 1 r).isSome = true := by decide +kernel

/-- A host page's package does not take a firing; and an arrival for which the core's queue has no room goes to its overflow area. -/
theorem wit_Migration_area :
    let r : MigRec := ⟨0x6000, List.replicate 8 1, 9, ⟨0, 3, 0⟩⟩
    let u := fw []
    let s := (arg u (.migration 1 r)).setCore 1 { u.core 1 with spawnlim := 4, migq := 1, migCount := 2, migovf := 0x9000, migHw := [(r, 0)], migOv := [(0, 0)] }
    let t := s.setCore 1 { s.core 1 with migOv := [] }
    let q := usr [(1, 0x1000)]
    q.namesHost q.pkg = false ∧
    (∀ v ∈ [s, t], v.memWf ∧ v.opd = .migration 1 r ∧ (v.core 1).migCount + 1 ≤ (v.core 1).spawnlim.toNat ∧ (v.core 1).migq.toNat ≤ (v.core 1).migHw.length) ∧
    r.x18.length = 8 ∧ r.pkt.q < 65536 ∧ s.fwLoc ((s.core 1).migovf.toNat + 128 * 1) = some ⟨.dram, 0x9080⟩ ∧ s.hostWait ⟨.dram, 0x9080⟩ = none ∧
    t.fwLoc ((t.core 1).migovf.toNat + 128 * 0) = some ⟨.dram, 0x9000⟩ ∧ t.hostWait ⟨.dram, 0x9000⟩ = none := by
  unfold State.memWf; decide +kernel

/-- A request that core 1 refuses, sent by a firing of core 0, which still runs. -/
theorem wit_Messages_refused :
    let m : Message := ⟨false, 1, 0, 7, 6, false, 0, 0, false, 0, 1, false, [1]⟩
    let c : CtxId := ⟨false, 0, false, 7⟩
    let u := arg (fw []) (.message m)
    let v : State := { u with others := [(c, { Ctx.reset with st := .run, pdid := 5, firing := some nestFiring })] }
    let s := v.setSide 0 false { v.side 0 false with sendq := [m], owed := [⟨7, some (.firing 0 nestFiring.fid), 5, 0x4000⟩] }
    s.opd = .message m ∧ m.dstPkg = s.pkg ∧ s.inOrder m = true ∧ s.requestsHeld 1 false < 32 ∧ (s.tagEntry 1 1).takes m = false ∧
    m.srcPkg = s.pkg ∧ (s.side 0 false).owed.find? (fun o => o.seq == m.seq) = some ⟨7, some (.firing 0 nestFiring.fid), 5, 0x4000⟩ ∧
    s.holderOf (.firing 0 nestFiring.fid) = some c ∧ s.streamHeld c 3 = false := by decide +kernel

/-- Packet 0 of queue 3, with its work. -/
def somePacket (w : Work) (dealt : Bool) : Packet :=
  { ref := ⟨0, 3, 0⟩, pdid := 5, args := 0, sigop := 0, irq := false, sigaddr := 0, sigval := 0, launchId := 0, stataddr := 0,
    work := w, dealt := dealt, firings := 0, retired := 0, killed := 0, killPkt := false }

/-- Queue 3 of domain 5, whose ring of 16 packets lies at 0x3000; its first packet is a mark. -/
def withQueue (o : Operand) (type : Nat) (f : Queue → Queue) : State :=
  let s := poke (arg (paged (fw [])) o) 0x3000 1 type
  s.setQueue 3 (f { Queue.reset with state := .active, pdid := 5, ring := 0x3000, tail := 1, prio := 2, eff := 2 })

theorem wit_QueueEngine :
    let s (tl tail : BitVec 32) (st : QState) (who : Option (BitVec 12)) : State := withQueue (.tail 3 tl who) 3 (fun q => { q with tail := tail, state := st })
    let bar (off : Nat) (v : Option Word) : State := withQueue (.bar off v) 3 id
    let u (type : Nat) : State := withQueue (.unit 3) type id
    let held := { u 3 with packets := [somePacket .mark true] }
    let old := { u 3 with sd0 := { (u 3).sd0 with cyc := 0x4000 } }
    -- a graph of one actor and one task queue, beside a live graph whose task queues take all the storage of die 0
    let graph := poke (poke (poke (poke (poke (u 3) 0x3000 16 (2 + 2 ^ 64 * 0x5000)) 0x5000 8 0x100010001) 0x5008 24 (0x5100 + 2 ^ 64 * 0x5200 + 2 ^ 128 * 0x5300))
      0x5020 4 1) 0x5100 24 (0x6000 + 2 ^ 64 + 2 ^ 144) |> fun t => poke t 0x5200 2 0x400
    let wide : TaskQueue := { sorted := false, cap := 2 ^ 20, esize := 8, home := 0, reserved := 0, entries := [] }
    let big : Graph := { place := 1, dieMask := 0, podMask := 0, used := 0, args := [], ready := [], actors := [], tqs := [wide] }
    let full := { graph with packets := [{ somePacket (.graph big) true with ref := ⟨0, 4, 0⟩ }] }
    (s 1 1 .active none).opd = .tail 3 1 none ∧ (s 16 1 .active (some 6)).opd = .tail 3 16 (some 6) ∧ ((s 1 1 .active none).queue 3).pdid = 5 ∧
    (bar (4096 * 3) (some 1)).opd = .bar (4096 * 3) (some 1) ∧ (bar 0x3010 none).opd = .bar 0x3010 none ∧ 0x3010 / 4096 = 3 ∧
    ((s 1 1 .disabled none).queue 3).state = .disabled ∧ (1 - (1 : BitVec 32)).toNat = 0 ∧ ((s 17 1 .error none).queue 3).state = .error ∧
    2 ^ 31 ≤ ((0x80000001 : BitVec 32) - 1).toNat ∧ 0 < ((16 : BitVec 32) - 1).toNat ∧ ((16 : BitVec 32) - 1).toNat < 2 ^ 31 ∧
    ((1 : BitVec 32) - 0).toNat + ((16 : BitVec 32) - 1).toNat ≤ 2 ^ ((s 16 1 .active none).queue 3).log2size ∧
    2 ^ ((s 17 1 .active none).queue 3).log2size < ((1 : BitVec 32) - 0).toNat + ((17 : BitVec 32) - 1).toNat ∧
    held.headForm 3 = some (packetForm (3 :: List.replicate 63 0)) ∧ (packetForm (3 :: List.replicate 63 0)).type = 3 ∧ held.inflight 3 = true ∧
    (withQueue (.unit 3) 3 (fun q => { q with tail := 0 })).hasNext 3 = false ∧ (u 0).hasNext 3 = true ∧ fails ((u 0).readPacket 3) (· == 2) = true ∧
    full.hasNext 3 = true ∧ gives (full.readPacket 3) (fun r => !full.mayTake 3 r.1 r.2) = true ∧ gives (graph.readPacket 3) (fun r => graph.mayTake 3 r.1 r.2) = true ∧
    (u 3).hasNext 3 = true ∧ gives ((u 3).readPacket 3) (fun r => (u 3).mayTake 3 r.1 r.2) = true ∧ old.queueReady 3 = true ∧ 0 < old.engine.ageStep.toNat ∧
    (old.queue 3).since + old.engine.ageStep.toNat ≤ old.sdcyc ∧ (u 3).sdcyc < ((u 3).queue 3).since + (u 3).engine.ageStep.toNat ∧
    (withQueue (.unit 3) 3 (fun q => { q with tail := 0 })).queueReady 3 = false := by
  decide +kernel

/-- A card of 5 iterations in chunks of at least 2; or, with a gang at level 2, of two sides of one die. -/
def someCard (gang : Bool) : Card :=
  { entry := 0x6000, ndim := 0, order := 0, vregs := 0, vclass := 0, count := 5, minchunk := 2, trips := [],
    levels := [(false, false), (false, false), (gang, gang), (false, false), (false, false), (gang, false), (false, false), (false, false)],
    extents := [0, 0, 0, 0, 0, 2, 0, 0], args := [] }

/-- Packet 0 of queue 3 with that card. -/
def nestPacket (gang : Bool) : Packet := somePacket (.nest (someCard gang) 0) false

/-- The packet open, with its queue stopped or not. -/
def withPacket (o : Operand) (gang : Bool) : State := { withQueue o 3 id with packets := [nestPacket gang] }

/-- A firing of a chunk that waits at die 0. -/
def someChunk : Chunk := { pkt := ⟨0, 3, 0⟩, first := 0, len := 2, ordinal := 0, rank := 0, gangSize := 0, since := 0 }

theorem wit_Dealing :
    let s (gang : Bool) : State := withPacket (.unit 3) gang
    let b := arg ((s false).setDie 0 { (s false).die 0 with chunks := [someChunk] }) (.unit 0)
    (∀ g ∈ [false, true], (s g).opd = .unit 3 ∧ (s g).mayStart ⟨(s g).pkg, 3, 0⟩ = true ∧ (s g).packetsOf 3 = [nestPacket g] ∧
      (nestPacket g).work = .nest (someCard g) 0 ∧ (nestPacket g).dealt = false) ∧
    (someCard false).gangLevel = none ∧ ((s false).chunkDie (nestPacket false) (someCard false)).isSome = true ∧
    (someCard true).gangLevel = some 2 ∧ (s true).gangDie (nestPacket true) (someCard true) 2 = some none ∧
    b.opd = .unit 0 ∧ (b.die 0).power ≠ 4 ∧ 0 ∉ b.cycle.walked ∧ (b.bestChunk (b.chunkCands 0)).isSome = true ∧
    0 ∈ ({ b with cycle := { b.cycle with walked := [0] } }).cycle.walked ∧ ((b.setDie 0 { b.die 0 with power := 4 }).die 0).power = 4 := by decide +kernel

/-- A graph of one actor, whose input comes from a sorted queue of one record of 8 bytes that die 0 keeps, of tile 1. -/
def someGraph (records : Nat) : Graph :=
  { place := 1, dieMask := 0, podMask := 0, used := 0, args := [],
    ready := [], actors := [{ entry := 0x6000, vregs := 0, vclass := 0, ins := [(0, 1)], outs := [(0, 1)] }],
    tqs := [{ sorted := true, cap := 16, esize := 8, home := 0, reserved := 0, entries := List.replicate records ⟨[1, 2, 3, 4, 5, 6, 7, 8], 0x1000, 0⟩ }] }

theorem wit_ActorsGangsPorts :
    let s (n : Nat) : State :=
      let u := { withQueue (.actor 3 0 0) 3 id with packets := [somePacket (.graph (someGraph n)) true] }
      u.setDie 0 { u.die 0 with dcyc := 1, affinity := [(1, ⟨⟨0, 3, 0⟩, 1, 2⟩)] }
    let a : Actor := ⟨0x6000, 0, 0, [(0, 1)], [(0, 1)]⟩
    let asleep := (s 1).setDie 0 { (s 1).die 0 with power := 4 }
    (asleep.actorCtx (somePacket (.graph (someGraph 1)) true) (someGraph 1) a 0 ((((someGraph 1).tq 0).next).map (fun e => tileOfKey e.key))).map dieOf = some 0 ∧
    asleep.actorReady (someGraph 1) false a = true ∧ (asleep.die 0).power = 4 ∧ asleep.mayStart ⟨asleep.pkg, 3, 0⟩ = true ∧ ((s 1).die 0).power = 0 ∧
    (s 1).opd = .actor 3 0 0 ∧ (s 1).packet ⟨(s 1).pkg, 3, 0⟩ = some (somePacket (.graph (someGraph 1)) true) ∧
    (someGraph 1).actors[0]? = some a ∧ (s 0).actorReady (someGraph 0) false a = false ∧ (s 1).actorReady (someGraph 1) false a = true ∧
    (somePacket (.graph (someGraph 1)) true).killPkt = false ∧ (s 1).mayStart ⟨(s 1).pkg, 3, 0⟩ = true ∧
    ((s 1).actorCtx (somePacket (.graph (someGraph 1)) true) (someGraph 1) a 0 ((((someGraph 1).tq 0).next).map (fun e => tileOfKey e.key))).map dieOf = some 0 := by
  decide +kernel

/-- The package's contexts that fit an actor whose home die has none are those of each die in turn. -/
theorem actorCtx_far (s : State) (p : Packet) (g : Graph) (a : Actor) (l : List CtxId) (h0 : s.actorFits p g a (ctxsIn 2 0) = [])
    (h1 : s.actorFits p g a (ctxsIn 2 1) = l) (h : ∀ d ∈ [2, 3, 4, 5, 6, 7], s.actorFits p g a (ctxsIn 2 d) = []) :
    s.actorCtx p g a 0 none = chooseCtx l := by
  have e : s.actorFits p g a ((List.range 8).flatMap (ctxsIn 2)) = l := by
    unfold State.actorFits at *
    rw [List.filter_flatMap]
    simp only [List.mem_cons, forall_eq_or_imp, List.not_mem_nil, false_implies, implies_true, and_true] at h
    obtain ⟨h2, h3, h4, h5, h6, h7⟩ := h
    simp [List.range_succ, h0, h1, h2, h3, h4, h5, h6, h7]
  unfold State.actorCtx
  rw [h0, e]
  rfl

/-- The graph of one input that is not sorted, or of one that is, its firings in the pods of `mask`. -/
def fires (sorted : Bool) (mask : BitVec 96) : Graph :=
  let q : TaskQueue := { sorted := false, cap := 16, esize := 8, home := 0, reserved := 0, entries := [⟨[1, 2, 3, 4, 5, 6, 7, 8], 3, 0⟩, ⟨[9, 9, 9, 9, 9, 9, 9, 9], 4, 0⟩] }
  let g : Graph := if sorted then someGraph 2 else { someGraph 0 with tqs := [q] }
  { g with place := 3, podMask := mask }

/-- That graph open, with the pods that have bound in the cycle. -/
def firing (sorted : Bool) (mask : BitVec 96) (pods : List Nat) : State :=
  let u := { withQueue (.actor 3 0 0) 3 id with packets := [somePacket (.graph (fires sorted mask)) true] }
  let v := u.setDie 0 { u.die 0 with dcyc := 1 }
  { v with cycle := { v.cycle with pods := pods } }

/-- Firings of an actor that takes from a queue that is sorted and from one that is not. -/
theorem wit_ActorsGangsPorts_fires :
    let a : Actor := ⟨0x6000, 0, 0, [(0, 1)], [(0, 1)]⟩
    (∀ b ∈ [false, true], ∀ r ∈ [(1, []), (0x1000, []), (1, [0])], let g := fires b r.1; let s := firing b r.1 r.2; let p := somePacket (.graph g) true
      s.packet ⟨s.pkg, 3, 0⟩ = some p ∧ s.mayStart ⟨s.pkg, 3, 0⟩ = true ∧ s.actorReady g false a = true ∧ (s.die 0).power ≠ 4 ∧
      p.killPkt = false ∧ g.actors[0]? = some a) ∧
    (∀ b ∈ [false, true], let g := fires b 1
      ((firing b 1 []).actorCtx (somePacket (.graph g) true) g a 0 (if b then some (tileOfKey 0x1000) else none)).map dieOf = some 0) ∧
    (a.ins.map (·.1)).Nodup ∧ (∀ i ∈ a.ins, i.1 < (fires false 1).tqs.length ∧ ((fires false 1).tq i.1).sorted = false) ∧
    ((fires true 1).tq 0).sorted = true ∧ (((firing false 1 []).setDie 0 { (firing false 1 []).die 0 with power := 4 }).die 0).power = 4 := by
  decide +kernel

/-- A firing of a graph of die 1's first pod, awake and asleep, and one whose pod has bound. -/
theorem wit_ActorsGangsPorts_dies :
    let a : Actor := ⟨0x6000, 0, 0, [(0, 1)], [(0, 1)]⟩
    let g (m : BitVec 96) : Graph := fires false m
    let p (m : BitVec 96) : Packet := somePacket (.graph (g m)) true
    let at1 := firing false 0x1000 []
    let asleep := at1.setDie 1 { at1.die 1 with power := 4 }
    (∀ s ∈ [at1, asleep], ((s.actorCtx (p 0x1000) (g 0x1000) a 0 none).map dieOf = some 1 ∧ (s.die 0).power ≠ 4)) ∧
    (firing false 1 [0]).actorCtx (p 1) (g 1) a 0 none = none ∧ (at1.die 1).power ≠ 4 ∧ (asleep.die 1).power = 4 := by
  intro a g p at1 asleep
  refine ⟨fun s hs => ⟨?_, ?_⟩, ?_, by decide +kernel, by decide +kernel⟩
  · simp only [List.mem_cons, List.not_mem_nil, or_false] at hs
    obtain rfl | rfl := hs
    · rw [actorCtx_far _ _ _ _ _ (by decide +kernel) rfl (by decide +kernel)]; decide +kernel
    · rw [actorCtx_far _ _ _ _ _ (by decide +kernel) rfl (by decide +kernel)]; decide +kernel
  · simp only [List.mem_cons, List.not_mem_nil, or_false] at hs
    obtain rfl | rfl := hs <;> decide +kernel
  · rw [actorCtx_far _ _ _ _ [] (by decide +kernel) (by decide +kernel) (by decide +kernel)]; rfl

/-- A card with a gang of two sides of a core, in one pod. -/
def coreGang : Card :=
  { someCard false with
    levels := [(false, false), (false, false), (false, false), (true, false), (true, true), (true, false), (false, false), (false, false)],
    extents := [0, 0, 0, 1, 0, 2, 0, 0] }

/-- That gang at the head of die 0's queue, from a cycle 0, with a firing of its packet in the first pod. -/
def withGang (ctxmax : Nat) (now : Word) : State :=
  let s := withQueue (.place (some 0)) 3 id
  let g : Gang := ⟨⟨0, 3, 0⟩, [someChunk, { someChunk with rank := 1 }]⟩
  { s.setDie 0 { s.die 0 with gangq := ⟨[g], 0, none⟩, dcyc := now } with
    packets := [somePacket (.nest coreGang 4) false], domains := [(5, { dom5 with ctxmax := ctxmax })],
    others := [(⟨false, 7, false, 0⟩, { Ctx.reset with st := .run, pdid := 5, firing := some nestFiring })] }

theorem wit_ActorsGangsPorts_gangs :
    let g : Gang := ⟨⟨0, 3, 0⟩, [someChunk, { someChunk with rank := 1 }]⟩
    let fits (s : State) : List GangFit := s.gangFits (some 0) g.pkt coreGang (coreGang.budget 5)
    (withGang 8 0).opd = .place (some 0) ∧ (withGang 8 0).headGang (some 0) = some (g, coreGang) ∧
    (withGang 8 0).packet g.pkt = some (somePacket (.nest coreGang 4) false) ∧ (withGang 8 0).mayStart g.pkt = true ∧
    (bestFit (fits (withGang 8 0))).any (fun f => (withGang 8 0).awake f.picks && f.picks.all (fun x => podOf x == 0)) = true ∧ (withGang 8 0).cycle.pods = [] ∧
    (bestFit (fits { withGang 8 0 with cycle := { (withGang 8 0).cycle with pods := [0] } })).any (fun f => f.picks.any (fun x => podOf x == 0)) = true ∧
    fits (withGang 1 0) = [] ∧ coreGang.gangLevel = some 4 ∧ 3 ∈ regionUnits (some 0) 4 ∧ (withGang 1 0x100000).gangAllowed g.pkt coreGang 4 3 = true ∧
    ((withGang 1 0x100000).shortfall (coreGang.budget 5) coreGang (some 0) 0 4 3).isSome = true ∧
    ((withGang 1 0x100000).gangq (some 0)).reserving = none ∧ (withGang 1 0x100000).aged (some 0) = true ∧ fits (withGang 1 0x100000) = [] ∧
    (withGang 1 0xFFFFF).aged (some 0) = false ∧ (withGang 1 0x100000).headGang (some 0) = some (g, coreGang) := by decide +kernel

theorem wit_ActorsGangsPorts_ports :
    let f (graph : Bool) (n : Nat) : Firing := { nestFiring with graph := graph, outq := [0], allow := [n] }
    let s (f : Option Firing) (k : Word) : State :=
      let u := usr [(1, k), (2, 0x1000), (3, 7)]
      { u.withMe { u.me with firing := f } with packets := [somePacket (.graph (someGraph 1)) true] }
    kindOf (s none 0).cur = .user ∧ (s none 0).me.firing = none ∧ (s (some (f false 1)) 0).me.firing = some (f false 1) ∧ (f false 1).graph = false ∧
    (f true 1).outq.length ≤ ((s (some (f true 1)) 1).rx 1).toNat ∧ ((s (some (f true 1)) 0).rx 1).toNat < (f true 1).outq.length ∧
    (f true 0).allow.getD 0 0 = 0 ∧ (f true 1).allow.getD 0 0 ≠ 0 ∧ (f true 1).graph = true ∧
    (s (some (f true 1)) 0).graphOf (f true 1) = some (somePacket (.graph (someGraph 1)) true, someGraph 1) ∧ 0 < (someGraph 1).tqs.length ∧
    (f true 1).allow.getD 0 0 ≠ 0 ∧ ({ s (some (f true 1)) 0 with packets := [] }).graphOf (f true 1) = none ∧
    gives ((s (some (f true 1)) 0).resync.readWords ((s (some (f true 1)) 0).rx 2) 0 (((someGraph 1).tq 0).esize / 8)) (fun _ => true) = true := by
  decide +kernel

theorem wit_FiringsStartAndEnd :
    let c : CtxId := ⟨false, 1, true, 7⟩
    let b (r : Option CtxState) : Start := ⟨0x6000, [0, 1, 2], [1, 2, 3], r⟩
    let s (x : Ctx) : State := { arg (paged (fw [])) (.ctx c) with others := [(c, x)] }
    let bind (r : Option CtxState) : Ctx := { Ctx.reset with st := .binding, start := some (b r) }
    let drain (k : Bool) : Ctx := { Ctx.reset with st := .drain, firing := some { nestFiring with killed := k } }
    let busy (x : Ctx) : State := (s x).setSide 1 true { (s x).side 1 true with vq := [⟨7, true, 0, 0⟩] }
    let fwb := (fw []).setSide 0 false { (fw []).side 0 false with sendq := [⟨false, 0, 0, 3, 0, false, 0, 0, false, 0, 1, false, []⟩], owed := [⟨3, some (.ctx (fw []).cur), 0, 0⟩] }
    let killed := { s (drain true) with kills := [.ctx c] }
    let sig := { withQueue (.packet 3 0) 3 id with packets := [{ somePacket .mark true with sigop := 2, sigval := 5 }] }
    let pk (n : Nat) : State := { withQueue (.packet 3 0) 3 id with packets := [{ somePacket .mark true with stataddr := 0x1000, firings := n, retired := 1 }] }
    (s (bind none)).opd = .ctx c ∧ (s (bind none)).st.wf = true ∧ ((s (bind none)).ctx c).st = .binding ∧ ((s (bind none)).ctx c).start = some (b none) ∧
    (b none).restored = none ∧ (b none).staging.length ≤ 4096 ∧ ((s (bind (some .wait))).ctx c).start = some (b (some .wait)) ∧ c.keep = false ∧
    ((s (drain false)).ctx c).st = .drain ∧ ((s (drain false)).ctx c).killed = false ∧ (s (drain false)).drained c = true ∧
    (s (drain false)).settled c = true ∧ (busy (drain false)).drained c = false ∧ ((s (drain true)).ctx c).killed = true ∧
    (killed.ctx c).st = .drain ∧ (killed.ctx c).killed = true ∧ killed.drained c = true ∧ killed.kills.head? = some (.ctx c) ∧ (s (drain true)).kills.head? ≠ some (.ctx c) ∧
    sig.opd = .packet 3 0 ∧ sig.st.wf = true ∧ (sig.packet ⟨sig.pkg, 3, 0⟩).any (fun p => sig.packetDone p && p.sigop == 2 && !p.irq && p.stataddr == 0 &&
      gives (sig.locate (engReq p.pdid 0) 0 p.sigaddr.toNat) (fun _ => true)) = true ∧ kindOf (usr []).cur = .user ∧ kindOf fwb.cur = .firmware ∧ fwb.fwBusy fwb.cur = true ∧
    (fw []).fwBusy (fw []).cur = false ∧ (pk 1).opd = .packet 3 0 ∧ (pk 1).st.wf = true ∧
    ((pk 1).packet ⟨(pk 1).pkg, 3, 0⟩).any (fun p => (pk 1).packetDone p && p.sigop == 0 && !p.irq && p.stataddr != 0 &&
      gives ((pk 1).locate (engReq p.pdid 0) 0 p.stataddr.toNat) (fun _ => true)) = true ∧
    ((pk 2).packet ⟨(pk 2).pkg, 3, 0⟩).any (fun p => !(pk 2).packetDone p) = true := by decide +kernel

/-- Kills that complete, that wait for a request of the matrix engine, and one with an engine's kill behind it. -/
theorem wit_FiringsStartAndEnd_kills :
    let c : CtxId := ⟨false, 1, true, 7⟩
    let d : CtxId := ⟨false, 2, true, 7⟩
    let s (killed : Bool) (l : List Kill) : State :=
      { arg (paged (fw [])) (.ctx c) with others := [(c, { Ctx.reset with st := .drain, firing := some { nestFiring with killed := killed } })], kills := l }
    let asks := (s true [.ctx c]).setPod 0 { Pod.reset with queue := [⟨c, 0, 0, [], false⟩] }
    (∀ l ∈ [[Kill.ctx c], [Kill.ctx c, .ctx d], [Kill.ctx c, .engine d]], (s true l).opd = .ctx c ∧ ((s true l).ctx c).killed = true ∧ (s true l).drained c = true ∧
      (s true l).reqsOf c = 0 ∧ (s true l).kills.head? = some (.ctx c)) ∧
    (∀ l ∈ [[Kill.ctx c], [Kill.ctx c, .ctx d]], ∀ k ∈ (s true l).kills.tail.head?, k.isUser = true) ∧ (s true [.ctx c, .engine d]).kills = [.ctx c, .engine d] ∧
    ((s false [.ctx c]).ctx c).killed = false ∧ asks.reqsOf c ≠ 0 ∧ asks.opd = .ctx c := by decide +kernel

/-- Packets that complete: with a status and a signal, whose status waits for a die of another package, and with a vector that raises, that is
masked, and that is masked with its bit set. -/
theorem wit_FiringsStartAndEnd_packets :
    let p : Packet := { somePacket .mark true with sigop := 2, sigaddr := 0x2000, sigval := 5, stataddr := 0x1000 }
    let s (irq : Bool) (ctl : Nat) : State := { poke (withQueue (.packet 3 0) 3 id) 0x800C 4 ctl with packets := [{ p with irq := irq }] }
    let ready (u : State) (q : Packet) : Bool := gives (u.packetReady q) (fun w =>
      let v : State := { w with packets := [] }
      let v1 := v.writeStatus q
      gives (v.locate (engReq q.pdid 0) 0 q.stataddr.toNat) (fun r => r.2 == ⟨.dram, 0x1000⟩) &&
        gives (v1.locate (engReq q.pdid 0) 0 q.sigaddr.toNat) (fun r => r.2 == ⟨.dram, 0x2000⟩) && (u.strongHits none ⟨.dram, 0x2000⟩ 8).isEmpty)
    let word (u : State) (q : Packet) : Option Nat := match u.packetReady q with
      | .ok w =>
        let v := (State.writeStatus { w with packets := [] } q).signal q
        if (v.fwLoc 0x8000).isSome then some (v.fwRead 0x800C 4) else none
      | .error _ => none
    (∀ x ∈ [(false, 0), (true, 0), (true, 1), (true, 3)], (s x.1 x.2).opd = .packet 3 0 ∧
      (s x.1 x.2).packet ⟨(s x.1 x.2).pkg, 3, 0⟩ = some { p with irq := x.1 } ∧ (s x.1 x.2).memWf ∧ (s x.1 x.2).packetDone { p with irq := x.1 } = true ∧
      ready (s x.1 x.2) { p with irq := x.1 } = true ∧ word (s x.1 x.2) { p with irq := x.1 } = some x.2) ∧
    ((s true 0).domain p.pdid.toNat).state ≠ 0 ∧ ((s true 0).domain p.pdid.toNat).ivtab.toNat + 16 * ((s true 0).queue 3).irqvec.toNat = 0x8000 ∧
    (away (s false 0)).packetDone p = true ∧ fails ((away (s false 0)).packetReady p) (fun _ => true) = true := by
  unfold State.memWf; decide +kernel


/-- An operation of a kind, armed by Keep context 0 for domain 5. -/
def mxop (kind : Nat) : MxOp := ⟨kind, 0, 3, 0, 5, none⟩

/-- A Keep context whose pod has other contents. -/
def pod0 (s : State) (f : Pod → Pod) : State := s.setPod 0 (f (s.pod 0))

theorem wit_MatrixRegisters :
    let good : Word := BitVec.ofNat 64 (1 + 2 * 1 + 64 * 5 + 4096 * 128 + 2 ^ 20 * 32)
    let img (s : State) (v : Word) : Word := BitVec.ofNat 64 (v.toNat &&& mxMask 0x80) ||| ((s.pod 0).domain.setWidth 64 <<< 48)
    let s (l : List (XReg × Word)) : State := arg (keep l) (.wset 63 1)
    let armed := pod0 (s []) (fun p => { p with armed := some (mxop 0) })
    let frozen := pod0 (s [(2, 2)]) (fun p => { p with mxFrozen := true })
    let ended := pod0 (s [(2, 3)]) (fun p => { p with ended := [(3, 9)] })
    let under := pod0 (s [(2, 3)]) (fun p => { p with running := some (mxop 0) })
    rnsValid (rnsOfInt (-((rnsM / 2 : Nat) : Int))) = true ∧ (-((rnsM / 2 : Nat) : Int)) < ((rnsM / 2 : Nat) : Int) ∧
    kindOf (s []).cur = .keep ∧ podOf (s []).cur = 0 ∧ mxNamed 0x10 = false ∧ mxReadOnly 0x50 = true ∧ mxNamed 0x51 = false ∧
    mxNamed 0xC0 = false ∧ mxNamed 0xBF = true ∧ mxNamed 0x0F = true ∧ (armed.pod 0).armed.isSome = true ∧ ((s []).pod 0).armed = none ∧
    (s []).opd = .wset 63 1 ∧ ((s [(1, 1)]).rx 1).getLsbD 0 = true ∧ (wsetOf (img (s []) 1)).ok = false ∧
    ((s [(1, 2)]).rx 1).getLsbD 0 = false ∧ (wsetOf (img (s []) good)).ok = true ∧ (((s []).pod 0).wsetAt 63).v = false ∧
    2 < ((s [(2, 3)]).rx 2).toNat ∧ ((s [(2, 2)]).rx 2).toNat ≤ 2 ∧
    (((s []).pod 0).running = none ∧ ((s []).pod 0).mxFrozen = false ∧ (s []).mxHeld 0 = false) ∧ (frozen.pod 0).mxFrozen = true ∧
    (frozen.pod 0).armed = none ∧ 2 ^ 32 ≤ ((s [(2, 0x100000000)]).rx 2).toNat ∧
    ((s [(2, 0xFFFFFFFF)]).pod 0).ended.find? (fun e => e.1 == 0xFFFFFFFF) = none ∧
    (ended.pod 0).ended.find? (fun e => e.1 == 3) = some (3, 9) ∧ (under.pod 0).ended.find? (fun e => e.1 == 3) = none ∧
    (under.pod 0).running.map (·.ticket) = some 3 := by decide +kernel

/-- A weight set rewritten under two requests, one of it. -/
theorem wit_MatrixRegisters_rewrite :
    let good : Word := BitVec.ofNat 64 (1 + 2 * 1 + 64 * 5 + 4096 * 128 + 2 ^ 20 * 32)
    let c : CtxId := ⟨false, 0, false, 0⟩
    let r (set : Nat) : MxReq := ⟨c, 0, set, [1], true⟩
    let u : State := { keep [] with others := [(c, { Ctx.reset with st := .run, pdid := 5, replySlots := [(0, .pending)] })] }
    let s := arg (pod0 u (fun p => { p with wset := [(63, good)], queue := [r 1, r 63] })) (.wset 63 1)
    kindOf s.cur = .keep ∧ s.opd = .wset 63 1 ∧ (s.rx 1).getLsbD 0 = false ∧ ((s.pod 0).wsetAt 63).v = true ∧ s.waiters = [] ∧
    (s.pod 0).queue = [r 1, r 63] ∧ s.reqLive (r 63) = true ∧ (s.ctx (r 63).who).wait = none := by decide +kernel

/-- Pod 0 runs an operation with registers `r` in its active set. -/
def mxrun (op : MxOp) (r : SMap Word) : State :=
  pod0 (arg (paged (fw [])) (.unit 0)) (fun p => { p with running := some op, active := r })

theorem wit_MatrixOperations :
    let fill (src : Word) : SMap Word := [(8, src), (9, 0x40), (10, 0x200000020), (11, 0x40), (12, 0x20)]
    let mma (acc : Word) : SMap Word := [(0, 0), (1, 0x1000), (2, 0x101 + acc * 2 ^ 19), (3, 0x04020020), (4, 32), (5, 32)]
    let unf : SMap Word := [(0, 0), (1, 0x1000), (2, 0x101), (3, 0x01010020), (4, 32), (5, 32), (13, 0x0001002000010001), (14, 0x11110101)]
    let mx : SMap Word := [(0, 0), (1, 0x1000), (2, 0x1111), (3, 0x04020020), (4, 64), (5, 64)]
    let F := mxrun (mxop 0) (fill 0x3000)
    let g := mxArgs (fill 0x3000)
    F.opd = .unit 0 ∧ (F.pod 0).running = some (mxop 0) ∧ (mxop 0).done = none ∧ (mxop 0).kind = 0 ∧ mxBad (mxop 0) (mxArgs []) = true ∧
    mxBad (mxop 1) (mxArgs []) = true ∧ mxBad (mxop 2) (mxArgs []) = true ∧ mxBad (mxop 1) (mxArgs (mma 1)) = false ∧
    ((mxrun (mxop 1) (mma 1)).pod 0).mxModeBad (mxop 1) (mxArgs (mma 1)) = true ∧ mxBad (mxop 0) (mxArgs (fill 0x80000000)) = false ∧
    ((mxrun (mxop 0) (fill 0x80000000)).mxDenied (mxop 0) (mxArgs (fill 0x80000000))).isSome = true ∧
    ((mxrun (mxop 1) (mma 0)).pod 0).mxModeBad (mxop 1) (mxArgs (mma 0)) = false ∧ mxBad (mxop 1) (mxArgs (mma 0)) = false ∧
    (mxrun (mxop 1) (mma 0)).mxDenied (mxop 1) (mxArgs (mma 0)) = none ∧ (mxArgs (mma 0)).acc = false ∧ (mxArgs (mma 0)).sparse = false ∧
    (mxArgs (mma 0)).acode = 1 ∧ mxBad (mxop 2) (mxArgs unf) = false ∧ ((mxrun (mxop 2) unf).pod 0).mxModeBad (mxop 2) (mxArgs unf) = false ∧
    (mxrun (mxop 2) unf).mxDenied (mxop 2) (mxArgs unf) = none ∧
    mxBad (mxop 0) g = false ∧ F.mxDenied (mxop 0) g = none ∧ F.st.wf = true ∧ F.dir = [] ∧ g.bytes ≤ g.dstr ∧ g.rows = 2 ∧ g.bytes = 32 ∧
    (F.ctx ⟨true, 0, false, 0⟩).paths = [] ∧ fails ((away F).takeFill 0 (mxop 0) g) (fun _ => true) = true ∧
    gives (F.takeFill 0 (mxop 0) g) (fun t => (List.range 2).all (fun i => (List.range 2).all (fun k =>
      gives (t.spanLocs (engReq 5 0) (pagePieces (g.fillFrom i + 16 * k) 16)) (· == [(⟨.dram, 0x3000 + 64 * i + 16 * k⟩, 16)])))) = true ∧
    fails ((away F).takeFlag 0 { mxop 0 with flag := 0x1000 } true) (fun _ => true) = true ∧ gives (F.takeFlag 0 (mxop 0) true) (fun _ => true) = true ∧
    mxBad (mxop 1) (mxArgs mx) = false ∧ ((mxrun (mxop 1) mx).pod 0).mxModeBad (mxop 1) (mxArgs mx) = false ∧ (mxrun (mxop 1) mx).mxDenied (mxop 1) (mxArgs mx) = none ∧
    (mxArgs mx).acode = 17 ∧ (mxArgs mx).acc = false ∧ (mxArgs mx).k = 32 ∧ (mxrun (mxop 1) mx).st.podScratch = [] ∧
    ((mxrun { mxop 0 with done := some (7, true) } []).pod 0).running = some { mxop 0 with done := some (7, true) } ∧
    ((mxrun (mxop 0) []).pod 0).armed = none := by decide +kernel

/-- A tile of mode 2, of 2 by 3 elements. -/
def someTile : Tile := { Tile.reset with mode := 2, m := 2, n := 3, count := 5, el := [(0, 7), (65, 9)] }

theorem wit_Tiles :
    let s (l : List (XReg × Word)) : State := let t := paged (keep l); t
    let T (u : State) : State := pod0 u (fun p => { p with tiles := [(7, someTile)] })
    let busy := pod0 (s [(1, 2), (2, 0x4040)]) (fun p => { p with running := some (mxop 1), active := [(2, 7 * 2 ^ 16)] })
    let c := cvtForm 0x40 (5 + 16 * 2 ^ 32)
    someTile.mode ≤ 2 ∧ someTile.m ≤ 64 ∧ someTile.n ≤ 64 ∧ someTile.count < 2 ^ 64 ∧ kindOf (s []).cur = .keep ∧ podOf (s []).cur = 0 ∧
    ((s [(1, 2), (2, 0x4040)]).rx 2).toNat = 64 + 256 * 64 ∧ ((s [(1, 2), (2, 0x4140)]).rx 2).toNat / 256 % 128 = 65 ∧
    ((s []).pod 0).mxBusy (some 7) [] = false ∧ (busy.pod 0).mxBusy (some 7) [] = true ∧ cvtBad 0x20 5 = true ∧ cvtBad 0x40 (5 + 16 * 2 ^ 32) = false ∧
    c.mx = false ∧ ((T (s [])).pod 0).mxBusy (some 7) [] = false ∧ ((T (s [])).pod 0).tile 7 = someTile ∧ pastScratch (c.ranges someTile) = false ∧
    ((T (s [])).pod 0).mxBusy none (c.ranges someTile) = false ∧ 3 * 4 ≤ c.stride ∧ (T (s [])).st.wf = true ∧ 7 < ((s [(2, 8)]).rx 2).toNat ∧
    ((s [(2, 7)]).rx 2).toNat ≤ 7 := by decide +kernel

/-- Tiles of 3, of 32 and of 64 columns and an empty one, in two formats: where a conversion traps, and where it is ready. -/
theorem wit_Tiles_cvt :
    let T (m n : Nat) (l : List (XReg × Word)) : State := pod0 (paged (keep l)) (fun p => { p with tiles := [(7, { someTile with mode := m, m := 2, n := n })] })
    let b (code stride : Nat) : Word := BitVec.ofNat 64 (code + stride * 2 ^ 32)
    let s (m n off code stride : Nat) : State := T m n [(1, BitVec.ofNat 64 off), (2, b code stride)]
    let end_ (off n code stride i : Nat) : Nat :=
      let c := cvtForm off (b code stride).toNat
      c.off + i * c.stride + (match fatMx c.code with
        | some f => 32 + n * f.width / 8
        | none => n * (fatSize c.code).getD 1)
    let ready (s : State) (n off code stride : Nat) : Bool :=
      let p := s.pod 0
      let c := cvtForm off (b code stride).toNat
      !cvtBad (s.rx 1).toNat (s.rx 2).toNat && !p.mxBusy (some 7) [] && (p.tile 7).mode != 0 && !p.mxBusy none (c.ranges (p.tile 7)) &&
        decide (end_ off n code stride 0 - off ≤ c.stride) && (List.range 2).all (fun i => decide (end_ off n code stride i ≤ 2 ^ 22))
    (∀ x ∈ [(1, 3, 5), (2, 3, 5), (2, 3, 9), (2, 32, 12), (1, 64, 14), (2, 64, 16)],
      ready (s x.1 x.2.1 64 x.2.2 128) x.2.1 64 x.2.2 128 = true ∧ (s x.1 x.2.1 64 x.2.2 128).memWf ∧ kindOf (s x.1 x.2.1 64 x.2.2 128).cur = .keep) ∧
    (cvtForm 64 (b 12 128).toNat).code = 12 ∧ (fatMx 12).isSome = true ∧ (fatMx 14).isSome = true ∧ (fatMx 16).isSome = true ∧
    (∀ x ∈ [(0, 3, 64, 5), (2, 3, 64, 12), (2, 3, 0x3FFF80, 5)], cvtBad x.2.2.1 (b x.2.2.2 128).toNat = false ∧
      ((s x.1 x.2.1 x.2.2.1 x.2.2.2 128).pod 0).mxBusy (some 7) [] = false) ∧
    ((s 0 3 64 5 128).pod 0).tile 7 = { someTile with mode := 0 } ∧ 2 ^ 22 < end_ 0x3FFF80 3 5 128 1 := by
  unfold State.memWf; decide +kernel

theorem wit_Tiles_load :
    let s := paged (keep [(1, 0x200000)])
    gives (s.confirmTile 17 (s.rx 1)) (fun t => gives (t.readLines 0x200000 258) (fun r => imageOk r.2)) = true := by decide +kernel

theorem wit_Tiles_loadBad :
    let s := poke (paged (keep [(1, 0x200000)])) 0x200003 1 1
    s.recordHeld s.cur = false ∧ gives (s.confirmTile 17 (s.rx 1)) (fun t => gives (t.readLines 0x200000 258) (fun r => !imageOk r.2)) = true := by decide +kernel

/-- Keep firmware of pod 0 with an address in `x1`. -/
def keepFw (l : List (XReg × Word)) : State := runs ⟨true, 0, false, 3⟩ l

/-- What the stores of firmware to scratch leave as it was. -/
def SameSetup (s : State) : Prop :=
  s.cur = ⟨true, 0, false, 3⟩ ∧ s.me.pdid = 0 ∧ s.domains = [] ∧ s.sd0 = State.reset.sd0 ∧ s.pkg = State.reset.pkg ∧ s.cores = []

theorem store_line {s : State} {va k off : Nat} (h : SameSetup s) (hr : State.reset.region va = .scratch k off)
    (ho : off < State.reset.scratchSize k) (bs : List Byte) :
    s.locate s.req 0 va = .ok (s, ⟨.scratch, k * 2 ^ 19 + off⟩) ∧
      ∃ t, s.storeOn pMatrix ⟨.scratch, k * 2 ^ 19 + off⟩ va bs = .ok t ∧ SameSetup t := by
  obtain ⟨h1, h2, h3, h4, h5, h6⟩ := h
  have e1 : s.region va = .scratch k off := by
    rw [← hr]; unfold State.region State.namesHost; rw [h4, h5]
  have e2 : s.scratchSize k = State.reset.scratchSize k := by
    unfold State.scratchSize State.core; rw [h6]; rfl
  have e3 : s.req.core = none := by simp [State.req, State.reqAs, h1]
  have e4 : s.attr va = 0 := by simp [State.attr, attrIn, h3]
  have e5 : s.claim true va ⟨.scratch, k * 2 ^ 19 + off⟩ = .ok s := by
    simp [State.claim, State.claimFor, State.cacheOf, State.hostWait]
  have e8 : SameSetup (s.putOn pMatrix ⟨.scratch, k * 2 ^ 19 + off⟩ va bs) := by
    unfold State.putOn State.notePath State.setCtx
    have : pathed s.cur = true := by rw [h1]; rfl
    have e : (s.writeAt (s.writeDie va) va ⟨.scratch, k * 2 ^ 19 + off⟩ bs).cur = s.cur := rfl
    simp only [this, e, if_true]
    exact ⟨h1, (by show (State.ctx _ s.cur).pdid = 0; simp only [State.ctx, e, if_true]; exact h2), h3, h4, h5, h6⟩
  refine ⟨?_, s.putOn pMatrix ⟨.scratch, k * 2 ^ 19 + off⟩ va bs, ?_, ?_⟩
  · unfold State.locate
    rw [e1]
    simp only [State.fillPlb, e3]
    simp [e2, ho]
  · unfold State.storeOn
    rw [e5]
    simp only [e4]
    have e7 : ∀ t : State, SameSetup t → t.viaOwner pMatrix va 0 = t := by
      intro t ht
      have : t.attr va = 0 := by simp [State.attr, attrIn, ht.2.2.1]
      simp [State.viaOwner, State.ownerAway, this]
    rw [e7 _ e8]
    rfl
  · exact e8

theorem store_lines (n : Nat) : ∀ (s : State) (va : Nat) (bs : List Byte), SameSetup s →
    (∀ j < n, ∃ k off, State.reset.region (va + 128 * j) = .scratch k off ∧ off < State.reset.scratchSize k) →
    ∃ t, s.storeLines va bs n = .ok t := by
  induction n with
  | zero => intro s va bs _ _; exact ⟨s, rfl⟩
  | succ n ih =>
    intro s va bs h hr
    obtain ⟨k, off, h1, h2⟩ := hr 0 (by omega)
    rw [show va + 128 * 0 = va by omega] at h1
    obtain ⟨h3, t, h4, h5⟩ := store_line h h1 h2 (bs.take 128)
    obtain ⟨u, hu⟩ := ih t (va + 128) (bs.drop 128) h5 (fun j hj => by
      have := hr (j + 1) (by omega); rwa [show va + 128 * (j + 1) = va + 128 + 128 * j by omega] at this)
    exact ⟨u, by unfold State.storeLines; rw [h3]; simp only [orStop]; change (s.storeOn pMatrix _ va _ >>= _) = _; rw [h4]; exact hu⟩

theorem wit_Tiles_store :
    let s := keepFw [(1, 0xFFFFC0000000)]
    kindOf s.cur = .keepFw ∧ s.confirmTile 18 (s.rx 1) = .ok s ∧
    ∃ t, s.storeLines ((s.rx 1).toNat % 2 ^ 56) ((s.pod 0).tile 7).image 258 = .ok t := by
  refine ⟨by decide +kernel, by rfl, ?_⟩
  refine store_lines 258 _ _ _ ?_ ?_
  · exact ⟨rfl, rfl, rfl, rfl, rfl, rfl⟩
  · intro j hj
    have : ∀ i : Fin 258, (match State.reset.region ((((keepFw [(1, 0xFFFFC0000000)]).rx 1).toNat % 2 ^ 56) + 128 * i.val) with
        | .scratch k off => decide (off < State.reset.scratchSize k)
        | _ => false) = true := by decide +kernel
    have h := this ⟨j, hj⟩
    revert h
    split
    · intro h; exact ⟨_, _, ‹_›, by simpa using h⟩
    · intro h; cases h

theorem wit_InferenceRequests :
    let set : Word := BitVec.ofNat 64 (1 + 2 * 1 + 64 * 5 + 4096 * 2 + 2 ^ 20 * 32 + 5 * 2 ^ 48)
    let rq : MxReq := ⟨⟨false, 0, false, 0⟩, 0, 1, [1, 2], true⟩
    let withSet (u : State) (k : Nat) : State := pod0 u (fun p => { p with wset := [(1, set)], queue := List.replicate k rq })
    let us (l : List (XReg × Word)) (k : Nat) : State := withSet (usr ((2, 0x1000) :: l)) k
    let slotted (v : ReplySlot) : State := let u := us [(1, 1)] 0; u.withMe { u.me with replySlots := [(0, v)] }
    let S := wsetOf set
    let q : Word := 0x0101
    let kp (l : List (XReg × Word)) (k : Nat) : State :=
      let u := withSet (keep l) k
      { u with others := [(⟨false, 0, false, 0⟩, { Ctx.reset with st := .run, pdid := 5, replySlots := [(0, .pending)] })] }
    let bat (l : List (XReg × Word)) (dead : Bool) : State :=
      pod0 (kp l 0) (fun p => { p with batches := [⟨15, 0, set, [if dead then { rq with alive := false } else rq]⟩] })
    kindOf (us [] 0).cur = .user ∧ 0x40 / 64 % 4 ≠ 0 ∧ ((us [(1, q)] 0).rx 1).toNat < 2 ^ 11 ∧ (((us [] 0).pod 0).wsetAt 0).v = false ∧
    (((us [] 0).pod 0).wsetAt 1).v = true ∧ S.owner = (us [] 0).me.pdid ∧ ((slotted .pending).me.replySlots.get .free 0) ≠ .free ∧
    (us [] 0).me.replySlots.get .free 0 = .free ∧ S.k = 2 ∧
    gives ((us [] 0).readPacked ((us [] 0).rx 2) ((fatSize S.icode).getD 1) 0 S.k) (fun _ => true) = true ∧
    gives ((us [] 256).readPacked ((us [] 256).rx 2) ((fatSize S.icode).getD 1) 0 S.k) (fun _ => true) = true ∧
    256 ≤ ((us [] 256).pod 0).queue.length ∧ ((us [] 255).pod 0).queue.length < 256 ∧ 7 < ((us [(1, 8)] 0).rx 1).toNat ∧
    (slotted .pending).me.replySlots.get .free 0 = .pending ∧ (slotted (.landed 0 2)).me.replySlots.get .free 0 = .landed 0 2 ∧
    kindOf (kp [] 0).cur = .keep ∧ (kp [] 0).me.st = .run ∧ (∀ y ∈ (kp [] 0).waiters, y.1 ≠ (kp [] 0).cur) ∧ (kp [] 0).me.wait = none ∧
    0x4001 / 256 % 128 = 64 ∧ 0 + 256 * 64 ≤ 2 ^ 22 ∧ 0x8001 / 2 ^ 15 = 1 ∧
    (((kp [] 2).pod 0).queue.filter (fun y => y.wset == 1)).take 64 = [rq, rq] ∧ ((kp [] 2).pod 0).batches.length < 16 ∧
    ((kp [] 2).pod 0).mxBusy none [(0, 512)] = false ∧ (((kp [] 0).pod 0).queue.filter (fun y => y.wset == 1)).take 1 = [] ∧
    ((kp [] 0).pod 0).batches.find? (fun y => y.bid == 15) = none ∧
    ((bat [] false).pod 0).batches.find? (fun y => y.bid == 15) = some ⟨15, 0, set, [rq]⟩ ∧ ((bat [] false).pod 0).mxBusy none [(0x3FFFFF, 128)] = false ∧
    (bat [] false).reqLive rq = true ∧ ((bat [] false).ctx rq.who).wait = none ∧ (bat [] true).reqLive { rq with alive := false } = false ∧
    (pod0 (kp [] 0) (fun p => { p with armed := some (mxop 0) })).mxOwed (kp [] 0).cur = true := by decide +kernel

/-- A weight set of domain 5, of two inputs. -/
def someSet : Word := BitVec.ofNat 64 (1 + 2 * 1 + 64 * 5 + 4096 * 2 + 2 ^ 20 * 32 + 5 * 2 ^ 48)

/-- Requests of context `k` of core 0. -/
def asked (k : Nat) (live : Bool) : MxReq := ⟨⟨false, 0, false, k⟩, k, 1, [1, 2], live⟩

/-- A Keep context with two requests queued, or in the second of its pod's two batches, of which the second's context waits for its reply or not. -/
def taking (l : List (XReg × Word)) (w : Option Wait) (live batch : Bool) : State :=
  let x (k : Nat) (w : Option Wait) : Ctx := { Ctx.reset with st := if w.isSome then .wait else .run, pdid := 5, replySlots := [(k, .pending)], wait := w }
  let u : State := { keep l with others := [((asked 0 true).who, x 0 none), ((asked 1 true).who, x 1 w)] }
  pod0 u (fun p => { p with wset := [(1, someSet)], queue := if batch then [] else [asked 0 live, asked 1 true],
                            batches := if batch then [⟨3, 1, someSet, []⟩, ⟨15, 0, someSet, [asked 0 live, asked 1 true]⟩] else [] })

/-- Two requests taken as a batch. -/
theorem wit_InferenceRequests_taken :
    let t := taking [(1, 0x201), (2, 0x40)] none true false
    let mine := ((t.pod 0).queue.filter (fun y => y.wset == 1)).take 2
    t.memWf ∧ t.waiters = [] ∧ kindOf t.cur = .keep ∧ t.me.st = .run ∧ 0x201 / 64 % 4 = 0 ∧ 0x201 / 256 % 128 = 2 ∧ 0x40 % 64 = 0 ∧
    ((t.pod 0).wsetAt 1).v = true ∧ mine = [asked 0 true, asked 1 true] ∧ (t.pod 0).mxBusy none [(0x40, 256 * mine.length)] = false ∧
    (∀ r ∈ mine, r.input.length ≤ 256) := by unfold State.memWf; decide +kernel

/-- Two requests answered as one of two batches, one of them killed or not; and the end of the Keep context that holds them. -/
theorem wit_InferenceRequests_batch :
    let u (w : Option Wait) (live : Bool) : State := taking [(1, 15), (2, 0x3FFFFF)] w live true
    (∀ w ∈ [none, some (Wait.mxreply 1 3 1)], ∀ live ∈ [false, true],
      (u w live).memWf ∧ kindOf (u w live).cur = .keep ∧ (u w live).me.st = .run ∧ (u w live).me.bundle = none ∧ (u w live).me.snap = none ∧
      (u w live).waiters.all (fun y => y.1 != (u w live).cur) = true) ∧
    (∀ w ∈ [none, some (Wait.mxreply 1 3 1)], ∀ live ∈ [false, true],
      ((u w live).pod 0).batches.find? (fun y => y.bid == 15) = some ⟨15, 0, someSet, [asked 0 live, asked 1 true]⟩ ∧
      ((u w live).pod 0).mxBusy none (rowRanges 0x3FFFFF 128 2 (min 128 ((wsetOf someSet).n * (fatSize (wsetOf someSet).ocode).getD 1))) = false) ∧
    (∀ w ∈ [none, some (Wait.mxreply 1 3 1)], ∀ live ∈ [false, true],
      (u w live).reqLive (asked 0 live) = live ∧ (u w live).reqLive (asked 1 true) = true ∧ ((u w live).ctx (asked 0 true).who).wait = none ∧
      ((u w live).ctx (asked 1 true).who).wait = w ∧ (((u w live).ctx (asked 1 true).who).st == .wait) = w.isSome) ∧
    (∀ live ∈ [false, true], (∀ r ∈ [asked 0 live, asked 1 true], r.who.keep = false ∧ r.who.slot < 8 ∧ r.slot < 8 ∧ r.who ≠ (keep []).cur) ∧
      ([asked 0 live, asked 1 true].map (fun r => (r.who, r.slot))).Nodup) := by
  unfold State.memWf
  exact ⟨by decide +kernel, by decide +kernel, by decide +kernel, by decide +kernel⟩

/-- A record of a core context. -/
def someRec : FaultRec := ⟨4, 0, ⟨0, false, 0, 0⟩, 0, 0, 0, 0, 5, 0⟩

/-- The firmware of core 0 beside context 7 of side 0 of core 1 in some state. -/
def beside (l : List (XReg × Word)) (x : Ctx) : State := { fw l with others := [(⟨false, 1, false, 7⟩, x)] }

/-- A context in a state. -/
def inState (v : CtxState) : Ctx := { Ctx.reset with st := v, pdid := 5 }

theorem wit_MasterInspection :
    let sel : Word := 0x3801
    let s (l : List (XReg × Word)) (v : CtxState) : State := beside ((1, sel) :: l) (inState v)
    let c : CtxId := ⟨false, 1, false, 7⟩
    let streams (n : Word) : State := beside [(1, sel + n * 0x10000)] { inState .frozen with engFrozen := true, sendFrozen := true }
    let mx : State := pod0 (fw [(1, 0x40000)]) (fun p => { p with mxFrozen := true })
    kindOf (s [] .run).cur = .firmware ∧ dieOf (s [] .run).cur = 0 ∧ selOk 0 sel = true ∧ selOk 0 0x5801 = false ∧ selOk 0 (0x4800 + 95) = true ∧
    selOk 0 96 = false ∧ selOk 0 0x8000 = false ∧ selOk 0 0x80000 = false ∧ (selOf sel).kind ≤ 1 ∧ (selOf sel).ctx = c ∧ c ≠ (s [] .run).cur ∧
    ctxRegOk (kindOf c) 0x22 = true ∧ ctxRegOk (kindOf c) 0x23 = false ∧ ctxRegOk (kindOf c) 0x10D = false ∧ ctxRegOk (kindOf c) 0x42 = true ∧
    ((s [] .wait).ctx c).st = .wait ∧ ((s [] .run).ctx c).readable = false ∧ ((s [] .faulted).ctx c).writable = true ∧
    ((s [] .wait).ctx c).writable = false ∧ ctxRegFixed 31 = false ∧ ctxRegFits 31 0 = true ∧ ctxRegFixed 0x106 = true ∧
    ctxRegFits 0x21 17 = false ∧ ctxRegFits 0x21 16 = true ∧ ((s [] .faulted).ctx c).st = .faulted ∧ ((s [] .frozen).ctx c).st ≠ .faulted ∧
    ((s [] .frozen).ctx c).st = .frozen ∧ selOk 0 (sel + 0x20000) = true ∧ (selOf (sel + 0x20000)).kind = 2 ∧ ((streams 2).ctx c).engFrozen = true ∧
    selOk 0 (sel + 0x30000) = true ∧ (selOf (sel + 0x30000)).kind = 3 ∧ ((streams 3).ctx c).sendFrozen = true ∧
    (selOf 0x40000).kind = 4 ∧ selOk 0 0x40000 = true ∧ (mx.pod (selOf 0x40000).unit).mxFrozen = true ∧ (selOf 0x40000).ctx ≠ mx.cur := by decide +kernel

/-- Firmware's own die's masters: those that it may not name, that are not as the instruction needs, and values that do not fit. -/
theorem wit_MasterInspection_bad :
    let sel : Word := 0x3801
    let s (v : CtxState) : State := beside [] (inState v)
    let c : CtxId := ⟨false, 1, false, 7⟩
    let quiet := beside [] { inState .run with wait := none }
    let waits := beside [] { inState .wait with sendFrozen := true, wait := some (.reissue .sendFrozen) }
    let armed := pod0 (fw []) (fun p => { p with mxFrozen := true, armed := some (mxop 0) })
    let copies := (beside [] { inState .frozen with engFrozen := true }).setDie 0 { (s .frozen).die 0 with engines := [(3, [copyCmd false])] }
    kindOf (s .run).cur = .firmware ∧ selOk 0 0x5801 = false ∧ 1 < (selOf (sel + 0x20000)).kind ∧ 4 < (selOf (sel + 0x50000)).kind ∧
    selOk 0 sel = true ∧ (selOf sel).ctx = c ∧ (∀ v ∈ [CtxState.idle, .binding, .run, .drain, .saving], ((s v).ctx c).st ≠ .faulted ∧ ((s v).ctx c).st ≠ .frozen ∧ ((s v).ctx c).st ≠ .wait) ∧
    ((s .wait).ctx c).st ≠ .faulted ∧ ((s .wait).ctx c).st ≠ .frozen ∧
    (sysAccess (kindOf c) 0).rd = true ∧ (sysAccess (kindOf c) 0xC).rd = true ∧
    selOk 0 (sel + 0x20000) = true ∧ (selOf (sel + 0x20000)).ctx = c ∧ (quiet.ctx c).engFrozen = false ∧ (quiet.ctx c).sendFrozen = false ∧
    ((fw []).pod (selOf 0x40000).unit).mxFrozen = false ∧ (waits.ctx c).sendFrozen = true ∧ (waits.ctx c).wait = some (.reissue .sendFrozen) ∧
    (armed.pod 0).mxFrozen = true ∧ (armed.pod 0).running = none ∧ (armed.pod 0).armed = some (mxop 0) ∧ armed.mxHeld 0 = false ∧
    (copies.ctx c).engFrozen = true ∧ (copies.die 0).copyQueue 3 = [copyCmd false] := by decide +kernel

/-- A record popped in a cycle in which the die's buffer has already been read. -/
theorem wit_MasterInspection_popped :
    let u := fw [(2, 0x1000)]
    let s := { u.setDie 0 { u.die 0 with fb := [someRec] } with cycle := { u.cycle with popped := [0] } }
    kindOf s.cur = .firmware ∧ (s.die (dieOf s.cur)).fb = [someRec] ∧ dieOf s.cur ∈ s.cycle.popped ∧ dieOf u.cur ∉ u.cycle.popped := by decide +kernel

theorem wit_MasterInspection_buffer :
    let s (fb held : List FaultRec) (l : List (XReg × Word)) : State :=
      let u := arg (fw l) (.unit 0)
      u.setDie 0 { u.die 0 with fb := fb, fbHeld := held }
    let full := List.replicate 1024 someRec
    (s [] [someRec] []).opd = .unit 0 ∧ firstRec ((s [] [someRec] []).die 0).fbHeld = some someRec ∧ ((s (full.drop 1) [someRec] []).die 0).fb.length < 1024 ∧
    1024 ≤ ((s full [someRec] []).die 0).fb.length ∧ kindOf (s [] [] []).cur = .firmware ∧ 2 / 2 % 32 ≠ 0 ∧
    ((s [] [] [(2, 1)]).die (dieOf (s [] [] []).cur)).fb = [] ∧ ((s [] [] [(2, 1)]).rx 2).getLsbD 0 = true ∧ ((s [] [] []).rx 2).getLsbD 0 = false ∧
    (s [someRec] [] [(2, 0x1000)]).st.wf = true ∧ ((s [someRec] [] [(2, 0x1000)]).die 0).fb = [someRec] ∧
    claims (s [someRec] [] [(2, 0x1000)]) 2 true 0x1000 = true ∧ waits (away (s [someRec] [] [(2, 0x1000)])) 2 true 0x1000 = true ∧
    someRec.master.kind ≠ 4 ∧ (((s full [someRec] []).setDie 0 { (s full [someRec] []).die 0 with fbNew := true }).die 0).fbNew = true ∧ ((s full [someRec] []).die 0).fbNew = false ∧
    (s [someRec] [] []).attr 0x1000 ≠ 3 ∧ 1 < ((s [] [] [(2, 2)]).rx 2).toNat ∧ ((s [] [] [(2, 1)]).rx 2).toNat ≤ 1 := by decide +kernel

/-- A firing kept of a save at 0x2000. -/
def someSaved : Saved := ⟨0x2000, { nestFiring with fid := 0x0050000000000000 }, false, false, [], none, none⟩

/-- The firmware of core 0 whose image at 0x8000 accepts save layout 1, and whose table at 0x40000 holds one firing. -/
def saving (l : List (XReg × Word)) (x : Ctx) : State :=
  let s := { beside ((1, 0x3801) :: (2, 0x2000) :: l) x with domains := [(5, dom5)], saved := [someSaved] }
  let t := { s with mgmt := { s.mgmt with fwimage := 0x8000, savetab := 0x40000 } }
  poke (poke (poke t 0x8010 2 1) 0x8012 2 1) 0x40000 16 (1 + 2 ^ 8 * 0x20 + 2 ^ 80)

theorem wit_KillPreemptSave :
    let c : CtxId := ⟨false, 1, false, 7⟩
    let s (v : CtxState) : State := saving [] { inState v with firing := some nestFiring }
    let z (v : CtxState) : State := saving [(2, 0)] { inState v with firing := some nestFiring }
    let bad (v : CtxState) : State := let u := s v; { u with mgmt := { u.mgmt with fwimage := 0 } }
    let sv (x : Ctx) : State := arg (saving [] { x with st := .saving, saving := some ⟨0x3000, .run⟩, firing := some nestFiring }) (.ctx c)
    let far : State := sv { Ctx.reset with spillBase := 0xFFFFF1000000, rs := { Ctx.reset.rs with spilled := 1 } }
    kindOf (s .run).cur = .firmware ∧ selOk 0 ((s .run).rx 1) = true ∧ (selOf ((s .run).rx 1)).kind = 0 ∧ (selOf ((s .run).rx 1)).slot ≤ 7 ∧
    (selOf ((s .run).rx 1)).ctx = c ∧ (z .idle).rx 2 = 0 ∧ ((z .idle).ctx c).st = .idle ∧ ((z .run).ctx c).st ≠ .idle ∧
    ((z .run).ctx c).firing = some nestFiring ∧ ((s .run).rx 2).toNat % 256 = 0 ∧ ((s .frozen).ctx c).st = .frozen ∧
    ((s .saving).ctx c).st = .saving ∧ ((s .drain).ctx c).st = .drain ∧ ((s .wait).ctx c).st = .wait ∧ (s .run).tableFull = false ∧
    (s .run).layoutOk 1 = true ∧ (bad .run).tableFull = false ∧ (bad .run).layoutOk 1 = false ∧
    (sv Ctx.reset).opd = .ctx c ∧ ((sv Ctx.reset).ctx c).st = .saving ∧ ((sv Ctx.reset).ctx c).saving = some ⟨0x3000, .run⟩ ∧
    ((sv Ctx.reset).setSide 1 false { (sv Ctx.reset).side 1 false with vq := [⟨7, true, 0, 0⟩] }).vqClear c = false ∧
    ((sv { Ctx.reset with replySlots := [(0, .pending)] }).ctx c).slotsSettled = false ∧ (sv Ctx.reset).vqClear c = true ∧
    ((sv Ctx.reset).ctx c).slotsSettled = true ∧ far.spillsReadable c = false ∧ far.vqClear c = true ∧ (far.ctx c).slotsSettled = true ∧
    (sv Ctx.reset).spillsReadable c = true ∧ (sv Ctx.reset).freeEntry = some 1 ∧ ((sv Ctx.reset).ctx c).firing = some nestFiring := by decide +kernel

/-- A firing killed in each state, and a save that waits for an access that a killed kept record held back. -/
theorem wit_KillPreemptSave_killed :
    let c : CtxId := ⟨false, 1, false, 7⟩
    let s (v : CtxState) (k : Bool) : State := saving [] { inState v with firing := some { nestFiring with killed := k } }
    let late : MemOp := ⟨.load, 0x1000, 8, 31, false, 5, 0x4000, Later.none⟩
    let sv (l : List MemOp) : State := arg (saving [] { Ctx.reset with st := .saving, saving := some ⟨0x3000, .run⟩, firing := some nestFiring, late := l }) (.ctx c)
    (∀ v ∈ [CtxState.run, .wait, .faulted, .frozen, .saving], ((s v true).ctx c).killed = true ∧ ((s v false).ctx c).killed = false ∧
      ((s v true).rx 2).toNat % 256 = 0) ∧
    ((s .idle false).ctx c).killed = false ∧ ((sv [late]).ctx c).late ≠ [] ∧ ((sv []).ctx c).late = [] ∧ ((sv [late]).ctx c).st = .saving ∧
    (sv []).vqClear c = true ∧ ((sv []).ctx c).slotsSettled = true := by decide +kernel

theorem wit_KillPreemptSave_full :
    ∃ l, ({ saving [] (inState .run) with saved := l }).tableFull = true := by
  have h : ∀ l : List Saved, l.length = saveEntries → ({ saving [] (inState .run) with saved := l }).tableFull = true := by
    intro l hl
    unfold State.tableFull
    rw [Bool.or_eq_true]
    exact .inl (decide_eq_true (hl ▸ Nat.le_add_right _ _))
  exact ⟨List.replicate saveEntries someSaved, h _ List.length_replicate⟩

/-- Firmware tables where addresses are translated as at reset (R407): every byte of the memory at its own address. -/
theorem plain_fwLoc {u : State} {va : Nat} (h1 : u.sd0.hostEn = false) (h2 : u.pkg = State.reset.pkg) (h3 : (u.die 0).pgEn = false)
    (hv : va < dramSize) : u.fwLoc va = some ⟨.dram, va⟩ := by
  have hd : dramSize < 0xFFFFC0000000 := by decide
  have e1 : u.region va = .home va := by
    have a1 : va / 2 ^ 48 % 256 = 0 := by omega
    have a2 : va % 2 ^ 48 = va := by omega
    unfold State.region State.namesHost
    simp only [a1, a2, h1, h2]
    simp [State.reset, show va < 0xFFFFC0000000 by omega]
  unfold State.fwLoc State.locate
  simp only [e1]
  simp [fwReq, State.fillPlb, State.hitLoc, State.xlate, h3, hv]

theorem wit_KillPreemptSave_area :
    let c : CtxId := ⟨false, 1, false, 7⟩
    let s := saving [] { Ctx.reset with st := .saving, saving := some ⟨0x2000, .run⟩, firing := some nestFiring }
    let P (k : Nat) : Loc := ⟨.dram, 0x2000 + k⟩
    s.memWf ∧ (0x2000 : VAddr).toNat % 256 = 0 ∧ s.AreaHeld 0x2000 (0xC000 + 8 * (s.ctx c).rs.spilled) P ∧ (s.ctx c).vec.vhwm.toNat ≤ 1024 ∧
    s.spillsReadable c = true ∧ s.AreaAt 0x2000 0xC000 P ∧ s.fwLoc (s.saveEntry 1) = some ⟨.dram, 0x40010⟩ ∧
    s.hostWait ⟨.dram, 0x40010⟩ = none ∧ s.hostWait (Loc.add ⟨.dram, 0x40010⟩ 8) = none ∧
    ∀ u : State, HomeWrites s u → u.fwLoc (s.saveEntry 1 + 8) = some (Loc.add ⟨.dram, 0x40010⟩ 8) := by
  intro c s P
  have hu : ∀ (u : State) (va : Nat), HomeWrites s u → va < dramSize → u.fwLoc va = some ⟨.dram, va⟩ := by
    intro u va h hv
    refine plain_fwLoc ?_ ?_ ?_ hv
    · rw [h.1]; rfl
    · rw [h.1]; rfl
    · rw [h.2]; rfl
  have h0 : HomeWrites s s := ⟨rfl, fun _ => rfl⟩
  have hd : dramSize = 206158430208 := by decide
  have ha : ∀ (u : State) (n : Nat), HomeWrites s u → n ≤ 0x100000 → u.AreaAt 0x2000 n P := by
    intro u n h hn k hk
    refine ⟨hu u _ h ?_, ?_⟩
    · change 0x2000 + k < dramSize
      omega
    · change (⟨.dram, 0x2000 + k⟩ : Loc) = ⟨.dram, 0x2000 + k / 64 * 64 + k % 64⟩
      rw [show 0x2000 + k / 64 * 64 + k % 64 = 0x2000 + k by omega]
  have hs : (s.ctx c).rs.spilled = 0 := by decide +kernel
  rw [hs]
  refine ⟨by unfold State.memWf; decide +kernel, by decide, ⟨?_, ?_, ?_⟩, by decide +kernel, by decide +kernel, ha s _ h0 (by omega),
    hu s _ h0 ?_, rfl, rfl, ?_⟩
  · intro j k _ _ h
    have : 0x2000 + j = 0x2000 + k := congrArg Loc.a h
    omega
  · exact fun _ _ => rfl
  · intro u h _
    exact ha u _ h (by omega)
  · change 0x40010 < dramSize
    omega
  · intro u h
    refine hu u _ h ?_
    change 0x40018 < dramSize
    omega

theorem wit_KillPreemptSave_restore :
    let c : CtxId := ⟨false, 1, false, 7⟩
    let s (v : CtxState) : State := saving [] (inState v)
    ((s .idle).ctx c).st ≠ .faulted ∧ ((s .faulted).ctx c).st = .faulted ∧ (saving [(2, 0x2001)] Ctx.reset).savedEntry 0x2001 = none ∧
    (s .idle).savedEntry ((s .idle).rx 2) = some (someSaved, 0) ∧ (s .idle).restStatus c (some (someSaved, 0)) = 0 ∧
    (s .run).savedEntry ((s .run).rx 2) = some (someSaved, 0) ∧ (s .run).restStatus c (some (someSaved, 0)) = 4 := by decide +kernel

theorem wit_InvalidationPowerActivation :
    let s (l : List (XReg × Word)) : State := { fw l with domains := [(5, dom5)] }
    let iv (l : List (XReg × Word)) (ctl : Nat) : State := poke (s l) 0x800C 4 ctl
    let c : CtxId := ⟨false, 1, true, 9⟩
    let w (v : Inval) : State := arg { s [] with others := [(c, { Ctx.reset with st := .wait, wait := some (.invalidate v 1) })] } (.ctx c)
    let set (v : Inval) : State := poke (poke { w v with sets := [(0x200000, ⟨1, 0, 0, 5, [⟨1, 0x201000, none, []⟩]⟩)] } 0x201018 4 1) 0x201080 8 0x10000
    kindOf (s []).cur = .firmware ∧ 0x8000 % 65536 ≠ 0 ∧ ((s [(1, 0x10000), (2, 0x10000)]).rx 1).toNat % 65536 = 0 ∧ (s [(2, 0x10000)]).rx 2 ≠ 0 ∧
    (s [(1, 0x8000000000000000)]).rx 1 = BitVec.ofNat 64 (2 ^ 63) ∧ ((s [(2, 63)]).rx 2).toNat < 64 ∧ ((s [(1, 0xFFF)]).rx 1).toNat < 2 ^ 12 ∧
    ((s []).domain 0xFFF).state = 0 ∧ ((s []).domain 5).state ≠ 0 ∧ (iv [(1, 5)] 0).fwRead ((dom5.ivtab).toNat + 16 * 0 + 12) 4 % 2 = 0 ∧
    (iv [(1, 5)] 1).fwRead ((dom5.ivtab).toNat + 16 * 0 + 12) 4 % 4 = 1 ∧ (iv [(1, 5)] 3).fwRead ((dom5.ivtab).toNat + 16 * 0 + 12) 4 % 4 = 3 ∧
    (iv [(1, 5)] 0).fwLoc ((dom5.ivtab).toNat + 16 * 0) = some ⟨.dram, 0x8000⟩ ∧ (iv [(1, 5)] 1).fwLoc ((dom5.ivtab).toNat + 16 * 0) = some ⟨.dram, 0x8000⟩ ∧
    (iv [(1, 5)] 3).fwLoc ((dom5.ivtab).toNat + 16 * 0) = some ⟨.dram, 0x8000⟩ ∧
    ({ s [(1, 5)] with domains := [(5, { dom5 with ivtab := 0xFFFFF1000000 })] }).fwLoc 0xFFFFF1000000 = none ∧ ((s [(1, 0x1000)]).rx 1).toNat ≠ 2 ^ 63 ∧
    2 ^ 12 ≤ ((s [(1, 0x1000)]).rx 1).toNat ∧ 16 ≤ ((s [(2, 16)]).rx 2).toNat ∧
    (w (.tlb 0x10000 0x10000)).opd = .ctx c ∧ ((w (.tlb 0x10000 0x10000)).ctx c).st = .wait ∧
    ((w (.tlb 0x10000 0x10000)).ctx c).wait = some (.invalidate (.tlb 0x10000 0x10000) 1) ∧ (w (.tlb 0x10000 0x10000)).mayInvalidate (.tlb 0x10000 0x10000) = true ∧
    (w (.plb none (some 3))).mayInvalidate (.plb none (some 3)) = true ∧ (set (.tlb 0x10000 0x10000)).mayInvalidate (.tlb 0x10000 0x10000) = false ∧
    (arg (s []) (.vector 7 3)).opd = .vector 7 3 ∧ ((s []).domain (7 : BitVec 12).toNat).state = 0 ∧
    (iv [] 2).fwRead ((dom5.ivtab).toNat + 16 * 0 + 12) 4 / 2 % 2 = 1 ∧ (iv [] 1).fwRead ((dom5.ivtab).toNat + 16 * 0 + 12) 4 / 2 % 2 = 0 := by
  decide +kernel

/-- Invalidations of a range that a die's slices, the directory and a lease hold, with no request of other packages waiting; and a vector's control
word that the host does not hold. -/
theorem wit_InvalidationPowerActivation_lines :
    let c : CtxId := ⟨false, 1, true, 9⟩
    let u : State := { fw [] with others := [(c, { Ctx.reset with st := .wait, wait := some (.invalidate (.tlb 0x10000 0x10000) 1) })], domains := [(5, dom5)] }
    let v := arg (u.setDie 0 { u.die 0 with l2 := [(0x200, ⟨⟨.dram, 0x10000⟩, []⟩)] }) (.ctx c)
    let s : State := { v with
      dir := [{ line := 0x200, lg := 0, st := .x, sharers := [0], coarse := none, ends := [], cend := 0, flag := .none, flagEnd := 0, quiet := 0 }] }
    s.opd = .ctx c ∧ (s.ctx c).st = .wait ∧ (s.ctx c).wait = some (.invalidate (.tlb 0x10000 0x10000) 1) ∧
    s.mayInvalidate (.tlb 0x10000 0x10000) = true ∧ s.cohWait = [] ∧ 0x10000 ≤ 0x200 * 128 ∧
    s.fwLoc ((s.domain 5).ivtab.toNat + 12) = some ⟨.dram, 0x800C⟩ ∧ s.hostWait ⟨.dram, 0x800C⟩ = none := by decide +kernel

theorem wit_InvalidationPowerActivation_power :
    let s (l : List (XReg × Word)) : State := fw l
    let held (l : List (XReg × Word)) : State := beside l (inState .run)
    let act (o : Option CtxId) : State := let u := s [(1, 1)]; { u with mgmt := { u.mgmt with activating := o } }
    let stop := (arg (s []) (.unit 7)).setDie 7 { (s []).die 7 with power := 4 }
    kindOf (s []).cur = .firmware ∧ (s []).me.st = .run ∧ (∀ w ∈ (s []).waiters, w.1 ≠ (s []).cur) ∧ 7 < ((s [(1, 8)]).rx 1).toNat ∧
    4 < ((s [(2, 5)]).rx 2).toNat ∧ ((s [(1, 7)]).rx 1).toNat ≤ 7 ∧ ((s [(2, 3)]).rx 2).toNat < 4 ∧ ((s [(2, 4)]).rx 2).toNat = 4 ∧
    (s [(2, 4)]).mayStop 0 = true ∧ (held []).mayStop 0 = false ∧ (held []).me.st = .run ∧ (∀ w ∈ (held []).waiters, w.1 ≠ (held []).cur) ∧
    ((s [(2, 1)]).rx 2).toNat % 8 ≠ 0 ∧ ((s [(2, 8)]).rx 2).toNat % 8 = 0 ∧ (act none).mgmt.activating = none ∧
    (act (some ⟨false, 1, true, 9⟩)).mgmt.activating = some ⟨false, 1, true, 9⟩ ∧ ⟨false, 1, true, 9⟩ ≠ (s []).cur ∧
    (act (some (s []).cur)).mgmt.activating = some (act none).cur ∧
    gives ((act (some (s []).cur)).activateAt (act none).req ((act none).rx 1).toNat (0 % 2 ^ 56) (some (act none).cur)) (fun r => r.2 == 2) = true ∧
    stop.opd = .unit 7 ∧ (stop.die 7).power = 4 ∧ ((s []).die 7).power ≠ 4 ∧ (s []).fastest = some 0 := by decide +kernel

theorem wit_UnitsAndCycles :
    let c : CtxId := ⟨false, 1, true, 7⟩
    let op (a : Access) (va : VAddr) : MemOp := ⟨a, va, 8, 31, false, 5, 0x4000, Later.none⟩
    let ready (u : State) (a : Access) (own : Bool) : Bool :=
      gives ((u.focus c).locate ((u.focus c).accReq a) (accNeed a) 0x1000) (fun r => gives (r.1.claim own 0x1000 r.2) (fun _ => true))
    let s (a : Access) (va : VAddr) : State :=
      let u := { paged (fw []) with others := [(c, { Ctx.reset with st := .run, pdid := 5 })] }
      arg u (.ctxOp c (op a va))
    let sd (n : Word) (l : List VqEntry) : State :=
      let u := (arg (fw []) (.side 0 true)).setSide 0 true { (fw []).side 0 true with vq := l }
      u.setDie 0 { u.die 0 with dcyc := n }
    let e : VqEntry := ⟨7, true, 0, 0⟩
    (sd 64 []).opd = .side 0 true ∧ ((sd 64 []).die (0 / 96)).dcyc.toNat % 64 = 0 ∧ ((sd 63 []).die (0 / 96)).dcyc.toNat % 64 ≠ 0 ∧
    ((sd 0 [{ e with started := false }]).side 0 true).vq[0]? = some { e with started := false } ∧
    ((sd 0 [{ e with started := false }]).side 0 true).vq.find? (·.started) = none ∧ ((sd 0 [e]).side 0 true).vq.find? (·.started) = some e ∧
    (s .load 0x1000).opd = .ctxOp c (op .load 0x1000) ∧ ((s .load 0x1000).ctx c).st = .run ∧ ready (s .load 0x1000) .load false = true ∧
    (s .load 0x1000).attr 0x1000 ≠ 3 ∧ (s .store 0x1000).st.wf = true ∧
    ready (s .store 0x1000) .store true = true ∧ (s .load 0x40000000).recordHeld c = false ∧
    fails (((s .load 0x40000000).focus c).locate (((s .load 0x40000000).focus c).accReq .load) (accNeed .load) 0x40000000) (· == .xlate 0x40000000) = true ∧
    accByEngine .load = false ∧ (fw []).events = [] ∧ (fw []).todo = [] := by decide +kernel

/-- Accesses of a context that has been killed, and of one whose kept record holds back another access; and the parts of a cycle: the kept turns
done, the binding with a candidate and without one. -/
theorem wit_UnitsAndCycles_cycle :
    let c : CtxId := ⟨false, 1, true, 7⟩
    let op : MemOp := ⟨.load, 0x1000, 8, 31, false, 5, 0x4000, Later.none⟩
    let s (x : Ctx) : State := arg { paged (fw []) with others := [(c, x)] } (.ctxOp c op)
    let x : Ctx := { Ctx.reset with st := .run, pdid := 5, firing := some { nestFiring with killed := true } }
    let cyc (u : State) (e : Option (List CtxId)) (b : Option (List Happening)) : State := { u with events := [], todo := [], cycle := { u.cycle with early := e, bind := b } }
    let b := arg ((withPacket (.unit 3) false).setDie 0 { (withPacket (.unit 3) false).die 0 with chunks := [someChunk] }) (.unit 0)
    ((s x).ctx c).killed = true ∧ ((s x).ctx c).st = .run ∧ ((s { x with firing := none, late := [op] }).ctx c).killed = false ∧
    op ∈ ((s { x with firing := none, late := [op] }).ctx c).late ∧ op ∉ ((s { x with firing := none }).ctx c).late ∧
    (cyc (fw []) (some []) none).cycle.early = some [] ∧ (cyc b none (some [])).cycle.early = none ∧ (cyc b none (some [])).cycle.bind = some [] ∧
    ((cyc b none (some [])).nextBind []).isSome = true ∧ (cyc (fw []) none (some [])).nextBind [] = none ∧
    (cyc (fw []) none none).cycle.early = none ∧ (cyc (fw []) none none).cycle.bind = none ∧ (cyc (fw []) none none).todo = [] := by decide +kernel

/-- An entry of line 0x20 in a state, that agent 0 holds with a lease end. -/
def someEntry (st : DirState) : DirEntry := ⟨0x20, 0, st, [0], none, [⟨0, 100, 0⟩], 0, .none, 0, 0⟩

/-- That agent's lease, with a dirty byte. -/
def someLease (left : Nat) (own : Bool) : HolderLease := ⟨0, 0x20, 0, own, left, 100, 50, [(⟨.dram, 0x1000⟩, 3)], false⟩

theorem wit_DirectoryAndLeases :
    let s (o : Operand) (dir : List DirEntry) (wait : List CohReq) : State := { arg (fw []) o with dir := dir, cohWait := wait }
    let r (w : Want) (dir : List DirEntry) (wait : List CohReq) : State := s (.request 1 0x1000 w) dir wait
    let a (own : Bool) (dir : List DirEntry) (wait : List CohReq) : State := s (.line 0 0x1000 own) dir wait
    let rolls : State := let u := r .read [] []; { u with sd0 := { u.sd0 with busy := true, rollAt := 0x20 } }
    let sole (u : State) (e : DirEntry) : Bool := u.entry 0x20 == some e && u.dir.all (fun x => x == e || !overlap x.line x.lg e.line e.lg)
    let owed : State := { a false [someEntry .x] [] with ckptOwed := some [(0, 0x20)] }
    (r .write [] []).opd = .request 1 0x1000 .write ∧ (r .write [] []).tracked 0x20 = true ∧
    (r .write [] [⟨1, 0x20, .write, 0⟩]).cohWait.any (fun p => p.agent == 1 && p.line == 0x20 && p.want == .write) = true ∧
    (r .write [] [⟨2, 0x20, .write, 0⟩]).cohWait.any (fun p => p.agent == 1 && p.line == 0x20 && p.want == .write) = false ∧
    (r .write [] [⟨2, 0x20, .write, 0⟩]).behind 0x20 = true ∧ rolls.rolling 0x20 = true ∧ rolls.cohWait = [] ∧ (r .write [] []).cohWait = [] ∧
    (r .write [] []).behind 0x20 = false ∧ (r .write [] []).rolling 0x20 = false ∧ (r .write [] []).entry 0x20 = none ∧
    ((r .write [] []).entriesOf ((r .write [] []).tracker 0x20)).length < 2 ^ 20 ∧ sole (r .read [someEntry .s] []) (someEntry .s) = true ∧
    (r .read [someEntry .s] []).behind 0x20 = false ∧ (r .read [someEntry .s] []).rolling 0x20 = false ∧
    (someEntry .s).clashes 1 (Want.read == .write) = false ∧ sole (r .write [someEntry .s] []) (someEntry .s) = true ∧
    (someEntry .s).clashes 1 (Want.write == .write) = true ∧ (someEntry .x).clashes 1 (Want.read == .write) = true ∧ (someEntry .x).sharers = [0] ∧
    (r .write [someEntry .s] []).localAgent 0 = true ∧ (r .write [someEntry .s] []).leases = [] ∧
    (a true [someEntry .x] []).opd = .line 0 0x1000 true ∧ sole (a true [someEntry .x] []) (someEntry .x) = true ∧ 1 ∉ (someEntry .x).sharers ∧
    (s (.line 1 0x1000 true) [someEntry .x] []).opd = .line 1 0x1000 true ∧ sole (s (.line 1 0x1000 true) [someEntry .x] []) (someEntry .x) = true ∧
    (a true [someEntry .x] [⟨1, 0x20, .read, 5⟩]).cohWait = [⟨1, 0x20, .read, 5⟩] ∧ (a true [someEntry .x] [⟨1, 0x20, .read, 5⟩]).rolling 0x20 = false ∧
    sole (a true [someEntry .x] [⟨1, 0x20, .read, 5⟩]) (someEntry .x) = true ∧ owed.owesCkpt 0 (someEntry .x).line = true ∧ sole owed (someEntry .x) = true ∧
    (a false [someEntry .x] []).owesCkpt 0 (someEntry .x).line = false ∧ sole (a false [someEntry .x] []) (someEntry .x) = true := by decide +kernel

/-- Requests with room for the parts of a region, and the dirty bytes that a checkpoint asks of a holder. -/
theorem wit_DirectoryAndLeases_room :
    let r : State := { arg (fw []) (.request 1 0x1000 .write) with dir := [someEntry .s] }
    let c : State := { arg (fw []) (.line 0 0x1000 false) with dir := [someEntry .x], leases := [someLease 49 true], ckptOwed := some [(0, 0x20)] }
    (r.entriesOf (r.tracker 0x20)).length + 16 ≤ 2 ^ 20 ∧ (∀ a ∈ (someEntry .s).sharers, a ≠ 1 → r.localAgent a = true) ∧ r.leases = [] ∧
    c.owesCkpt 0 (someEntry .x).line = true ∧ (∃ h ∈ c.leases, h.agent = 0 ∧ h.covers (someEntry .x).line = true ∧ h.dirty ≠ []) := by decide +kernel

theorem wit_DirectoryAndLeases_lives :
    let at_ (u : State) (n : Nat) : State := { u with sd0 := { u.sd0 with cyc := n } }
    let s (e : DirEntry) (h : HolderLease) (n : Nat) : State := at_ { arg (fw []) (.lease 0 0x1000) with dir := [e], leases := [h] } n
    let far (peers : List (BitVec 8)) : State :=
      { arg (fw []) (.lease 0 0x0009000000001000) with leases := [{ someLease 49 true with line := 0x0009000000001000 / 128 }], peers := peers }
    let gone (e : DirEntry) : DirEntry := { e with sharers := [1] }
    let r (a b : DirEntry) : State := at_ { arg (fw []) (.region false 0x1000) with dir := [a, b] } 0x100000000
    let b : DirEntry := { someEntry .s with line := 0x21 }
    let sole (u : State) (e : DirEntry) : Bool := u.entry 0x20 == some e && u.dir.all (fun x => x == e || !overlap x.line x.lg e.line e.lg)
    let t := s (someEntry .x) (someLease 49 true) 99
    let recalled : State := { s (someEntry .x) (someLease 0 true) 100 with cohWait := [⟨1, 0x20, .read, 0⟩] }
    let owed : State := { s (someEntry .x) (someLease 0 true) 100 with ckptOwed := some [(0, 0x20)] }
    t.opd = .lease 0 0x1000 ∧ t.leaseOf 0 0x20 = some (someLease 49 true) ∧ (someLease 50 true).dueRenew = false ∧ (someLease 49 true).dueRenew = true ∧
    t.rolling 0x20 = false ∧ (at_ { t with sd0 := { t.sd0 with busy := true, rollAt := 0x20 } } 99).rolling 0x20 = true ∧ t.tracked 0x20 = true ∧
    sole t (someEntry .x) = true ∧ (someEntry .x).coarse = none ∧ (someEntry .x).endOf 0 = some 100 ∧ t.cycOf 0x20 = 99 ∧
    (s (someEntry .x) (someLease 49 true) 100).cycOf 0x20 = 100 ∧ 0 ∉ (gone (someEntry .x)).sharers ∧ 0 ∈ (someEntry .x).sharers ∧
    (far [9]).leaseOf 0 (0x0009000000001000 / 128) = some { someLease 49 true with line := 0x0009000000001000 / 128 } ∧
    (far [9]).tracked (0x0009000000001000 / 128) = false ∧ linePkg (0x0009000000001000 / 128) = 9 ∧ (9 : BitVec 8) ∈ (far [9]).peers ∧ (9 : BitVec 8) ∉ (far []).peers ∧
    t.cohWait = [] ∧ (someLease 49 true).left ≠ 0 ∧ (someLease 0 true).left = 0 ∧ (s (someEntry .x) (someLease 0 true) 99).st.wf = true ∧
    (s (someEntry .x) (someLease 0 true) 100).cycOf 0x20 = 100 ∧ sole (s (someEntry .x) (someLease 0 true) 100) (someEntry .x) = true ∧
    (someEntry .s).st ≠ .x ∧ (someEntry .x).st = .x ∧ (∃ w ∈ recalled.cohWait, (someEntry .x).covers w.line = true) ∧
    owed.owesCkpt 0 (someEntry .x).line = true ∧ t.ckptOwed = none ∧ (t.entriesOf (t.tracker 0x20)).length < 2 ^ 20 ∧
    (someEntry .x).ends.find? (fun y => y.agent == 0) = some ⟨0, 100, 0⟩ ∧
    (r (someEntry .s) b).opd = .region false 0x1000 ∧ (r (someEntry .s) b).dir.find? (fun x => x.line == 0x20) = some (someEntry .s) ∧
    (r (someEntry .s) b).dir.find? (fun x => x.line == 0x20 + 2 ^ (someEntry .s).lg) = some b ∧ (r (someEntry .s) b).mayMerge (someEntry .s) b = true ∧
    (r (someEntry .x) b).mayMerge (someEntry .x) b = false := by decide +kernel

/-- A die of package 9 as a holder: renewing in time, late, while the directory is rolling, and of an entry that does not name it. -/
theorem wit_DirectoryAndLeases_away :
    let e (k : Nat) : DirEntry := { someEntry .x with sharers := [k], ends := [⟨72, 100, 0⟩] }
    let s (k n : Nat) : State :=
      let u : State := { arg (fw []) (.lease 72 0x1000) with dir := [e k] }
      { u with sd0 := { u.sd0 with cyc := n } }
    let rolls : State := let u := s 72 99; { u with sd0 := { u.sd0 with busy := true, rollAt := 0x20 } }
    (∀ k ∈ [0, 72], (s k 99).opd = .lease 72 0x1000 ∧ (s k 99).localAgent 72 = false ∧ (s k 99).entry 0x20 = some (e k) ∧
      (s k 99).dir = [e k] ∧ (s k 99).cohWait = [] ∧ (s k 99).rolling 0x20 = false ∧ (e k).coarse = none) ∧
    (72 : Nat) ∉ (e 0).sharers ∧ (72 : Nat) ∈ (e 72).sharers ∧ (e 72).endOf 72 = some 100 ∧ (s 72 99).cycOf 0x20 < 100 ∧
    100 ≤ (s 72 100).cycOf 0x20 ∧ rolls.rolling 0x20 = true ∧ rolls.entry 0x20 = some (e 72) ∧
    (fw []).localAgent 0 = true := by decide +kernel

theorem wit_CheckpointsAndLosses :
    let far : DirEntry := { someEntry .x with sharers := [8 * 9], ends := [⟨72, 100, 0⟩] }
    let s (dir : List DirEntry) (o : Operand) : State := { arg (fw []) o with dir := dir }
    let u : Undo := ⟨3, 0x20, List.replicate 128 7⟩
    let back (n : BitVec 3) : State :=
      let t := s [someEntry .s] (.rollback false 0x1000 n)
      { t with sd0 := { t.sd0 with cur := 4 }, st := { t.st with dram := { t.st.dram with log := [u] } } }
    (s [far] .none).ckptOwed = none ∧ (s [far] .none).localAgent 72 = false ∧ (s [far] .none).entry far.line = some far ∧ far.st = .x ∧
    (s [someEntry .x] .none).localAgent 0 = true ∧ (s [someEntry .x] .none).leases = [] ∧ ({ s [far] .none with ckptOwed := some [] }).ckptOwed = some [] ∧ (s [] (.region false 0x1000)).opd = .region false 0x1000 ∧
    (∀ x ∈ (s [] (.region false 0x1000)).dir, x.line ≠ 0x20) ∧ (∃ x ∈ (s [someEntry .s] (.region false 0x1000)).dir, x.line = 0x20) ∧
    (back 1).opd = .rollback false 0x1000 1 ∧ (back 1).dir.find? (fun x => x.line == 0x20) = some (someEntry .s) ∧ (back 5).sd0.cur.toNat < (5 : BitVec 3).toNat ∧
    (1 : BitVec 3) ≠ 0 ∧ ¬((back 1).sd0.cur.toNat < (1 : BitVec 3).toNat) ∧
    ¬((back 1).sd0.cur.toNat - (1 : BitVec 3).toNat < (back 1).st.dram.from_) ∧ (back 1).cohWait = [] ∧ (back 1).st.wf = true ∧ (back 1).leases = [] ∧
    (someEntry .s).lg = 0 ∧ (back 1).fwLoc (0x20 * 128) = some ⟨.dram, 128 * 0x20⟩ ∧
    (back 1).st.dram.log.find? (fun x => x.line == 0x20 && decide (4 - 1 ≤ x.interval)) = some u ∧ u.bytes.length = 128 := by decide +kernel

theorem wit_CheckpointsAndLosses_losses :
    let c : CtxId := ⟨false, 1, true, 7⟩
    let s (o : Operand) : State := { arg (fw []) o with peers := [9], others := [(c, { Ctx.reset with st := .wait, wait := some (.gather [9] 1) })] }
    let lost (d : Bool) : State := let u := s (.sdie d); u.setSd d { u.sd d with lost := true }
    let other : State := let u := s (.sdie true); u.setSd false { u.sd false with lost := true }
    (s (.sdie true)).opd = .sdie true ∧ ((lost false).sd false).lost = true ∧ ((s (.sdie true)).sd true).lost = false ∧ ((s (.sdie true)).sd false).lost = false ∧
    (other.sd true).lost = false ∧ (other.sd (!true)).lost = true ∧ (s (.pkg 9)).opd = .pkg 9 ∧
    (c, { Ctx.reset with st := .wait, wait := some (.gather [9] 1) }) ∈ (s (.pkg 9)).allCtx ∧ (s (.port true 7)).opd = .port true 7 ∧
    (s (.link 6 16 true)).opd = .link 6 16 true ∧ (s (.link 6 16 true)).sd0.lost = false ∧ (s (.link 7 2 true)).opd = .link 7 2 true := by decide +kernel

/-- No write of the device waits for the host. -/
theorem wit_CheckpointsAndLosses_writes : (arg (fw []) (.sdie true)).hostWrites = [] ∧ (arg (fw []) (.link 6 16 true)).hostWrites = [] := by
  decide +kernel

theorem wit_HostAccesses :
    let top := 192 * 2 ^ 30
    let a (pa : Nat) (w : Option Word) : HostAccess := ⟨pa, 8, w, false⟩
    let s (o : Operand) (cxl : Bool) : State := { arg (fw []) o with link := ⟨6, 16, cxl⟩ }
    let acc (pa : Nat) (w : Option Word) : State := s (.host (a pa w)) true
    let sn (e : DirEntry) : State :=
      let u := s (.snoop 0x0009000000001000 true) true
      { u with sd0 := { u.sd0 with hostEn := true, hostNum := 9 }, dir := [{ e with line := 0x0009000000001000 / 128 }] }
    let k := 0x0009000000001000 / 128
    (acc (top - 8) (some 5)).opd = .host (a (top - 8) (some 5)) ∧ (s .none true).sd0.lost = false ∧ (s .none true).link.cxl = true ∧
    ({ acc 0 none with hostPend := [.snoop 0 true] }).hostPend ≠ [] ∧ (acc (top - 8) (some 5)).hostPend = [] ∧ (acc (top - 8) (some 5)).st.wf = true ∧
    (a (top - 8) (some 5)).pa + min 8 8 ≤ top ∧ ((acc (top - 8) (some 5)).takePhys ((top - 8) / 128) true).2 = true ∧
    (((acc (top - 8) (some 5)).takePhys ((top - 8) / 128) true).1.takePhys ((top - 8 + 8 - 1) / 128) true).2 = true ∧
    ((away (acc 0x1000 none)).takePhys 0x20 false).2 = false ∧ (away (acc 0x1000 none)).hostPend = [] ∧
    top < (a (top - 7) (some 5)).pa + min 8 8 ∧ (a top none).write = none ∧ (s .none false).link.cxl = false ∧
    (sn (someEntry .x)).opd = .snoop 0x0009000000001000 true ∧ (sn (someEntry .x)).region 0x0009000000001000 = .host 0x1000 ∧ (sn (someEntry .x)).link.cxl = true ∧
    (sn (someEntry .x)).sd0.lost = false ∧ (sn (someEntry .x)).hostPend = [] ∧ ((sn (someEntry .x)).takeHome k true).2 = true ∧
    ((sn { someEntry .x with sharers := [72] }).takeHome k true).2 = false ∧ (sn (someEntry .x)).entry k = some { someEntry .x with line := k } ∧
    (someEntry .x).st ≠ .u ∧ (sn (someEntry .x)).leases = [] ∧ (s (.addr 0x1000) true).opd = .addr 0x1000 := by decide +kernel

/-- The answer for a line of the host, with a write of the device that waits for it and with none. -/
theorem wit_HostAccesses_writes :
    let h : HostRegion := ⟨0x20, 0, true⟩
    let s (w : List (Loc × List Byte)) : State := { arg (fw []) (.addr 0x1000) with link := ⟨6, 16, true⟩, hostHeld := [h], hostWrites := w }
    (s []).hostWrites = [] ∧ (s []).opd = .addr 0x1000 ∧ (s [(⟨.dram, 0x1008⟩, [1, 2])]).hostWrites = [(⟨.dram, 0x1008⟩, [1, 2])] ∧
    (s [(⟨.dram, 0x1008⟩, [1, 2])]).memWf ∧ h.covers (0x1008 / 128) = true ∧ h.covers 0x20 = true ∧ h.snooped = true := by
  unfold State.memWf; decide +kernel

/-- A state for a command with operand `o`, tables on every die, a domain image at 0x3000 that asks for state `to`, its vector
table in no window, window
images at 0x3100 (two segments from 0x2000000 on, of attribute 1), 0x3110 (none) and 0x3120 (a rights byte out of range). -/
def command (o : Operand) (d : Domain) (to_ : Nat) : State :=
  let s := paged (fw [])
  let t := { arg s o with dies := (List.range 8).map (fun k => (k, { s.die 0 with pgEn := true })), domains := [(5, d), (6, dom5)] }
  poke (poke (poke (poke (poke t 0x3000 1 to_) 0x3018 16 (0x30000000 + 2 ^ 64 * 0x100000)) 0x3028 1 8) 0x3100 14 (0x2000000 + 2 ^ 64 * 2 + 2 ^ 96 * 17 + 2 ^ 104))
    0x3120 13 (2 ^ 64 + 2 ^ 96 * 32)

theorem wit_DomainsAndQueues :
    let s (pd from_ to_ : Nat) : State := command (.domain pd 0x3000) { dom5 with state := from_, log2spill := 8 } to_
    let i (t : State) : DomainImage := domainForm (t.fwGet 0x3000 64 3)
    let bound (t : State) : State := { t with others := [(⟨false, 1, false, 7⟩, inState .run)] }
    let bad (t : State) : State := poke t 0x3028 1 7
    let off (t : State) : State := t.setDie 7 { t.die 7 with pgEn := false }
    let under (t : State) : State := poke t 0x3018 8 0x1000
    (i (under (s 5 1 1))).state = 1 ∧ (i (under (s 5 1 1))).ok = true ∧
    (∃ y ∈ (under (s 5 1 1)).domains, (windowAt y.2.wins (segOf (i (under (s 5 1 1))).ivtab)).isSome = true) ∧
    (s 4096 0 1).opd = .domain 4096 0x3000 ∧ 2 < (i (s 5 0 3)).state ∧ (i (s 0 0 1)).state ≤ 2 ∧ ((s 5 1 1).domain 5).state ≤ 1 ∧ (i (s 5 1 1)).state = 1 ∧
    (i (bad (s 5 1 1))).ok = false ∧ (i (s 5 1 1)).ok = true ∧ (s 5 1 1).domainFits 5 (i (s 5 1 1)) = true ∧
    (off (s 5 1 1)).domainFits 5 (i (s 5 1 1)) = false ∧ (i (off (s 5 1 1))).ok = true ∧ (i (off (s 5 1 1))).state = 1 ∧ (i (s 5 1 2)).state = 2 ∧ ((s 5 2 1).domain 5).state = 2 ∧ (i (s 5 2 0)).state = 0 ∧
    (s 5 2 0).domainGone 5 = true ∧ (bound (s 5 2 0)).domainGone 5 = false ∧ (i (bound (s 5 2 0))).state = 0 ∧ ((s 5 0 2).domain 5).state = 0 ∧
    ((s 5 1 0).domain 5).state = 1 ∧ (i (s 5 2 2)).state = 2 := by decide +kernel

theorem wit_DomainsAndQueues_windows :
    let s (idx : Nat) (img : Word) (wins : SMap Window) (area : VAddr) : State :=
      command (.window 5 idx img) { dom5 with log2spill := 8, wins := wins, spillarea := area } 0
    let f (t : State) (img : Nat) : Window × Bool := windowForm (t.fwGet img 16 2)
    let base : State := s 255 0x3100 someWindows 0x100000
    let w : Window := ⟨0x2000000, 2, 17, 1⟩
    let other (t : State) : State := { t with domains := [(5, t.domain 5), (6, { dom5 with wins := [(0, ⟨0x2200000, 1, 1, 0⟩)] })] }
    let bound : State := { base with others := [(⟨false, 1, false, 7⟩, inState .run)] }
    base.opd = .window 5 255 0x3100 ∧ (f base 0x3120).2 = false ∧ f base 0x3100 = (w, true) ∧ (f base 0x3110).1.nseg = 0 ∧ (f base 0x3110).2 = true ∧
    w.base.toNat % 2 ^ 48 + w.nseg * 2 ^ 21 ≤ base.windowLimit w ∧ (∀ x ∈ (base.domain 5).wins.del 255, x.2.meets w = false) ∧
    bound.windowsHeld 5 = true ∧ base.windowsHeld 5 = false ∧ (base.domain 5).state ≠ 0 ∧
    spillCovered ((base.domain 5).wins.del 0) 0x100000 8 = false ∧ spillCovered ((base.domain 5).wins.del 255) 0x100000 8 = true ∧
    (∃ y ∈ ({ base with domains := [(5, { base.domain 5 with ivtab := 0x2000000 })] }).domains, y.2.state ≠ 0 ∧ w.covers (segOf y.2.ivtab.toNat) = true) ∧
    (∀ y ∈ base.domains, y.2.state = 0 ∨ w.covers (segOf y.2.ivtab.toNat) = false) ∧ (other base).attrConflict 5 w = true ∧ base.attrConflict 5 w = false ∧ (s 0 0x3100 someWindows 0x100000).attrConflict 5 w = false ∧
    spillCovered (((s 0 0x3100 someWindows 0x100000).domain 5).wins.del 0 |>.set 0 w) 0x100000 8 = false ∧
    (∀ x ∈ ((s 0 0x3100 someWindows 0x100000).domain 5).wins.del 0, x.2.meets w = false) ∧
    spillCovered ((base.domain 5).wins.del 255 |>.set 255 w) 0x100000 8 = true := by decide +kernel

theorem wit_DomainsAndQueues_queues :
    let q (st : QState) : Queue := { Queue.reset with state := st, pdid := 5, prior := .stopped }
    let s (o : Operand) (st : QState) (d : Domain) : State := { command o d 0 with queues := [(4095, q st)] }
    let full (o : Operand) : State := s o .disabled { dom5 with qmax := 0 }
    let open_ : State := { s (.unit 4095) .stopped dom5 with packets := [{ somePacket .mark true with ref := ⟨0, 4095, 0⟩ }] }
    let f : Firing := { nestFiring with pkt := ⟨0, 4095, 0⟩ }
    let c : CtxId := ⟨false, 1, false, 7⟩
    let p (n : Nat) (areas : VAddr) : State :=
      let t := { s (.preempt 4095 areas n) .active dom5 with others := [(c, { inState .run with firing := some f })] }
      poke (poke { t with mgmt := { t.mgmt with fwimage := 0x8000, savetab := 0x40000 } } 0x8010 2 1) 0x8012 2 1
    let stop (t : State) : State := t.setQueue 4095 { t.queue 4095 with state := .stopped }
    let entry := toBytes 64 (3 + 2 ^ 64 * 4095 + 2 ^ 128 * 2 + 2 ^ 256 * 0x4000)
    let ring (t : State) : State :=
      let m : Mgmt := { t.mgmt with mbxtail := 1, mbxhead := 0, bootstat := 1 }
      { t with mgmt := { m with ring := m.ring.writeN 0 entry } }
    (s (.enable 4095 7) .disabled dom5).opd = .enable 4095 7 ∧ ((s (.enable 4095 7) .active dom5).queue 4095).state ≠ .disabled ∧
    ((s (.enable 4095 7) .disabled dom5).domain ((s (.enable 4095 7) .disabled dom5).queue 4095).pdid.toNat).state = 1 ∧
    (full (.enable 4095 7)).mayOwn 4095 (q .disabled) = false ∧
    (s (.enable 4095 7) .disabled { dom5 with tcok := true }).mayOwn 4095 (q .disabled) = true ∧
    (s (.unit 4096) .active dom5).opd = .unit 4096 ∧ ((s (.unit 4095) .active dom5).queue 4095).state = .active ∧
    ((s (.unit 4095) .error dom5).queue 4095).state = .error ∧ ((s (.unit 4095) .disabled dom5).queue 4095).state = .disabled ∧
    open_.inflight 4095 = true ∧ (s (.unit 4095) .active dom5).inflight 4095 = false ∧ (p 0 0x4000).opd = .preempt 4095 0x4000 0 ∧
    (0x4001 : VAddr).toNat % 256 ≠ 0 ∧ ((p 0 0x4000).queue 4095).state = .active ∧ (stop (p 0 0x4000)).firingsOn 4095 = [c] ∧
    (p 0 0x4000).fromMbx .queueStopPreempt = false ∧ (ring (p 0 0x4000)).mgmt.ring.wf = true ∧
    (ring (p 0 0x4000)).mgmt.mbxtail = (ring (p 0 0x4000)).mgmt.mbxhead + 1 ∧ (ring (p 0 0x4000)).fromMbx .queueStopPreempt = true ∧
    (stop (s (.preempt 4095 0x4000 0) .active dom5)).firingsOn 4095 = [] ∧ ((p 1 0x4000).ctx c).st = .run ∧
    (stop (p 1 0x4000)).tableFull = false ∧ (stop (p 1 0x4000)).layoutOk 1 = true ∧ (p 1 0x4000).fromMbx .queueStopPreempt = false := by decide +kernel

theorem wit_DomainsAndQueues_alive :
    ({ inState .run with firing := some { nestFiring with pkt := ⟨0, 4095, 0⟩ } } : Ctx).killed = false := by decide

theorem wit_PackageCommands :
    let c : CtxId := ⟨false, 1, false, 7⟩
    let s (o : Operand) (x : Ctx) : State := arg (saving [] x) o
    let f (v : CtxState) : Ctx := { inState v with firing := some nestFiring }
    let d (n : Nat) (o : Operand) : State := { arg (fw []) o with domains := [(5, { dom5 with state := n })] }
    let kb : Operand := .keep 95 2 5 0x4000 7
    let held : State := { d 1 kb with others := [(⟨true, 95, false, 1⟩, { inState .run with pdid := 6 })] }
    let busy : State := { d 1 kb with others := [(⟨true, 95, false, 2⟩, inState .run)] }
    selOk 0 0x3801 = true ∧ (selOf 0x3801).ctx = c ∧ (selOf 0x3801).kind = 0 ∧ (selOf 0x3801).slot ≤ 7 ∧ selOk 1 0x3801 = false ∧ selOk 0 0x50000 = true ∧
    4 < (selOf 0x50000).kind ∧ (s (.master 0 0x3801) (f .run)).opd = .master 0 0x3801 ∧ ((s .none (f .run)).ctx c).st ≠ .frozen ∧
    ((s .none (f .frozen)).ctx c).st = .frozen ∧ (s .none (inState .run)).packetOfMaster (selOf 0x3801) = none ∧
    (s .none (f .run)).packetOfMaster (selOf 0x3801) = some ⟨0, 3, 0⟩ ∧ (s (.master 0 0x3801) (f .run)).fromMbx .masterKillPacket = false ∧
    (s (.kill 0 0x50000 0x2000) (f .run)).opd = .kill 0 0x50000 0x2000 ∧ (selOf 0x50000).kind = 5 ∧
    (s .none (f .run)).savedEntry 0x2001 = none ∧ (s .none (f .run)).savedEntry 0x2000 = some (someSaved, 0) ∧
    (s (.kill 0 0x50000 0x2000) (f .run)).fromMbx .masterKill = false ∧ ((s .none (f .idle)).ctx c).st = .idle ∧ ((s .none (f .wait)).ctx c).st ≠ .idle ∧
    ((s .none (f .wait)).ctx c).firing = some nestFiring ∧
    (d 1 kb).opd = kb ∧ 95 ≤ 95 ∧ (0x4000 : Word).toNat % 2 = 0 ∧ ((d 0 kb).domain 5).state = 0 ∧ ((d 2 kb).domain 5).state = 2 ∧ ((d 1 kb).domain 5).state = 1 ∧
    held.keepOther 95 5 = true ∧ (held.ctx ⟨true, 95, false, 2⟩).st = .idle ∧ (busy.ctx ⟨true, 95, false, 2⟩).st ≠ .idle ∧
    (away (mxrun (mxop 0) [(8, 0x3000), (9, 0x40), (10, 0x200000020), (11, 0x40), (12, 0x20)])).keepRuns 0 5 = true ∧ (d 1 kb).keepRuns 95 5 = false ∧
    ((d 1 kb).pod 95).running = none ∧ ((d 1 kb).ctx ⟨true, 95, false, 2⟩).st = .idle ∧ (d 1 kb).keepOther 95 5 = false ∧ ((d 1 kb).pod 95).domain ≠ 5 ∧
    (pod0 (d 1 kb) (fun p => { p with domain := 5 }) |>.pod 0).domain = 5 := by decide +kernel

/-- Packets with and without a firing, killed with no kill before and with one; and a saved firing killed likewise. -/
theorem wit_PackageCommands_kills :
    let c : CtxId := ⟨false, 1, false, 7⟩
    let s (o : Operand) (k : List Kill) (x : Ctx) : State := { arg (saving [] x) o with kills := k }
    let x : Ctx := { inState .run with firing := some nestFiring }
    let msg : Ctx := { inState .frozen with firing := none }
    let e : Kill := .engine c
    selOk 0 0x3801 = true ∧ (selOf 0x3801).ctx = c ∧ (selOf 0x3801).kind = 0 ∧
    (∀ k ∈ [[], [e]], (s (.master 0 0x3801) k x).packetOfMaster (selOf 0x3801) = some ⟨0, 3, 0⟩ ∧ (s (.master 0 0x3801) k x).kills = k ∧
      (s (.master 0 0x3801) k x).firingsOf ⟨0, 3, 0⟩ = [c] ∧ (s (.kill 0 0x50000 0x2000) k msg).kills = k ∧
      (s (.kill 0 0x50000 0x2000) k msg).savedEntry 0x2000 = some (someSaved, 0) ∧ (s (.kill 0 0x50000 0x2000) k msg).fromMbx .masterKill = false) ∧
    (s .none [] msg).firingsOf ⟨0, 3, 0⟩ = [] := by decide +kernel

/-- Whether an image passes the checks of its key rests on the fused keys, which are free, so no state shows that it does. -/
theorem wit_PackageCommands_package :
    let s (o : Operand) (n : Nat) : State := { arg (fw []) o with domains := [(5, { dom5 with state := n })] }
    let act : State := let u := s (.activate 0x200 0) 0; { u with mgmt := { u.mgmt with activating := some (fw []).cur } }
    (s (.configure 9 0x109 0x3000) 1).opd = .configure 9 0x109 0x3000 ∧ (∃ y ∈ (s .none 1).domains, y.2.state = 1) ∧
    (∀ y ∈ (s .none 2).domains, y.2.state ≠ 1) ∧ (s (.activate 0x200 0) 0).opd = .activate 0x200 0 ∧ act.mgmt.activating ≠ none ∧
    (s (.activate 0x200 0) 0).mgmt.activating = none ∧ (s (.activate 0x200 0) 0).fromMbx .firmwareActivate = false ∧ (0x201 : Word).toNat % 512 ≠ 0 ∧
    gives ((s (.activate 0x200 0) 0).activateAt (fwReq 0) 0x200 (vaOf 0) none) (fun r => r.2 == 2) = true ∧ (s (.power 0x81 4 2000) 0).opd = .power 0x81 4 2000 ∧
    (s (.power 0x81 4 2000) 0).fromMbx .powerCommand = false ∧ (0x81 : BitVec 8).getLsbD 7 = true ∧ (0x81 : BitVec 8).getLsbD 1 = false ∧
    imageStatus (imageForm (State.reset.mgmt.flash.readN 0 512)) [] [] ≠ 0 := by decide +kernel

theorem wit_ManagementAndAttestation :
    let s (o : Operand) : State := arg (fw []) o
    let ov : State := (s .none).setCore 767 { (s .none).core 767 with migOv := [(0x7000, 0)] }
    let idle : State := let u := s (.mgmt .mbxtail 1); { u with mgmt := { u.mgmt with bootstat := 1, ring := u.mgmt.ring.writeN 0 [1] } }
    (s (.imm 3)).opd = .imm 3 ∧ (s (.mgmt (.migq 767) 17)).opd = .mgmt (.migq 767) 17 ∧ ((s .none).core 767).migOv = [] ∧ (ov.core 767).migOv ≠ [] ∧
    (s (.mgmt (.postown 7 3) 0)).opd = .mgmt (.postown 7 3) 0 ∧ (3 : Word).toNat % 4 = 3 ∧ idle.opd = .mgmt .mbxtail 1 ∧
    idle.mgmt.mbxhead = idle.mgmt.mbxtail ∧ idle.mgmt.mbxhead ≠ 1 ∧ idle.mgmt.bootstat = 1 ∧ idle.sd0.lost = false ∧
    gives idle.mbxCommand (fun h => h.i == .domainSet) = true ∧
    (let u := s (.mgmt .mbxtail 2); ({ u with mgmt := { u.mgmt with mbxtail := 1 } }).mgmt.mbxhead ≠ 1) ∧
    (s (.mgmtRead .pqeopen (fw []).cur 3)).opd = .mgmtRead .pqeopen (fw []).cur 3 ∧ isFw (fw []).cur = true ∧ isFw ⟨false, 0, false, 0⟩ = false ∧
    (s (.bar 0x18 none)).opd = .bar 0x18 none ∧ (s (.bar 0x4FF8 (some 7))).opd = .bar 0x4FF8 (some 7) ∧ (s .none).mgmt.ring.wf = true ∧
    (s (.cert 0 0 64)).opd = .cert 0 0 64 ∧ 0 ≤ Config.certChain.length ∧ (s (.challenge 1 0)).opd = .challenge 1 0 ∧ (s (.unit 4)).opd = .unit 4 ∧
    (s (.code 0x85)).opd = .code 0x85 := by decide +kernel

theorem wit_MemoryLaws : Memory.wf [(1, 2), (5, 6)] = true ∧ Memory.wf [(1, 2)] = true := by decide

/-- An event that is pending; turns in which firmware's `ADD` of registers that are safe issues, and its `ACTIVATE` is held by its
execution; and a fetch at the top of the memory. -/
theorem wit_StepRunsDecoded :
    let safe (w : List (Nat × Byte)) : State := let t := turn w 0x4000; t.withMe { t.me with haz := [], chksb := false }
    let add := safe [(0x4000, 0x28), (0x4001, 0x03)]
    let act := safe [(0x4000, 0xE0), (0x4001, 0xFC), (0x4002, 0x28), (0x4003, 0x3B)]
    let far := turn [] (192 * 2 ^ 30 - 2)
    let m (s : State) (n : Nat) : State := fetched (picked s) n
    let step_ (s : State) (ws : List Half) (p : Decoded → Bool) : Bool := fetches (picked s) ws && gives (decode ws) (fun d => d.n == ws.length && (m s d.n).permitted d.instr && p d)
    let runs_ (s : State) (d : Decoded) : State := (m s d.n).latch d ((m s d.n).midCycles d.instr)
    (∀ s ∈ [add, act], s.TurnOf ⟨false, 0, false, 0⟩ ⟨false, 0, false, 9⟩ { s with todo := [] } []) ∧ State.reset.events = [⟨.packageReset, .none⟩] ∧
    step_ add [0x0328] (fun d => !(m add 1).issueHeld d.instr && ((m add 1).unsafeSource d.instr).isNone && !(m add 1).me.chksb &&
      after d.instr (runs_ add d) (fun t => !t.held)) = true ∧
    step_ act [0xFCE0, 0x3B28] (fun d => !(m act 2).issueHeld d.instr && ((m act 2).unsafeSource d.instr).isNone &&
      after d.instr (runs_ act d) (fun t => t.held)) = true ∧
    far.me.pdid = 0 ∧ (far.die (dieOf far.cur)).pgEn = false ∧ far.me.views = [] ∧
    far.region (192 * 2 ^ 30 - 2) = .home (192 * 2 ^ 30 - 2) ∧ far.attr (192 * 2 ^ 30 - 2) ≠ 3 ∧
    far.hitLoc far.req 4 (192 * 2 ^ 30 - 2) = none ∧
    gives (far.claim false (192 * 2 ^ 30 - 2) ⟨.dram, 192 * 2 ^ 30 - 2⟩) (fun _ => true) = true := by
  refine ⟨fun s hs => ?_, by decide +kernel⟩
  exact fwTurn_spec (List.all_eq_true.mp (show (List.all _ fwTurn) = true by decide +kernel) s hs)

/-- A turn in which a message context's `LD` is held by a vector instruction of another context that is mid-dispatch. -/
theorem wit_StepRunsDecoded_held :
    let c : CtxId := ⟨false, 0, false, 8⟩
    let u : State := { msg [] with todo := [⟨false, 0, false, 0⟩], st := { (msg []).st with dram := { (msg []).st.dram with bytes := [(0x4000, 0x25), (0x4001, 0x93)] } } }
    let s := u.setSide 0 false { u.side 0 false with mid := 3, midSlot := 0 }
    s.TurnOf ⟨false, 0, false, 0⟩ c { s with todo := [] } ((List.range 8).map (fun k => ⟨false, 0, false, k⟩) ++ [⟨false, 0, false, 9⟩]) ∧
    State.Fetches { s with todo := [] } c [0x9325] (fetched (pickedAs s c)) ∧ gives (decode [0x9325]) (fun d => d.n == 1 && (fetched (pickedAs s c) 1).permitted d.instr &&
      (fetched (pickedAs s c) 1).issueHeld d.instr) = true :=
  ⟨⟨⟨rfl, .inr ⟨rfl, rfl, [], rfl, rfl⟩⟩, [], by decide +kernel, nofun, by decide +kernel⟩, fetches_spec (by decide +kernel), by decide +kernel⟩

/-- A turn before the cycle's bindings. -/
theorem wit_StepRunsDecoded_early :
    let v : CtxId := ⟨false, 0, false, 0⟩
    let s : State := let u := turn [] 0x4000; { u with todo := [], cycle := { u.cycle with early := some [v] } }
    let r : State := { s with cycle := { s.cycle with early := some [], turned := v :: s.cycle.turned } }
    s.TurnOf v ⟨false, 0, false, 9⟩ r [] :=
  ⟨⟨rfl, .inl ⟨[], rfl, rfl⟩⟩, others, by decide +kernel, by decide +kernel, by decide +kernel⟩

theorem wit_CanonicalMemoryKept : ∃ s t : State, s.memWf ∧ step s = .next t := by
  refine ⟨{ State.reset with events := [⟨.linkReplay, .none⟩] }, _, ?_, rfl⟩
  show State.reset.st.wf = true
  decide

end Sys2Proof.Tests
end

section
/-! PROOF. The queue engine (spec/01_work_and_launch.md R33 to R40, spec/02_placement.md R60, R61): what a tail write, an access of
the host through BAR 2, the taking of a packet and the ageing of a queue do, said once for each case. -/

namespace Sys2Proof.Machine

/-! ### What raising a queue's vector leaves -/

@[simp] theorem raiseVector_queues (s : State) (pdid vec : Nat) : (s.raiseVector pdid vec).queues = s.queues := by
  rw [raiseVector_frame]

@[simp] theorem raiseVector_packets (s : State) (pdid vec : Nat) : (s.raiseVector pdid vec).packets = s.packets := by
  rw [raiseVector_frame]

@[simp] theorem packetError_queue (s : State) (q : Nat) (cause : BitVec 8) :
    (s.packetError q cause).queue q = { s.queue q with prior := (s.queue q).state, state := .error, cause := cause } := by
  simp [State.packetError, State.raiseQueueVector, State.queue, State.setQueue]

@[simp] theorem packetError_packets (s : State) (q : Nat) (cause : BitVec 8) : (s.packetError q cause).packets = s.packets := by
  simp [State.packetError, State.raiseQueueVector]

/-! ### Tail writes (R34) -/

section TailWrite
variable {s : State} {q : Nat} {tl : BitVec 32}

/-- A tail write to a disabled queue, or one that is stale, is discarded. -/
theorem tailWrite_of_discarded
    (h : (s.queue q).state = .disabled ∨ (tl - (s.queue q).tail).toNat = 0 ∨ 2 ^ 31 ≤ (tl - (s.queue q).tail).toNat) :
    s.tailWrite q tl = s := by
  unfold State.tailWrite
  by_cases hs : (s.queue q).state = .disabled
  · rw [if_pos hs]
  · rw [if_neg hs, if_pos (by simpa only [Bool.or_eq_true, decide_eq_true_eq] using h.resolve_left hs)]

/-- A tail write within the ring's room moves the tail. -/
theorem tailWrite_of_room (hs : (s.queue q).state ≠ .disabled) (h0 : 0 < (tl - (s.queue q).tail).toNat)
    (h1 : (tl - (s.queue q).tail).toNat < 2 ^ 31)
    (h2 : ((s.queue q).tail - (s.queue q).head).toNat + (tl - (s.queue q).tail).toNat ≤ 2 ^ (s.queue q).log2size) :
    s.tailWrite q tl = s.setQueue q { s.queue q with tail := tl } := by
  unfold State.tailWrite
  rw [if_neg hs, if_neg (by simp only [Bool.or_eq_true, decide_eq_true_eq]; omega), if_neg (by simpa using h2)]

/-- A tail write past the ring's room puts a queue that is not in `ERROR` there, with cause `TAIL_OVER`. -/
theorem tailWrite_of_over (hs : (s.queue q).state ≠ .disabled) (h0 : 0 < (tl - (s.queue q).tail).toNat)
    (h1 : (tl - (s.queue q).tail).toNat < 2 ^ 31)
    (h2 : 2 ^ (s.queue q).log2size < ((s.queue q).tail - (s.queue q).head).toNat + (tl - (s.queue q).tail).toNat) :
    s.tailWrite q tl = if (s.queue q).state = .error then s else s.packetError q 8 := by
  unfold State.tailWrite
  rw [if_neg hs, if_neg (by simp only [Bool.or_eq_true, decide_eq_true_eq]; omega), if_pos (by simpa using h2)]
  rfl

/-- A tail write that reaches the queue engine: of a context of another package under no domain or the queue's own, or of the host
through the queue's doorbell page. -/
theorem exec_tailWrite_of_reaching {who : Option (BitVec 12)} {v : Word}
    (h : (s.opd = .tail q tl who ∧ ¬∃ d, who = some d ∧ d ≠ 0 ∧ d ≠ (s.queue q).pdid) ∨
      (s.opd = .bar (4096 * q) (some v) ∧ q < 4096 ∧ tl = v.setWidth 32)) :
    exec .tailWrite s = .next (s.tailWrite q tl) := by
  change execTailWrite s = _
  rcases h with ⟨ho, hf⟩ | ⟨ho, hq, rfl⟩
  · simp only [execTailWrite, ho, State.tailFrom]
    cases who with
    | none => rfl
    | some d =>
      have hd : ¬((d != 0 && d != (s.queue q).pdid) = true) := by
        simpa only [Bool.and_eq_true, bne_iff_ne, ne_eq, Option.some.injEq, exists_eq_left'] using hf
      simp only [hd, Bool.false_eq_true, if_false]
  · have hb : ¬16777216 ≤ 4096 * q := by omega
    simp [execTailWrite, ho, State.bar2, doorbellWord, hb]

/-- A tail write of another package under a domain that is not the queue's does nothing. -/
theorem exec_tailWrite_of_foreign {who : Option (BitVec 12)} (ho : s.opd = .tail q tl who)
    (h : ∃ d, who = some d ∧ d ≠ 0 ∧ d ≠ (s.queue q).pdid) : exec .tailWrite s = .next s := by
  obtain ⟨d, rfl, h0, hd⟩ := h
  have hw : (d != 0 && d != (s.queue q).pdid) = true := by simpa only [Bool.and_eq_true, bne_iff_ne] using ⟨h0, hd⟩
  change execTailWrite s = _
  simp only [execTailWrite, ho, State.tailFrom, hw, if_true]

/-- What the host writes through BAR 2 anywhere but the first word of a doorbell page is discarded. -/
theorem exec_tailWrite_of_noTail {off : Nat} {v : Word} (ho : s.opd = .bar off (some v)) (h : 2 ^ 24 ≤ off ∨ off % 4096 ≠ 0) :
    exec .tailWrite s = .next s := by
  change execTailWrite s = _
  have hw : (decide (off < 2 ^ 24) && doorbellWord (off % 4096) && off % 4096 == 0) = false := by
    rcases h with h | h
    · rw [decide_eq_false (Nat.not_lt.mpr h), Bool.false_and, Bool.false_and]
    · rw [beq_false_of_ne h, Bool.and_false]
  simp only [execTailWrite, ho, State.bar2, hw, Bool.false_eq_true, if_false]

theorem doorbellWord_iff (off : Nat) : doorbellWord off = true ↔ off ∈ [0, 8, 16] := by
  simp [doorbellWord, or_assoc]

/-- What the host reads through BAR 2: a word of a doorbell page, or 0. -/
theorem exec_tailWrite_read {off : Nat} (ho : s.opd = .bar off none) :
    exec .tailWrite s = .next { s with hostOut := s.hostOut ++
      [.read (if off < 2 ^ 24 ∧ off % 4096 ∈ [0, 8, 16] then s.doorbellRead (off / 4096) (off % 4096) else 0)] } := by
  change execTailWrite s = _
  simp only [execTailWrite, ho, State.bar2, Bool.and_eq_true, decide_eq_true_eq, doorbellWord_iff]

end TailWrite

/-! ### Taking packets (R40, R61) -/

section PacketTake
variable {s : State} {q : Nat}

theorem exec_packetTake_unit (ho : s.opd = .unit q) : exec .packetTake s = .next (s.packetTake q) := by
  change execPacketTake s = _
  rw [execPacketTake, ho]

theorem packetTake_of_noNext (h : s.hasNext q = false) : s.packetTake q = s := by simp [State.packetTake, h]

/-- A packet that a barrier holds back is not looked at. -/
theorem hasNext_of_barred {p : PacketForm} (hp : s.headForm q = some p) (hb : p.barrier = true ∨ p.type = 3)
    (hi : s.inflight q = true) : s.hasNext q = false := by
  have : s.barred q = true := by rcases hb with hb | hb <;> simp [State.barred, hp, hb, hi]
  simp [State.hasNext, this]

theorem packetTake_of_error {cause : BitVec 8} (h : s.hasNext q = true) (hr : s.readPacket q = .error cause) :
    s.packetTake q = s.packetError q cause := by simp [State.packetTake, h, hr]

theorem packetTake_of_wait {p : PacketForm} {w : Work} (hr : s.readPacket q = .ok (p, w)) (hm : s.mayTake q p w = false) :
    s.packetTake q = s := by simp [State.packetTake, hr, hm]

/-- The state in which a packet has been taken, but for what is to happen next. -/
theorem packetTake_of_take {p : PacketForm} {w : Work} (h : s.hasNext q = true) (hr : s.readPacket q = .ok (p, w))
    (hm : s.mayTake q p w = true) :
    s.packetTake q = (State.served ({ s with packets := s.packets ++ [s.openPacket q p w] }.setQueue q
      { s.queue q with head := (s.queue q).head + 1 }) q).push .packetComplete (.packet q (s.queue q).head) := by
  simp only [State.packetTake, h, hr, hm]
  rfl

/-- A queue served keeps its descriptor, but that its class and age begin anew. -/
theorem served_queue (s : State) (q : Nat) :
    (s.served q).queue q = { s.queue q with eff := (s.queue q).prio.toNat, since := s.sdcyc } :=
  State.queue_setQueue _ _ _

theorem active_of_hasNext (h : s.hasNext q = true) : (s.queue q).state = .active := by
  simp only [State.hasNext, Bool.and_eq_true, beq_iff_eq] at h
  obtain ⟨⟨⟨⟨hactive, -⟩, -⟩, -⟩, -⟩ := h
  exact hactive

end PacketTake

/-! ### Ageing (R60) -/

theorem exec_queueAgeing_unit {s : State} {q : Nat} (ho : s.opd = .unit q) : exec .queueAgeing s = .next (s.queueAge q) := by
  change execQueueAgeing s = _
  rw [execQueueAgeing, ho]

theorem queueAge_of_due {s : State} {q : Nat} (hr : s.queueReady q = true) (h0 : 0 < s.engine.ageStep.toNat)
    (h : (s.queue q).since + s.engine.ageStep.toNat ≤ s.sdcyc) :
    s.queueAge q = s.setQueue q { s.queue q with eff := (s.queue q).eff - 1, since := (s.queue q).since + s.engine.ageStep.toNat } := by
  unfold State.queueAge
  simp only []
  rw [if_pos]
  simp only [hr, Bool.true_and, Bool.and_eq_true, bne_iff_ne, decide_eq_true_eq]
  omega

theorem queueAge_of_notDue {s : State} {q : Nat}
    (h : s.queueReady q = false ∨ s.engine.ageStep.toNat = 0 ∨ s.sdcyc < (s.queue q).since + s.engine.ageStep.toNat) :
    s.queueAge q = s := by
  unfold State.queueAge
  simp only []
  rw [if_neg]
  simp only [Bool.and_eq_true, bne_iff_ne, decide_eq_true_eq]
  rintro ⟨⟨hr, h0⟩, hd⟩
  rcases h with h | h | h
  · simp [h] at hr
  · exact h0 h
  · omega

end Sys2Proof.Machine
end

section
open Sys2Proof Sys2Proof.Machine

/-- Settles O37, by the cases of a tail write's distance, of what the host accesses, of what stands at the queue's head, and of
the time since the queue last aged. -/
theorem queueEngine : Obligations.QueueEngine := by
  unfold Obligations.QueueEngine
  intro s q off tl who v cause p w Q n step foreign word
  refine ⟨fun hr => ?_, fun ho hf => ?_, fun ho hb => ?_, fun ho => ?_, fun ho => ?_⟩
  · have he := exec_tailWrite_of_reaching hr
    refine ⟨fun h => ⟨_, he, tailWrite_of_discarded h⟩, fun hs h0 h1 h2 => ⟨_, he, tailWrite_of_room hs h0 h1 h2⟩,
      fun h0 h1 h2 => ⟨fun hs => ⟨_, he, ?_⟩, fun hs => ⟨_, he, ?_⟩⟩⟩
    · have hd : Q.state ≠ .disabled ∧ Q.state ≠ .error := by rcases hs with hs | hs <;> simp [hs]
      rw [tailWrite_of_over hd.1 h0 h1 h2, if_neg hd.2]
      exact packetError_queue s q 8
    · rw [tailWrite_of_over (hs ▸ nofun) h0 h1 h2, if_pos hs]
  · exact ⟨_, exec_tailWrite_of_foreign ho hf, rfl⟩
  · exact ⟨_, exec_tailWrite_of_noTail ho hb, rfl⟩
  · refine ⟨fun hq hlt hmem => ⟨_, exec_tailWrite_read ho, ?_⟩, fun hno => ⟨_, exec_tailWrite_read ho, ?_⟩⟩
    · rw [if_pos ⟨by omega, hmem⟩, hq, State.doorbellRead, Nat.mul_comm _ 256, Nat.mul_comm _ 65536]
    · rw [if_neg (fun ⟨hlt, hmem⟩ => hno.elim (Nat.not_le.mpr hlt) (fun h => h hmem))]
  · have ht := exec_packetTake_unit ho
    have ha := exec_queueAgeing_unit ho
    refine ⟨fun hp hb hi => ⟨_, ht, packetTake_of_noNext (hasNext_of_barred hp hb hi)⟩, fun h => ⟨_, ht, packetTake_of_noNext h⟩,
      fun h hr => ⟨_, ht, ?_⟩, fun h hr hm => ⟨_, ht, packetTake_of_wait hr hm⟩, fun h hr hm => ⟨_, ht, ?_⟩,
      fun hr h0 h => ⟨_, ha, queueAge_of_due hr h0 h⟩, fun h => ⟨_, ha, queueAge_of_notDue h⟩⟩
    · rw [packetTake_of_error h hr]
      exact ⟨packetError_queue s q cause, packetError_packets s q cause⟩
    · rw [packetTake_of_take h hr hm]
      have hq := served_queue ({ s with packets := s.packets ++ [s.openPacket q p w] }.setQueue q { Q with head := Q.head + 1 }) q
      rw [State.queue_setQueue] at hq
      refine ⟨congrArg Queue.head hq, (congrArg Queue.state hq).trans (active_of_hasNext h), sameBytes_of_st rfl,
        s.openPacket q p w, rfl, rfl, rfl, rfl, rfl, rfl, rfl⟩

end

section
/-! PROOF. A state whose list of contexts names one context twice refutes what is said of a kill with an engine's kill behind it (R397). -/

namespace Sys2Proof.Machine

theorem exec_killComplete_ctx {s : State} {c : CtxId} (ho : s.opd = .ctx c) : exec .killComplete s = .next (s.killDone c) := by
  change execKillComplete s = _
  rw [execKillComplete, ho]

/-- The user context whose kill is to complete. -/
def relisted : CtxId := { keep := false, unit := 0, side := false, slot := 1 }

/-- Its firing, which has been killed. -/
def relistedFiring : Firing :=
  { graph := false, fid := 1, launchId := 0, pkt := { pkg := 0, q := 0, num := 0 }, gang := false, outq := [], allow := [], outAt := 0,
    killed := true }

/-- A tracked command that has not started, of the engine command stream whose kill waits behind that of the context. -/
def relistedCmd : CopyCmd :=
  { words := [], owner := .ctx State.reset.cur, src := State.reset.cur, pdid := 0, launchId := 0, handle := 1, started := false }

/-- The context stands twice in the list of contexts: as it is, drained and killed, and again behind that as one that waits on the
command. -/
def relistedState : State :=
  { State.reset with
    opd := .ctx relisted
    others := [(relisted, { Ctx.reset with st := .drain, firing := some relistedFiring }),
               (relisted, { Ctx.reset with st := .wait, wait := some (.copy 1 none 0 1) })]
    kills := [.ctx relisted, .engine State.reset.cur]
    dies := [(0, { Die.reset with engines := [(0, [relistedCmd])] })] }

theorem relistedState_meets : (relistedState.ctx relisted).killed = true ∧ relistedState.drained relisted = true ∧
    relistedState.reqsOf relisted = 0 := by decide +kernel

/-- The command ends `KILLED`, and its end wakes what waits on it by the second entry: the context has left `IDLE` again. -/
theorem relistedState_runs : ((relistedState.killDone relisted).ctx relisted).st = .run := by decide +kernel

end Sys2Proof.Machine
end

section
open Sys2Proof Sys2Proof.Machine

/-- Refutes O40: the kill of a context that the state lists twice, the second time as waiting on a command of the engine command
stream whose kill comes next, leaves it in `RUN`, not `IDLE`. No step makes such a list, but the statement is of every state, and
its clause on a kill with an engine's kill behind it does not ask for one entry for each context. -/
theorem not_firingsStartAndEnd : ¬ Obligations.FiringsStartAndEnd := by
  unfold Obligations.FiringsStartAndEnd
  intro h
  obtain ⟨hctx, -⟩ := h relistedState relisted ⟨0, [], [], none⟩ 0 0 (relistedState.openPacket 0 (packetForm []) .mark) .idle
  obtain ⟨-, -, -, -, -, hkill, -⟩ := hctx rfl
  obtain ⟨hkilled, hdrained, hreqs⟩ := relistedState_meets
  obtain ⟨t, ht, hidle, -⟩ := hkill State.reset.cur hkilled hdrained hreqs rfl
  have hdone : relistedState.killDone relisted = t := Host.Outcome.next.inj ((exec_killComplete_ctx rfl).symm.trans ht)
  have hrun : (t.ctx relisted).st = .run := hdone ▸ relistedState_runs
  exact nomatch hidle.symm.trans hrun

end

section
/-! PROOF. The mailbox (spec/15_interruption.md R404): what a command that is answered leaves in the ring, and runs of bytes read back. -/

namespace Sys2Proof.Machine

/-! ### Runs of bytes read after a write -/

theorem Memory.getElem_readN (m : Memory) (a n k : Nat) (h : k < (m.readN a n).length) : (m.readN a n)[k] = m.read (a + k) := by
  induction n generalizing a k with
  | zero => simp [Memory.readN] at h
  | succ n ih =>
    cases k with
    | zero => rfl
    | succ j =>
      rw [length_readN] at h
      simp only [Memory.readN, List.getElem_cons_succ]
      rw [ih (a + 1) j (by rw [length_readN]; omega), Nat.add_right_comm, Nat.add_assoc]

/-- A run that is written reads back as it was written. -/
theorem Memory.readN_writeN {m : Memory} {a n : Nat} {l : List Byte} (w : m.wf = true) (h : l.length = n) :
    (m.writeN a l).readN a n = l := by
  refine List.ext_getElem (by rw [length_readN, h]) fun k h1 h2 => ?_
  rw [Memory.getElem_readN, Memory.read_writeN_in w h2]

/-- A run apart from what is written reads as before. -/
theorem Memory.readN_writeN_out {m : Memory} {a b n : Nat} {l : List Byte} (w : m.wf = true) (h : b + n ≤ a ∨ a + l.length ≤ b) :
    (m.writeN a l).readN b n = m.readN b n := by
  refine List.ext_getElem (by simp only [length_readN]) fun k h1 h2 => ?_
  rw [length_readN] at h1
  rw [Memory.getElem_readN, Memory.getElem_readN, Memory.read_writeN_out w (by omega)]

theorem ofBytes_toBytes (n v : Nat) : ofBytes (toBytes n v) = v % 256 ^ n := by
  induction n generalizing v with
  | zero => simp [toBytes, ofBytes, Nat.mod_one]
  | succ n ih =>
    rw [toBytes, ofBytes, ih, BitVec.toNat_ofNat, show 256 ^ (n + 1) = 256 * 256 ^ n from Nat.pow_succ']
    exact Nat.mod_mul.symm

/-- A number written as bytes reads back. -/
theorem Memory.ofBytes_readN_writeN {m : Memory} {a n v : Nat} (w : m.wf = true) (h : v < 256 ^ n) :
    ofBytes ((m.writeN a (toBytes n v)).readN a n) = v := by
  rw [Memory.readN_writeN w (length_toBytes n v), ofBytes_toBytes, Nat.mod_eq_of_lt h]

/-! ### The entry at `MBXHEAD` completed -/

/-- Raising a management event sets its bit and leaves the mailbox. -/
theorem raiseMgmt_mgmt (s : State) (n : Nat) (h : n < 64) :
    (s.raiseMgmt n).mgmt = { s.mgmt with mgmtev := (s.raiseMgmt n).mgmt.mgmtev } ∧ (s.raiseMgmt n).mgmt.mgmtev.getLsbD n = true := by
  unfold State.raiseMgmt
  split
  · next hb => exact ⟨rfl, hb⟩
  · refine ⟨rfl, ?_⟩
    rw [BitVec.getLsbD_or, BitVec.getLsbD_ofNat, Nat.testBit_two_pow_self, decide_eq_true h, Bool.and_self, Bool.or_true]

theorem raiseMgmt_only (s : State) (n : Nat) :
    s.raiseMgmt n = { s with mgmt := (s.raiseMgmt n).mgmt, hostOut := (s.raiseMgmt n).hostOut } := by
  unfold State.raiseMgmt
  split <;> rfl

theorem mbxDone_only (s : State) (n : Nat) :
    s.mbxDone n = { s with mgmt := (s.mbxDone n).mgmt, hostOut := (s.mbxDone n).hostOut } := by
  rw [State.mbxDone, raiseMgmt_only]

@[simp] theorem mbxDone_me (s : State) (n : Nat) : (s.mbxDone n).me = s.me := by rw [mbxDone_only]
@[simp] theorem mbxDone_others (s : State) (n : Nat) : (s.mbxDone n).others = s.others := by rw [mbxDone_only]
@[simp] theorem mbxDone_queue (s : State) (n q : Nat) : (s.mbxDone n).queue q = s.queue q := by
  rw [mbxDone_only]
  rfl

/-- The entry completed: its `STATUS` is written, `MBXHEAD` is past it, and event 4 is raised. -/
theorem mbxDone_mgmt (s : State) (n : Nat) :
    (s.mbxDone n).mgmt = { s.mgmt with ring := s.mgmt.ring.writeN (s.mbxEntry + 2) (toBytes 2 n), mbxhead := s.mgmt.mbxhead + 1,
                                       mgmtev := (s.mbxDone n).mgmt.mgmtev } ∧
    (s.mbxDone n).mgmt.mgmtev.getLsbD 4 = true :=
  raiseMgmt_mgmt _ 4 (by decide)

/-- With no entry left the management core takes none. -/
theorem mbxNext_of_empty {s : State} {n : Nat} (h : s.mgmt.mbxhead = s.mgmt.mbxtail) : s.mbxNext n = s := by
  cases n with
  | zero => rfl
  | succ n => simp [State.mbxNext, h]

/-! ### Commands answered -/

section Answer
variable {i : Instr} {s u : State} {n : Nat}

/-- A command that is not the mailbox's leaves what it does. -/
theorem answer_of_other (hf : s.fromMbx i = false) : s.answer i (u, n) = .next u := by
  rw [State.answer, hf]
  rfl

/-- The command of the one entry that waits completes the entry. -/
theorem answer_of_entry (hf : s.fromMbx i = true) (ht : u.mgmt.mbxtail = u.mgmt.mbxhead + 1) :
    s.answer i (u, n) = .next (u.mbxDone n) := by
  have he : (u.mbxDone n).mgmt.mbxhead = (u.mbxDone n).mgmt.mbxtail := by
    rw [(mbxDone_mgmt u n).1, ht]
  rw [State.answer, hf, if_pos rfl, mbxNext_of_empty he]

/-- What a command leaves that is answered with a `STATUS`, and that leaves the mailbox alone itself. -/
theorem commands_of_answer {r : State × Nat} {P : State → Prop} (he : exec i s = s.answer i r) (hr : r = (u, n))
    (hm : u.mgmt = s.mgmt) (hn : n < 65536) (hP : P u) : Commands i s n P := by
  subst hr
  refine ⟨fun hf => ⟨u, he.trans (answer_of_other hf), hP⟩, fun hf hw ht => ?_⟩
  obtain ⟨hd, hev⟩ := mbxDone_mgmt u n
  refine ⟨u.mbxDone n, he.trans (answer_of_entry hf (by rw [hm]; exact ht)), ⟨u, hP, mbxDone_only u n⟩, ?_, hev, ?_⟩
  · rw [hd, hm]
  · rw [hd, hm, State.mbxEntry, hm]
    exact Memory.ofBytes_readN_writeN hw hn

/-- A command refused changes nothing but the mailbox's entry. -/
theorem refused_of_answer {r : State × Nat} (he : exec i s = s.answer i r) (hr : r = (s, n)) (hn : n < 65536) :
    Commands i s n (fun t => t = s) := commands_of_answer he hr rfl hn rfl

end Answer

end Sys2Proof.Machine
end

section
/-! PROOF. Domains and windows (spec/01_work_and_launch.md R23 to R26, spec/09_memory.md R238): the answer of domain set and of window
set in each case. -/

namespace Sys2Proof.Machine

/-! ### Rights dropped (R238) -/

/-- Dropping a domain's rights changes PLBs only. -/
theorem dropRights_frame (s : State) (pd : Nat) : s.dropRights pd = { s with cores := (s.dropRights pd).cores } := rfl

/-- No PLB keeps an entry of a domain whose rights have been dropped. -/
theorem dropRights_plb {s : State} {pd : Nat} : ∀ y ∈ (s.dropRights pd).cores, ∀ z ∈ y.2.plb, z.pdid.toNat ≠ pd := by
  intro y hy z hz hpd
  simp only [State.dropRights, State.invalidate, List.mem_map] at hy
  obtain ⟨x, -, rfl⟩ := hy
  have he : BitVec.ofNat 12 pd = z.pdid := by
    rw [← hpd, BitVec.ofNat_toNat, BitVec.setWidth_eq]
  simp [plbDrop, he] at hz

/-! ### Domain set (R25) -/

theorem wintabOf_aligned (pd : Nat) : (wintabOf pd).toNat % 16 = 0 := by
  have h : (wintabOf pd).toNat % 2 ^ 4 = ((wintabOf pd).setWidth 4).toNat := by rw [BitVec.toNat_setWidth]
  have h0 : (wintabOf pd).setWidth 4 = 0 := by
    rw [wintabOf, BitVec.setWidth_and]
    exact BitVec.and_zero
  rw [show 16 = 2 ^ 4 from rfl, h, h0]
  rfl

/-- A window over the vector table of an image keeps its domain from being installed (R24). -/
theorem domainFits_of_windowed {s : State} {pd : Nat} {i : DomainImage}
    (h : ∃ y ∈ s.domains, (windowAt y.2.wins (segOf i.ivtab)).isSome = true) : s.domainFits pd i = false := by
  have hw : s.windowed i.ivtab = true := List.any_eq_true.mpr h
  simp [State.domainFits, hw]

section DomainSet
variable {s : State} {pd : Nat} {img : Word} {i : DomainImage} (hi : domainForm (s.fwGet (vaOf img) 64 3) = i)

theorem exec_domainSet_domain (ho : s.opd = .domain pd img) : exec .domainSet s = s.answer .domainSet (s.domainSet pd img) := by
  change execDomainSet s = _
  rw [execDomainSet, ho]

include hi

theorem domainSet_of_outOfRange (h : 4095 < pd ∨ 2 < i.state) : s.domainSet pd img = (s, 2) := by
  unfold State.domainSet
  rw [hi, if_pos (by simpa only [Bool.or_eq_true, decide_eq_true_eq] using h)]

theorem domainSet_zero (hpd : pd = 0) (h : i.state ≤ 2) : s.domainSet pd img = (s, 1) := by
  unfold State.domainSet
  rw [hi, if_neg (by simp only [Bool.or_eq_true, decide_eq_true_eq]; omega), if_pos hpd]

variable (h0 : 0 < pd) (h1 : pd ≤ 4095)
include h0 h1

/-- From `FREE` and from `LIVE` an image is installed where it is in range and the domain fits it. -/
theorem domainSet_to_live (hd : (s.domain pd).state ≤ 1) (h : i.state = 1) :
    s.domainSet pd img = if !i.ok then (s, 2) else if s.domainFits pd i then (s.setDomain pd ((s.domain pd).install pd i), 0) else (s, 1) := by
  unfold State.domainSet
  rw [hi, if_neg (by simp only [Bool.or_eq_true, decide_eq_true_eq]; omega), if_neg (by omega)]
  rcases Nat.le_one_iff_eq_zero_or_eq_one.mp hd with hd | hd <;> simp only [hd, h]

theorem domainSet_of_badImage (hd : (s.domain pd).state ≤ 1) (h : i.state = 1) (hok : i.ok = false) : s.domainSet pd img = (s, 2) := by
  rw [domainSet_to_live hi h0 h1 hd h, hok]
  rfl

theorem domainSet_of_unfit (hd : (s.domain pd).state ≤ 1) (h : i.state = 1) (hok : i.ok = true) (hf : s.domainFits pd i = false) :
    s.domainSet pd img = (s, 1) := by
  rw [domainSet_to_live hi h0 h1 hd h, hok, hf]
  rfl

theorem domainSet_of_fit (hd : (s.domain pd).state ≤ 1) (h : i.state = 1) (hok : i.ok = true) (hf : s.domainFits pd i = true) :
    s.domainSet pd img = (s.setDomain pd ((s.domain pd).install pd i), 0) := by
  rw [domainSet_to_live hi h0 h1 hd h, hok, hf]
  rfl

theorem domainSet_retire (hd : (s.domain pd).state = 1) (h : i.state = 2) :
    s.domainSet pd img = (s.setDomain pd { s.domain pd with state := 2 }, 0) := by
  unfold State.domainSet
  rw [hi, if_neg (by simp only [Bool.or_eq_true, decide_eq_true_eq]; omega), if_neg (by omega)]
  simp only [hd, h]

theorem domainSet_back (hd : (s.domain pd).state = 2) (h : i.state = 1) :
    s.domainSet pd img = (s.setDomain pd { s.domain pd with state := 1 }, 0) := by
  unfold State.domainSet
  rw [hi, if_neg (by simp only [Bool.or_eq_true, decide_eq_true_eq]; omega), if_neg (by omega)]
  simp only [hd, h]

theorem domainSet_free (hd : (s.domain pd).state = 2) (h : i.state = 0) :
    s.domainSet pd img = if s.domainGone pd then (State.dropRights { s with domains := s.domains.del pd } pd, 0) else (s, 1) := by
  unfold State.domainSet
  rw [hi, if_neg (by simp only [Bool.or_eq_true, decide_eq_true_eq]; omega), if_neg (by omega)]
  simp only [hd, h]

/-- A transition that the table of states does not list is refused. -/
theorem domainSet_of_unlisted (h : (s.domain pd).state = 0 ∧ i.state ≠ 1 ∨ (s.domain pd).state = 1 ∧ i.state = 0 ∨
    (s.domain pd).state = 2 ∧ i.state = 2) (h2 : i.state ≤ 2) : s.domainSet pd img = (s, 1) := by
  unfold State.domainSet
  rw [hi, if_neg (by simp only [Bool.or_eq_true, decide_eq_true_eq]; omega), if_neg (by omega)]
  rcases h with ⟨hd, h⟩ | ⟨hd, h⟩ | ⟨hd, h⟩
  · obtain h | h : i.state = 0 ∨ i.state = 2 := by omega
    all_goals simp only [hd, h]
  all_goals simp only [hd, h]

end DomainSet

/-! ### Window set (R26) -/

/-- The operands of a window set are in range (R26). -/
def State.WindowInRange (s : State) (pd idx : Nat) (img : Word) : Prop :=
  let w := (windowForm (s.fwGet (vaOf img) 16 2)).1
  0 < pd ∧ pd ≤ 4095 ∧ idx ≤ 255 ∧ (windowForm (s.fwGet (vaOf img) 16 2)).2 = true ∧
    (w.nseg ≠ 0 → w.base.toNat % 2 ^ 48 + w.nseg * 2 ^ 21 ≤ s.windowLimit w ∧
      ∀ x ∈ (s.domain pd).wins.del idx, x.2.meets w = false)

section WindowSet
variable {s : State} {pd idx : Nat} {img : Word}

theorem exec_windowSet_window (ho : s.opd = .window pd idx img) : exec .windowSet s = s.answer .windowSet (s.windowSet pd idx img) := by
  change execWindowSet s = _
  rw [execWindowSet, ho]

/-- The window table of a domain replaced, and the rights dropped that it changes (R238). -/
def State.putWindows (s : State) (pd : Nat) (wins : SMap Window) : State :=
  (s.setDomain pd { s.domain pd with wins := wins, nwin := topWindow wins }).dropRights pd

theorem putWindows_frame (s : State) (pd : Nat) (wins : SMap Window) :
    s.putWindows pd wins = { s with domains := (s.putWindows pd wins).domains, cores := (s.putWindows pd wins).cores } := rfl

theorem putWindows_domain (s : State) (pd : Nat) (wins : SMap Window) :
    (s.putWindows pd wins).domain pd = { s.domain pd with wins := wins, nwin := topWindow wins } := State.domain_setDomain _ _ _

/-- A spill area that the windows of a domain that is not `FREE` would not cover keeps its window table as it is (R28). -/
theorem setWindows_of_uncovered {wins : SMap Window}
    (h : (s.domain pd).state ≠ 0 ∧ spillCovered wins (s.domain pd).spillarea.toNat (s.domain pd).log2spill = false) :
    s.setWindows pd wins = (s, 1) := by
  unfold State.setWindows
  rw [if_pos]
  simpa using h

theorem setWindows_of_covered {wins : SMap Window}
    (h : ¬((s.domain pd).state ≠ 0 ∧ spillCovered wins (s.domain pd).spillarea.toNat (s.domain pd).log2spill = false)) :
    s.setWindows pd wins = (s.putWindows pd wins, 0) := by
  unfold State.setWindows
  rw [if_neg]
  · rfl
  · simpa using h

theorem windowSet_of_outOfRange (h : ¬s.WindowInRange pd idx img) : s.windowSet pd idx img = (s, 2) := by
  unfold State.windowSet
  simp only []
  split
  · rfl
  · next ha =>
    split
    · rfl
    · next hb =>
      refine absurd ?_ h
      simp only [Bool.or_eq_true, decide_eq_true_eq, Bool.not_eq_true', not_or, Bool.not_eq_false] at ha
      simp only [Bool.and_eq_true, bne_iff_ne, Bool.or_eq_true, decide_eq_true_eq, List.any_eq_true, not_and, not_or,
        Nat.not_lt, not_exists, Bool.not_eq_true] at hb
      obtain ⟨⟨⟨h0, h1⟩, h2⟩, h3⟩ := ha
      exact ⟨Nat.pos_of_ne_zero h0, Nat.not_lt.mp h1, Nat.not_lt.mp h2, h3, hb⟩

/-- The answer of a window set whose operands are in range. -/
theorem windowSet_of_inRange {w : Window} {rest : SMap Window} (hw : (windowForm (s.fwGet (vaOf img) 16 2)).1 = w)
    (hr : (s.domain pd).wins.del idx = rest) (h : s.WindowInRange pd idx img) :
    s.windowSet pd idx img =
      if s.windowsHeld pd then (s, 1)
      else if w.nseg = 0 then s.setWindows pd rest
      else if s.overTable w then (s, 1)
      else if s.attrConflict pd w then (s, 3)
      else if (s.domain pd).state ≠ 0 ∧ spillCovered (rest.set idx w) (s.domain pd).spillarea.toNat (s.domain pd).log2spill = false then
        (s, 1)
      else ({ s.putWindows pd (rest.set idx w) with empties := (s.freshAttr w).empties, bv := (s.freshAttr w).bv }, 0) := by
  obtain ⟨h0, h1, h2, h3, h4⟩ := h
  subst hw hr
  have hform : ¬(decide (pd = 0) || decide (4095 < pd) || decide (255 < idx) || !(windowForm (s.fwGet (vaOf img) 16 2)).2) = true := by
    simp only [Bool.or_eq_true, decide_eq_true_eq, Bool.not_eq_true', not_or, Bool.not_eq_false]
    exact ⟨⟨⟨Nat.pos_iff_ne_zero.mp h0, Nat.not_lt.mpr h1⟩, Nat.not_lt.mpr h2⟩, h3⟩
  unfold State.windowSet
  simp only []
  rw [if_neg hform, if_neg]
  · by_cases hc : (s.domain pd).state ≠ 0 ∧ spillCovered (((s.domain pd).wins.del idx).set idx (windowForm (s.fwGet (vaOf img) 16 2)).1)
        (s.domain pd).spillarea.toNat (s.domain pd).log2spill = false
    · rw [setWindows_of_uncovered hc, if_pos hc]
      rfl
    · rw [setWindows_of_covered hc, if_neg hc]
      rfl
  · simp only [Bool.and_eq_true, bne_iff_ne, Bool.or_eq_true, decide_eq_true_eq, List.any_eq_true, not_and, not_or, Nat.not_lt,
      not_exists, Bool.not_eq_true]
    exact h4

theorem overTable_iff {w : Window} :
    s.overTable w = true ↔ ∃ y ∈ s.domains, y.2.state ≠ 0 ∧ w.covers (segOf y.2.ivtab.toNat) = true := by
  simp only [State.overTable, List.any_eq_true, Bool.and_eq_true, bne_iff_ne]

/-- The words that a window of attribute `FE` leaves empty are those that had the attribute before (R254). -/
theorem freshAttr_empties {w : Window} (hw : w.attr = 1) : ∀ a ∈ (s.freshAttr w).empties, w.covers (segOf a) = true → s.attr a = 1 := by
  intro a ha hc
  simp only [State.freshAttr, hw, if_true, List.mem_filter, hc, Bool.true_and, Bool.not_eq_true', bne_eq_false_iff_eq] at ha
  exact ha.2

end WindowSet

end Sys2Proof.Machine
end

section
/-! PROOF. Queue control (spec/01_work_and_launch.md R32, spec/15_interruption.md R404): the answer of each command in each state. -/

namespace Sys2Proof.Machine

/-- A queue in `STOPPED` (R32). -/
def State.stopQueue (s : State) (q : Nat) : State := s.setQueue q { s.queue q with state := .stopped }

section QueueControl
variable {s : State} {q n : Nat} {v : BitVec 32} {areas : VAddr}

/-! ### The commands as they are answered -/

theorem exec_queueEnable_enable (ho : s.opd = .enable q v) : exec .queueEnable s = s.answer .queueEnable (s.queueEnable q v) := by
  change execQueueEnable s = _
  rw [execQueueEnable, ho]

theorem exec_queueStop_unit (ho : s.opd = .unit q) : exec .queueStop s = s.answer .queueStop (s.queueStop q) := by
  change execQueueStop s = _
  rw [execQueueStop, ho]

theorem exec_queueResume_unit (ho : s.opd = .unit q) : exec .queueResume s = s.answer .queueResume (s.queueResume q) := by
  change execQueueResume s = _
  rw [execQueueResume, ho]

theorem exec_queueClearReread_unit (ho : s.opd = .unit q) :
    exec .queueClearReread s = s.answer .queueClearReread (s.queueClear q false) := by
  change execQueueClearReread s = _
  rw [execQueueClearReread, ho]

theorem exec_queueClearSkip_unit (ho : s.opd = .unit q) : exec .queueClearSkip s = s.answer .queueClearSkip (s.queueClear q true) := by
  change execQueueClearSkip s = _
  rw [execQueueClearSkip, ho]

theorem exec_queueDisable_unit (ho : s.opd = .unit q) : exec .queueDisable s = s.answer .queueDisable (s.queueDisable q) := by
  change execQueueDisable s = _
  rw [execQueueDisable, ho]

/-- A stop and pre-empt whose answer is not that of too few areas is answered like any command. -/
theorem exec_queueStopPreempt_of_enough (ho : s.opd = .preempt q areas n) {t : State} {k : Nat}
    (h : s.queuePreempt q areas n = (t, k)) (hk : k ≠ 6) : exec .queueStopPreempt s = s.answer .queueStopPreempt (t, k) := by
  change execQueueStopPreempt s = _
  rw [execQueueStopPreempt, ho]
  simp only [h, hk, decide_false, Bool.false_and, Bool.false_eq_true, if_false]

/-! ### Enable, stop, resume, clear, disable -/

theorem queueEnable_of_big (h : 4095 < q) : s.queueEnable q v = (s, 2) := by simp [State.queueEnable, h]
theorem queueStop_of_big (h : 4095 < q) : s.queueStop q = (s, 2) := by simp [State.queueStop, h]
theorem queueResume_of_big (h : 4095 < q) : s.queueResume q = (s, 2) := by simp [State.queueResume, h]
theorem queueClear_of_big (skip : Bool) (h : 4095 < q) : s.queueClear q skip = (s, 2) := by simp [State.queueClear, h]
theorem queueDisable_of_big (h : 4095 < q) : s.queueDisable q = (s, 2) := by simp [State.queueDisable, h]

/-- Each command refuses a queue number above 4095. -/
theorem queueControl_of_big (ho : s.opd = .unit q) (h : 4095 < q) :
    ∀ i ∈ [Instr.queueStop, .queueResume, .queueClearReread, .queueClearSkip, .queueDisable], Commands i s 2 (fun t => t = s) := by
  simp only [List.forall_mem_cons]
  refine ⟨?_, ?_, ?_, ?_, ?_, nofun⟩
  · exact refused_of_answer (exec_queueStop_unit ho) (queueStop_of_big h) (by decide)
  · exact refused_of_answer (exec_queueResume_unit ho) (queueResume_of_big h) (by decide)
  · exact refused_of_answer (exec_queueClearReread_unit ho) (queueClear_of_big false h) (by decide)
  · exact refused_of_answer (exec_queueClearSkip_unit ho) (queueClear_of_big true h) (by decide)
  · exact refused_of_answer (exec_queueDisable_unit ho) (queueDisable_of_big h) (by decide)

variable (hq : q ≤ 4095)
include hq

theorem queueEnable_of_state (h : (s.queue q).state ≠ .disabled ∨ (s.domain (s.queue q).pdid.toNat).state ≠ 1) :
    s.queueEnable q v = (s, 4) := by
  unfold State.queueEnable
  rw [if_neg (Nat.not_lt.mpr hq), if_pos (by simpa only [Bool.or_eq_true, bne_iff_ne] using h)]

theorem queueEnable_of_live (h : (s.queue q).state = .disabled) (hl : (s.domain (s.queue q).pdid.toNat).state = 1) :
    s.queueEnable q v = if s.mayOwn q (s.queue q) then
      (s.setQueue q { s.queue q with state := .active, head := v, tail := v, eff := (s.queue q).prio.toNat, since := s.sdcyc }, 0)
      else (s, 2) := by
  unfold State.queueEnable
  rw [if_neg (Nat.not_lt.mpr hq), if_neg (by simp [h, hl])]
  cases s.mayOwn q (s.queue q) <;> rfl

theorem queueStop_eq : s.queueStop q =
    if (s.queue q).state ≠ .active then (s, 4) else (s.stopQueue q, 0) := by
  unfold State.queueStop
  rw [if_neg (Nat.not_lt.mpr hq)]
  simp only [bne_iff_ne]
  rfl

theorem queueResume_eq : s.queueResume q =
    if (s.queue q).state ≠ .stopped then (s, 4) else (s.setQueue q { s.queue q with state := .active }, 0) := by
  unfold State.queueResume
  rw [if_neg (Nat.not_lt.mpr hq)]
  simp only [bne_iff_ne]

theorem queueClear_eq (skip : Bool) : s.queueClear q skip =
    if (s.queue q).state ≠ .error then (s, 4) else
      (s.setQueue q { s.queue q with
        state := (s.queue q).prior, head := if skip = true ∧ (s.queue q).cause ≠ 8 then (s.queue q).head + 1 else (s.queue q).head }, 0) := by
  unfold State.queueClear
  rw [if_neg (Nat.not_lt.mpr hq)]
  simp only [bne_iff_ne, Bool.and_eq_true]

theorem queueDisable_eq : s.queueDisable q =
    if (s.queue q).state = .disabled then (s, 4) else if s.inflight q then (s, 1) else
      (s.setQueue q { s.queue q with state := .disabled }, 0) := by
  unfold State.queueDisable
  rw [if_neg (Nat.not_lt.mpr hq)]

/-! ### Stop and pre-empt -/

omit hq in
/-- A queue's descriptor has no part in which contexts hold firings of its packets, nor in their order. -/
theorem firingsOn_setQueue (x : Queue) : (s.setQueue q x).firingsOn q = s.firingsOn q := by
  have hput : ∀ c l, putByFid (s.setQueue q x) c l = putByFid s c l := by
    intro c l
    induction l with
    | nil => rfl
    | cons d r ih =>
      rw [putByFid, putByFid, ih]
      rfl
  unfold State.firingsOn
  simp only [hput]
  rfl

omit hq in
theorem queuePreempt_of_outOfRange (h : 4095 < q ∨ areas.toNat % 256 ≠ 0) : s.queuePreempt q areas n = (s, 2) := by
  unfold State.queuePreempt
  rw [if_pos (by simpa only [Bool.or_eq_true, decide_eq_true_eq, bne_iff_ne] using h)]

variable (ha : areas.toNat % 256 = 0)
include ha

theorem queuePreempt_of_notActive (h : (s.queue q).state ≠ .active) : s.queuePreempt q areas n = (s, 4) := by
  unfold State.queuePreempt
  rw [if_neg (by simp [ha, hq]), queueStop_eq hq, if_pos h]
  rfl

variable (h : (s.queue q).state = .active)
include h

theorem queuePreempt_of_active : s.queuePreempt q areas n =
    if n < ((s.stopQueue q).firingsOn q).length then (s.stopQueue q, 6) else
      ((((s.stopQueue q).firingsOn q).zip (List.range ((s.stopQueue q).firingsOn q).length)).foldl (fun (u : State) x =>
        u.preemptNow x.1 (areas + BitVec.ofNat 56 (x.2 * s.areaStride q))) (s.stopQueue q), 0) := by
  unfold State.queuePreempt
  rw [if_neg (by simp [ha, hq]), queueStop_eq hq, if_neg (not_not_intro h)]
  rfl

theorem queuePreempt_of_few (hn : n < ((s.stopQueue q).firingsOn q).length) : s.queuePreempt q areas n = (s.stopQueue q, 6) := by
  rw [queuePreempt_of_active hq ha h, if_pos hn]

theorem queuePreempt_of_none (hl : (s.stopQueue q).firingsOn q = []) : s.queuePreempt q areas n = (s.stopQueue q, 0) := by
  rw [queuePreempt_of_active hq ha h, hl]
  rfl

theorem queuePreempt_of_one {c : CtxId} (hl : (s.stopQueue q).firingsOn q = [c]) (hn : 1 ≤ n) :
    s.queuePreempt q areas n = ((s.stopQueue q).preemptNow c areas, 0) := by
  rw [queuePreempt_of_active hq ha h, hl, if_neg (show ¬n < [c].length from Nat.not_lt.mpr hn)]
  simp

/-- With too few areas the mailbox is told how many a stop and pre-empt needs. -/
theorem exec_queueStopPreempt_of_few (ho : s.opd = .preempt q areas n) (hn : n < ((s.stopQueue q).firingsOn q).length) :
    exec .queueStopPreempt s = s.answer .queueStopPreempt (if s.fromMbx .queueStopPreempt then
      (s.stopQueue q).mbxNeeded ((s.stopQueue q).firingsOn q).length else s.stopQueue q, 6) := by
  change execQueueStopPreempt s = _
  rw [execQueueStopPreempt, ho]
  simp only [queuePreempt_of_few hq ha h hn, State.stopQueue, firingsOn_setQueue]
  cases s.fromMbx .queueStopPreempt <;> rfl

end QueueControl

/-- The entry of a stop and pre-empt with too few areas is completed with `STATUS` 6 and the number needed in operand dword 6. -/
theorem mbxDone_needed {t : State} {k : Nat} (w : t.mgmt.ring.wf = true) (hk : k < 2 ^ 64) :
    ofBytes (((t.mbxNeeded k).mbxDone 6).mgmt.ring.readN (64 * (t.mgmt.mbxhead.toNat % 256) + 2) 2) = 6 ∧
    ofBytes (((t.mbxNeeded k).mbxDone 6).mgmt.ring.readN (64 * (t.mgmt.mbxhead.toNat % 256) + 56) 8) = k := by
  rw [(mbxDone_mgmt _ 6).1]
  refine ⟨Memory.ofBytes_readN_writeN (Memory.writeN_wf w) (by decide), ?_⟩
  refine (congrArg ofBytes (Memory.readN_writeN_out (Memory.writeN_wf w) (.inr ?_))).trans (Memory.ofBytes_readN_writeN w hk)
  change 64 * (t.mgmt.mbxhead.toNat % 256) + 2 + (toBytes 2 6).length ≤ _
  rw [length_toBytes]
  omega

/-- A context that runs is pre-empted: it saves into the area, where the table has room and firmware's image takes the layout (R399). -/
theorem preemptNow_of_run {s : State} {c : CtxId} {area : VAddr} (hk : (s.ctx c).killed = false) (hs : (s.ctx c).st = .run)
    (hf : s.tableFull = false) (hl : s.layoutOk 1 = true) :
    (s.preemptNow c area).ctx c = { s.ctx c with st := .saving, saving := some { area := area, before := .run }, wait := none, haz := [] } ∧
    (s.preemptNow c area).queues = s.queues ∧ (s.preemptNow c area).st = s.st ∧
    ⟨.saveComplete, .ctx c⟩ ∈ (s.preemptNow c area).events := by
  have he : s.preemptNow c area = State.push (State.withdrawTakes (s.setCtx c { s.ctx c with
      st := .saving, saving := some { area := area, before := .run }, wait := none, haz := [] }) c) .saveComplete (.ctx c) := by
    unfold State.preemptNow
    simp only [hk, hs, hf, hl]
    rfl
  rw [he]
  refine ⟨State.ctx_setCtx_eq s c _, ?_, ?_, ?_⟩
  · simp [State.withdrawTakes]
  · simp [State.withdrawTakes]
  · simp

end Sys2Proof.Machine
end

section
open Sys2Proof Sys2Proof.Machine

/-- Settles O52: each case of domain set, window set and queue control is answered as its lemma says, and the answer reaches the
mailbox by `commands_of_answer`. -/
theorem domainsAndQueues : Obligations.DomainsAndQueues := by
  unfold Obligations.DomainsAndQueues
  refine ⟨fun s pd idx img => ?_, fun s q n v areas c => ?_⟩
  · intro i D w good rest refused onTable hurts inRange noRights
    refine ⟨fun ho => ?_, fun ho => ?_⟩
    · have he := exec_domainSet_domain ho
      refine ⟨fun h => refused_of_answer he (domainSet_of_outOfRange rfl h) (by decide),
        fun hz h => refused_of_answer he (domainSet_zero rfl hz h) (by decide), fun h0 h1 => ?_⟩
      refine ⟨fun hd hs hok => ?_, fun hd hs hok hf => ?_, fun hd hs hok hf => ?_, fun hd hs hok hw => ?_, fun hd hs => ?_,
        fun hd hs => ?_, fun hd hs hg => ?_, fun hd hs hg => ?_, fun h h2 => ?_⟩
      · exact refused_of_answer he (domainSet_of_badImage rfl h0 h1 hd hs hok) (by decide)
      · exact refused_of_answer he (domainSet_of_unfit rfl h0 h1 hd hs hok hf) (by decide)
      · refine commands_of_answer he (domainSet_of_fit rfl h0 h1 hd hs hok hf) rfl (by decide) ?_
        rw [State.domain_setDomain]
        exact ⟨rfl, wintabOf_aligned pd, rfl⟩
      · exact refused_of_answer he (domainSet_of_unfit rfl h0 h1 hd hs hok (domainFits_of_windowed hw)) (by decide)
      · exact commands_of_answer he (domainSet_retire rfl h0 h1 hd hs) rfl (by decide) rfl
      · exact commands_of_answer he (domainSet_back rfl h0 h1 hd hs) rfl (by decide) rfl
      · exact commands_of_answer he ((domainSet_free rfl h0 h1 hd hs).trans (if_pos hg)) rfl (by decide)
          ⟨dropRights_frame _ pd, dropRights_plb⟩
      · exact refused_of_answer he ((domainSet_free rfl h0 h1 hd hs).trans (if_neg (Bool.eq_false_iff.mp hg))) (by decide)
      · exact refused_of_answer he (domainSet_of_unlisted rfl h0 h1 h h2) (by decide)
    · have he := exec_windowSet_window ho
      refine ⟨fun h => refused_of_answer he (windowSet_of_outOfRange h) (by decide), fun hr hh => ?_, fun hr hh => ?_⟩
      all_goals have ha := windowSet_of_inRange rfl rfl hr
      · exact refused_of_answer he (ha.trans (if_pos hh)) (by decide)
      · replace ha := ha.trans (if_neg (Bool.eq_false_iff.mp hh))
        refine ⟨fun hn hu => ?_, fun hn hu => ?_, fun hn ht => ?_, fun hn ht hc => ?_, fun hn ht hc hu => ?_, fun hn ht hc hu => ?_⟩
        · exact refused_of_answer he ((ha.trans (if_pos hn)).trans (setWindows_of_uncovered hu)) (by decide)
        · refine commands_of_answer he ((ha.trans (if_pos hn)).trans (setWindows_of_covered hu)) rfl (by decide) ?_
          rw [putWindows_domain]
          exact ⟨rfl, rfl, dropRights_plb, putWindows_frame s pd rest⟩
        all_goals replace ha := ha.trans (if_neg hn)
        · exact refused_of_answer he (ha.trans (if_pos (overTable_iff.mpr ht))) (by decide)
        all_goals replace ha := ha.trans (if_neg (mt overTable_iff.mp ht))
        · exact refused_of_answer he (ha.trans (if_pos hc)) (by decide)
        all_goals replace ha := ha.trans (if_neg (Bool.eq_false_iff.mp hc))
        · exact refused_of_answer he (ha.trans (if_pos hu)) (by decide)
        · refine commands_of_answer he (ha.trans (if_neg hu)) rfl (by decide) ?_
          have hd := putWindows_domain s pd (rest.set idx w)
          exact ⟨congrArg Domain.wins hd, congrArg Domain.nwin hd, freshAttr_empties, dropRights_plb, rfl⟩
  · intro Q live goes refused stopped
    refine ⟨fun ho => ?_, fun ho => ⟨queueControl_of_big ho, fun hq => ?_⟩, fun ho => ⟨fun h => ?_, fun hq ha => ?_⟩⟩
    · have he := exec_queueEnable_enable ho
      refine ⟨fun h => refused_of_answer he (queueEnable_of_big h) (by decide),
        fun hq h => refused_of_answer he (queueEnable_of_state hq h) (by decide), fun hq hd hl hm => ?_, fun hq hd hl hm => ?_⟩
      · exact refused_of_answer he ((queueEnable_of_live hq hd hl).trans (if_neg (Bool.eq_false_iff.mp hm))) (by decide)
      · exact commands_of_answer he ((queueEnable_of_live hq hd hl).trans (if_pos hm)) rfl (by decide) rfl
    · have hstop := exec_queueStop_unit ho
      have hresume := exec_queueResume_unit ho
      have hreread := exec_queueClearReread_unit ho
      have hskip := exec_queueClearSkip_unit ho
      have hdisable := exec_queueDisable_unit ho
      refine ⟨fun h => ?_, fun h => ?_, fun h => ?_, fun h => ?_, fun h => ?_, fun h => ?_, fun h => ⟨?_, ?_⟩, fun h => ?_, fun h hi => ?_,
        fun h hi => ?_⟩
      · exact commands_of_answer hstop ((queueStop_eq hq).trans (if_neg (not_not_intro h))) rfl (by decide) rfl
      · exact refused_of_answer hstop ((queueStop_eq hq).trans (if_pos h)) (by decide)
      · exact commands_of_answer hresume ((queueResume_eq hq).trans (if_neg (not_not_intro h))) rfl (by decide) rfl
      · exact refused_of_answer hresume ((queueResume_eq hq).trans (if_pos h)) (by decide)
      · exact commands_of_answer hreread ((queueClear_eq hq false).trans (if_neg (not_not_intro h))) rfl (by decide) rfl
      · refine commands_of_answer hskip ((queueClear_eq hq true).trans (if_neg (not_not_intro h))) rfl (by decide) ?_
        simp only [true_and, ite_not]
        rfl
      · exact refused_of_answer hreread ((queueClear_eq hq false).trans (if_pos h)) (by decide)
      · exact refused_of_answer hskip ((queueClear_eq hq true).trans (if_pos h)) (by decide)
      · exact refused_of_answer hdisable ((queueDisable_eq hq).trans (if_pos h)) (by decide)
      · exact refused_of_answer hdisable (((queueDisable_eq hq).trans (if_neg h)).trans (if_pos hi)) (by decide)
      · exact commands_of_answer hdisable (((queueDisable_eq hq).trans (if_neg h)).trans (if_neg (Bool.eq_false_iff.mp hi))) rfl
          (by decide) rfl
    · have hp := queuePreempt_of_outOfRange (s := s) (n := n) h
      exact refused_of_answer (exec_queueStopPreempt_of_enough ho hp (by decide)) rfl (by decide)
    · refine ⟨fun h => ?_, fun h hn hf => ?_, fun h hn hf hw ht hlt => ?_, fun h hl => ?_, fun h hl hn hs hk ht hlay hf => ?_⟩
      · have hp := queuePreempt_of_notActive (n := n) hq ha h
        exact refused_of_answer (exec_queueStopPreempt_of_enough ho hp (by decide)) rfl (by decide)
      · refine ⟨stopped, ?_, rfl⟩
        rw [exec_queueStopPreempt_of_few hq ha h ho hn, hf, answer_of_other hf]
        rfl
      · refine ⟨(stopped.mbxNeeded (stopped.firingsOn q).length).mbxDone 6, ?_, ?_⟩
        · rw [exec_queueStopPreempt_of_few hq ha h ho hn, hf, if_pos rfl, answer_of_entry (u := (s.stopQueue q).mbxNeeded _) hf ht]
          rfl
        · exact ⟨(mbxDone_queue _ 6 q).trans (State.queue_setQueue s q _), mbxDone_me _ 6, mbxDone_others _ 6, mbxDone_needed hw hlt⟩
      · have hp := queuePreempt_of_none (n := n) hq ha h hl
        exact commands_of_answer (exec_queueStopPreempt_of_enough ho hp (by decide)) rfl rfl (by decide) rfl
      · have hp := queuePreempt_of_one hq ha h hl hn
        obtain ⟨hctx, hqueues, hst, hev⟩ := preemptNow_of_run (s := s.stopQueue q) (area := areas) hk hs ht hlay
        refine ⟨_, (exec_queueStopPreempt_of_enough ho hp (by decide)).trans (answer_of_other hf), ?_, ?_,
          ⟨⟨areas, .run⟩, ?_, rfl, rfl⟩, hev, sameBytes_of_st hst⟩
        · rw [State.queue, hqueues]
          exact State.queue_setQueue s q _
        · rw [hctx]
        · rw [hctx]

end
